-- ==== Sys2Proof/Word.lean ====
section
/-! DEFINITION. The word types of the Crinte and the shape of a sparse store (R4, R137). -/

namespace Sys2Proof

/-- One byte (R4). -/
abbrev Byte := BitVec 8
/-- A 64-bit register value (R137). -/
abbrev Word := BitVec 64
/-- A 32-bit slot of a bundle (R257). -/
abbrev Slot32 := BitVec 32
/-- A 1,024-bit vector (R137). -/
abbrev Vec := BitVec 1024
/-- The widest value a transport carries: a 2,048-bit moment value (R316). Narrower values are zero-extended (R271). -/
abbrev Val := BitVec 2048

/-- A sparse store: pairs of a key and a value, in rising key order, holding no value that equals what an
unlisted key reads as (`SMap.wf` of Machine/Map.lean). -/
abbrev SMap (α : Type) := List (Nat × α)

end Sys2Proof
end

