-- ==== Sys2Proof/Syntax.lean ====
section
/-! DEFINITION. The syntax of the Crinte: guards, sources, destinations (R264-R271) and the one inductive `Instr`
with a constructor for each row of spec/opcode_table.json. -/

namespace Sys2Proof

/-- The function units (R270 Table 9). -/
inductive FUnit where
  | seq | alu0 | alu1 | agu | lsu | vu | mu | mx | att | ce | cb | qu | sys
  deriving DecidableEq, Repr

/-- Which of the two integer units (R293). -/
inductive AluSel where
  | alu0 | alu1
  deriving DecidableEq, Repr

/-- The width of a VU trigger (R126). -/
inductive VWidth where
  | w1024 | w512 | w256
  deriving DecidableEq, Repr

/-- The scopes of a drain, acquire or release (R163). -/
inductive Scope where
  | core | clus | die | pkg | dom | sys
  deriving DecidableEq, Repr

/-- Small registers (R269 Table 8). -/
inductive SReg where
  | k (i : Fin 16) | g (i : Fin 8) | a (i : Fin 16) | lc (i : Fin 4) | cb (i : Fin 16) | ft (i : Fin 16) | ct (i : Fin 4)
  deriving DecidableEq, Repr

/-- Special sources (R268 Table 7). -/
inductive Special where
  | rnd | lc (i : Fin 4) | fc | vcc | ptx | pty | ptz | core | clus | ctx | arg (i : Fin 4)
  deriving DecidableEq, Repr

/-- A transport's source (R267). An immediate is the slot's own 10 bits; the bundle's header widens it (R262). -/
inductive Src where
  | s (i : Fin 64) | v (i : Fin 64) | m (i : Fin 16) | small (r : SReg)
  | byp (u : FUnit) (join : Bool) (i : Fin 4)
  | imm (n : BitVec 10)
  | special (c : Special)
  deriving DecidableEq, Repr

/-- The destination of a register-file write (R271). -/
inductive RegDst where
  | s (i : Fin 64) | v (i : Fin 64) | m (i : Fin 16) | small (r : SReg)
  deriving DecidableEq, Repr

/-- A guard: negate bit and register (R265). -/
structure Guard where
  gn : Bool
  gr : Fin 8
  deriving DecidableEq, Repr

/-- What every transport has: its guard and its source (R264). -/
structure Tr where
  g : Guard
  src : Src
  deriving DecidableEq, Repr

/-- A fabric endpoint: package, die code, endpoint code (R34, R35). -/
structure Ep where
  pkg : Nat
  die : Nat
  ep : Nat
  deriving DecidableEq, Repr

/-- One constituent of a combined atomic: its source, stream, SEQ, TAG and operand (R42). -/
structure Constituent where
  src : Ep
  stream : Nat
  seq : Nat
  tag : Nat
  operand : Word
  deriving DecidableEq, Repr

/-- A fabric transaction (R34). `dst` is the target triple of R35; the header word of Table 4 holds its package and
die, and the address names the endpoint. `crc` is the CRC field as it arrived; `payload` is without the zeros that fill its last
unit; `dom` is the other domain's id of one that crosses Ethernet (R50). -/
structure Txn where
  ty : Nat
  priv : Bool := false
  held : Bool := false
  poison : Bool := false
  stream : Nat := 0
  ptag : Nat := 0
  src : Ep
  dst : Ep
  subop : Nat := 0
  addr : Nat := 0
  status : Nat := 0
  otype : Nat := 0
  oclass : Nat := 0
  gen : Nat := 0
  seq : Nat := 0
  tag : Nat := 0
  crc : BitVec 32 := 0
  constituents : List Constituent := []
  payload : List Byte := []
  dom : Option Nat := none
  deriving DecidableEq, Repr

/-- The key of a launch: the compute die that tracks it, its partition and its LID (R96, R98). -/
structure LKey where
  die : Nat
  ptag : Nat
  lid : Nat
  deriving DecidableEq, Repr

/-- Where a soft error strikes (R210 Table 3). -/
inductive SoftSite where
  | scratchpad (core off : Nat) | regFile (core ctx : Nat) | accum (core elem : Nat) | l1 (core pa : Nat)
  | l2 (die pa : Nat) | llc (pa : Nat) | hbm (pa : Nat) | cstore (core idx : Nat) | latch (core ctx : Nat)
  | segStore (core : Nat) | routerBuf (router : Nat) (t : Txn) | slotTable (router slot : Nat) | schedTable (part : Nat)
  deriving DecidableEq, Repr

/-- A soft error: where, and whether the code corrects it (R210). -/
structure SoftErr where
  site : SoftSite
  single : Bool
  deriving DecidableEq, Repr

/-- A host access through BAR2 (R80, R85): the partition, the offset in its window, the bytes of a write or the length
of a read, and whether its Relaxed Ordering attribute is set or its data is
poisoned (R79). -/
structure Bar2Acc where
  part : Nat
  off : Nat
  write : Option (List Byte)
  len : Nat
  relaxed : Bool := false
  poison : Bool := false
  deriving DecidableEq, Repr

/-- A spare the SMC may schedule (R12 Table 3). -/
inductive SpareCmd where
  | core (core : Nat) | llcWay (stack set : Nat) | hbmRow (stack bank : Nat) | hbmChannel (stack : Nat) | lane (port : Nat)
  deriving DecidableEq, Repr

/-- Capabilities of a function that R79 Table 1 has or has not. -/
inductive PcieCap where
  | srIov | aer | acs | ats | pageRequest | doe | ide | msix | intx | msi
  deriving DecidableEq, Repr

/-- A PCI Express configuration request (R79-R81, R93): `setBar2` resizes BAR2 of partition `part` to `2 ^ lg` bytes. The last two
are messages of the address translation service for a host page of a function: a translation that it gets, one that is taken back. -/
inductive CfgReq where
  | setNumVfs (n : Nat) | setVfEnable (on : Bool) | readVf (vf : Nat) | readPf
  | readTotalVfs | readVfStride | readCap (c : PcieCap) | setBar2 (part lg : Nat)
  | atsComplete (fn page : Nat) | atsInvalidate (fn page : Nat)
  deriving DecidableEq, Repr

/-- A device register that a REGISTER_WRITE names (R5): by chapter and index. -/
inductive DevReg where
  | fsc (router : Nat) | pwinLo (router : Nat) | pwinHi (router : Nat)
  | arena (md ptag word : Nat)
  | partDesc (part word : Nat)
  | devstate | hostFilter (fn window half : Nat) | msixMask (part : Nat) | bar2Base (part : Nat)
  | streamEntry (part j : Nat) | msixEntry (part vec half : Nat) | msixPend (part : Nat) | statusLog (part n : Nat)
  | unlisted (off : Nat)
  deriving DecidableEq, Repr

/-- Why a slot is not an instruction: it is empty (R258), breaks an ILLB rule with a reason (R274), names a unit that
is not there (ILLT, R270) or a register beyond its class (ILLREG, R267). -/
inductive DecErr where
  | empty | illb (reason : Nat) | illt (unit : Nat) | illreg (idx cls : Nat)
  deriving DecidableEq, Repr

/-- The header kinds of R260. -/
inductive HKind where
  | lend | imm18 | regext | imm34
  deriving DecidableEq, Repr


/-- The instructions and events of the package: one constructor for each row of spec/opcode_table.json, in its order.
Transports (R264) come first; events, which have no encoding, follow. -/
inductive Instr where
  /-- REGISTER_FILE_WRITE (R271) -/
  | registerFileWrite (d : RegDst) (t : Tr)
  /-- OPERAND_PORT_WRITE (R123) -/
  | operandPortWrite (u : FUnit) (p : Fin 4) (t : Tr)
  /-- SEQ_JMP (R279) -/
  | seqJmp (t : Tr)
  /-- SEQ_JMPR (R279) -/
  | seqJmpr (t : Tr)
  /-- SEQ_CALL (R281) -/
  | seqCall (t : Tr)
  /-- SEQ_CALLR (R281) -/
  | seqCallr (t : Tr)
  /-- SEQ_RET (R278) -/
  | seqRet (t : Tr)
  /-- SEQ_LOOP (R283) -/
  | seqLoop (t : Tr)
  /-- SEQ_LOOPX (R285) -/
  | seqLoopx (t : Tr)
  /-- SEQ_REP (R286) -/
  | seqRep (t : Tr)
  /-- SEQ_MCALL (R136) -/
  | seqMcall (t : Tr)
  /-- SEQ_MRET (R136) -/
  | seqMret (t : Tr)
  /-- SEQ_SUSP (R289) -/
  | seqSusp (t : Tr)
  /-- SEQ_RDV (R290) -/
  | seqRdv (t : Tr)
  /-- SEQ_BRK (R291) -/
  | seqBrk (t : Tr)
  /-- SEQ_WAITG (R292) -/
  | seqWaitg (t : Tr)
  /-- SEQ_WAITNG (R292) -/
  | seqWaitng (t : Tr)
  /-- ALU_ADD (R293) -/
  | aluAdd (u : AluSel) (t : Tr)
  /-- ALU_SUB (R293) -/
  | aluSub (u : AluSel) (t : Tr)
  /-- ALU_MUL (R293) -/
  | aluMul (u : AluSel) (t : Tr)
  /-- ALU_MULH (R293) -/
  | aluMulh (u : AluSel) (t : Tr)
  /-- ALU_MULHU (R293) -/
  | aluMulhu (u : AluSel) (t : Tr)
  /-- ALU_AND (R293) -/
  | aluAnd (u : AluSel) (t : Tr)
  /-- ALU_OR (R293) -/
  | aluOr (u : AluSel) (t : Tr)
  /-- ALU_XOR (R293) -/
  | aluXor (u : AluSel) (t : Tr)
  /-- ALU_ANDN (R293) -/
  | aluAndn (u : AluSel) (t : Tr)
  /-- ALU_SHL (R293) -/
  | aluShl (u : AluSel) (t : Tr)
  /-- ALU_SHR (R293) -/
  | aluShr (u : AluSel) (t : Tr)
  /-- ALU_SAR (R293) -/
  | aluSar (u : AluSel) (t : Tr)
  /-- ALU_ROL (R293) -/
  | aluRol (u : AluSel) (t : Tr)
  /-- ALU_MIN (R293) -/
  | aluMin (u : AluSel) (t : Tr)
  /-- ALU_MAX (R293) -/
  | aluMax (u : AluSel) (t : Tr)
  /-- ALU_MINU (R293) -/
  | aluMinu (u : AluSel) (t : Tr)
  /-- ALU_MAXU (R293) -/
  | aluMaxu (u : AluSel) (t : Tr)
  /-- ALU_SEL (R293) -/
  | aluSel (u : AluSel) (t : Tr)
  /-- ALU_BFX (R294) -/
  | aluBfx (u : AluSel) (t : Tr)
  /-- ALU_BFXS (R294) -/
  | aluBfxs (u : AluSel) (t : Tr)
  /-- ALU_BFI (R294) -/
  | aluBfi (u : AluSel) (t : Tr)
  /-- ALU_CLZ (R293) -/
  | aluClz (u : AluSel) (t : Tr)
  /-- ALU_CTZ (R293) -/
  | aluCtz (u : AluSel) (t : Tr)
  /-- ALU_POPC (R293) -/
  | aluPopc (u : AluSel) (t : Tr)
  /-- ALU_LIMM (R293) -/
  | aluLimm (u : AluSel) (t : Tr)
  /-- ALU_ADDSAT (R293) -/
  | aluAddsat (u : AluSel) (t : Tr)
  /-- ALU_SUBSAT (R293) -/
  | aluSubsat (u : AluSel) (t : Tr)
  /-- ALU_CEQ (R293) -/
  | aluCeq (u : AluSel) (t : Tr)
  /-- ALU_CNE (R293) -/
  | aluCne (u : AluSel) (t : Tr)
  /-- ALU_CLT (R293) -/
  | aluClt (u : AluSel) (t : Tr)
  /-- ALU_CLE (R293) -/
  | aluCle (u : AluSel) (t : Tr)
  /-- ALU_CLTU (R293) -/
  | aluCltu (u : AluSel) (t : Tr)
  /-- ALU_CLEU (R293) -/
  | aluCleu (u : AluSel) (t : Tr)
  /-- ALU_CBIT (R293) -/
  | aluCbit (u : AluSel) (t : Tr)
  /-- AGU_SET (R295) -/
  | aguSet (t : Tr)
  /-- AGU_LIN (R295) -/
  | aguLin (t : Tr)
  /-- AGU_TILE (R295) -/
  | aguTile (t : Tr)
  /-- AGU_ARENA (R295) -/
  | aguArena (t : Tr)
  /-- AGU_CHK (R295) -/
  | aguChk (t : Tr)
  /-- AGU_STEP (R295) -/
  | aguStep (t : Tr)
  /-- LSU_LDB (R355) -/
  | lsuLdb (bp : Bool) (t : Tr)
  /-- LSU_LDH (R355) -/
  | lsuLdh (bp : Bool) (t : Tr)
  /-- LSU_LDW (R355) -/
  | lsuLdw (bp : Bool) (t : Tr)
  /-- LSU_LDD (R355) -/
  | lsuLdd (bp : Bool) (t : Tr)
  /-- LSU_LDBS (R355) -/
  | lsuLdbs (bp : Bool) (t : Tr)
  /-- LSU_LDHS (R355) -/
  | lsuLdhs (bp : Bool) (t : Tr)
  /-- LSU_LDWS (R355) -/
  | lsuLdws (bp : Bool) (t : Tr)
  /-- LSU_LDV (R355) -/
  | lsuLdv (bp : Bool) (t : Tr)
  /-- LSU_STB (R355) -/
  | lsuStb (t : Tr)
  /-- LSU_STH (R355) -/
  | lsuSth (t : Tr)
  /-- LSU_STW (R355) -/
  | lsuStw (t : Tr)
  /-- LSU_STD (R355) -/
  | lsuStd (t : Tr)
  /-- LSU_STV (R355) -/
  | lsuStv (t : Tr)
  /-- LSU_STVN (R359) -/
  | lsuStvn (t : Tr)
  /-- LSU_GATH (R358) -/
  | lsuGath (bp : Bool) (t : Tr)
  /-- LSU_SCAT (R358) -/
  | lsuScat (t : Tr)
  /-- LSU_PREF (R359) -/
  | lsuPref (t : Tr)
  /-- LSU_LDACQ (R168) -/
  | lsuLdacq (sc : Scope) (t : Tr)
  /-- LSU_STREL (R168) -/
  | lsuStrel (sc : Scope) (t : Tr)
  /-- LSU_DRAIN (R167) -/
  | lsuDrain (sc : Scope) (t : Tr)
  /-- VU_ADD (R301) -/
  | vuAdd (w : VWidth) (t : Tr)
  /-- VU_SUB (R301) -/
  | vuSub (w : VWidth) (t : Tr)
  /-- VU_MUL (R301) -/
  | vuMul (w : VWidth) (t : Tr)
  /-- VU_FMA (R301) -/
  | vuFma (w : VWidth) (t : Tr)
  /-- VU_MIN (R301) -/
  | vuMin (w : VWidth) (t : Tr)
  /-- VU_MAX (R301) -/
  | vuMax (w : VWidth) (t : Tr)
  /-- VU_DIV (R301) -/
  | vuDiv (w : VWidth) (t : Tr)
  /-- VU_SQRT (R301) -/
  | vuSqrt (w : VWidth) (t : Tr)
  /-- VU_ADDB (R301) -/
  | vuAddb (w : VWidth) (t : Tr)
  /-- VU_SUBB (R301) -/
  | vuSubb (w : VWidth) (t : Tr)
  /-- VU_MULB (R301) -/
  | vuMulb (w : VWidth) (t : Tr)
  /-- VU_FMAB (R301) -/
  | vuFmab (w : VWidth) (t : Tr)
  /-- VU_MINB (R301) -/
  | vuMinb (w : VWidth) (t : Tr)
  /-- VU_MAXB (R301) -/
  | vuMaxb (w : VWidth) (t : Tr)
  /-- VU_ADDH (R301) -/
  | vuAddh (w : VWidth) (t : Tr)
  /-- VU_SUBH (R301) -/
  | vuSubh (w : VWidth) (t : Tr)
  /-- VU_MULH (R301) -/
  | vuMulh (w : VWidth) (t : Tr)
  /-- VU_FMAH (R301) -/
  | vuFmah (w : VWidth) (t : Tr)
  /-- VU_MINH (R301) -/
  | vuMinh (w : VWidth) (t : Tr)
  /-- VU_MAXH (R301) -/
  | vuMaxh (w : VWidth) (t : Tr)
  /-- VU_EXP2 (R302) -/
  | vuExp2 (w : VWidth) (t : Tr)
  /-- VU_LOG2 (R302) -/
  | vuLog2 (w : VWidth) (t : Tr)
  /-- VU_RCP (R302) -/
  | vuRcp (w : VWidth) (t : Tr)
  /-- VU_RSQRT (R302) -/
  | vuRsqrt (w : VWidth) (t : Tr)
  /-- VU_TANH (R302) -/
  | vuTanh (w : VWidth) (t : Tr)
  /-- VU_ERF (R302) -/
  | vuErf (w : VWidth) (t : Tr)
  /-- VU_SIGM (R302) -/
  | vuSigm (w : VWidth) (t : Tr)
  /-- VU_CVT (R303) -/
  | vuCvt (w : VWidth) (t : Tr)
  /-- VU_BQ (R304) -/
  | vuBq (t : Tr)
  /-- VU_IC8D (R305) -/
  | vuIc8d (w : VWidth) (t : Tr)
  /-- VU_BSCL (R306) -/
  | vuBscl (w : VWidth) (t : Tr)
  /-- VU_IADD (R307) -/
  | vuIadd (w : VWidth) (t : Tr)
  /-- VU_ISUB (R307) -/
  | vuIsub (w : VWidth) (t : Tr)
  /-- VU_IMUL (R307) -/
  | vuImul (w : VWidth) (t : Tr)
  /-- VU_IAND (R307) -/
  | vuIand (w : VWidth) (t : Tr)
  /-- VU_IOR (R307) -/
  | vuIor (w : VWidth) (t : Tr)
  /-- VU_IXOR (R307) -/
  | vuIxor (w : VWidth) (t : Tr)
  /-- VU_ISHL (R307) -/
  | vuIshl (w : VWidth) (t : Tr)
  /-- VU_ISHR (R307) -/
  | vuIshr (w : VWidth) (t : Tr)
  /-- VU_ISAR (R307) -/
  | vuIsar (w : VWidth) (t : Tr)
  /-- VU_IMIN (R307) -/
  | vuImin (w : VWidth) (t : Tr)
  /-- VU_IMAX (R307) -/
  | vuImax (w : VWidth) (t : Tr)
  /-- VU_IADDSAT (R307) -/
  | vuIaddsat (w : VWidth) (t : Tr)
  /-- VU_FCMPEQ (R308) -/
  | vuFcmpeq (w : VWidth) (t : Tr)
  /-- VU_FCMPLT (R308) -/
  | vuFcmplt (w : VWidth) (t : Tr)
  /-- VU_FCMPLE (R308) -/
  | vuFcmple (w : VWidth) (t : Tr)
  /-- VU_FCMPUN (R308) -/
  | vuFcmpun (w : VWidth) (t : Tr)
  /-- VU_ICMPEQ (R308) -/
  | vuIcmpeq (w : VWidth) (t : Tr)
  /-- VU_ICMPLT (R308) -/
  | vuIcmplt (w : VWidth) (t : Tr)
  /-- VU_KAND (R309) -/
  | vuKand (w : VWidth) (t : Tr)
  /-- VU_KOR (R309) -/
  | vuKor (w : VWidth) (t : Tr)
  /-- VU_KXOR (R309) -/
  | vuKxor (w : VWidth) (t : Tr)
  /-- VU_KNOT (R309) -/
  | vuKnot (w : VWidth) (t : Tr)
  /-- VU_KPOP (R309) -/
  | vuKpop (w : VWidth) (t : Tr)
  /-- VU_KSEL (R309) -/
  | vuKsel (w : VWidth) (t : Tr)
  /-- VU_PERM (R310) -/
  | vuPerm (w : VWidth) (t : Tr)
  /-- VU_BCAST (R310) -/
  | vuBcast (w : VWidth) (t : Tr)
  /-- VU_SHUF (R310) -/
  | vuShuf (w : VWidth) (t : Tr)
  /-- VU_LROT (R310) -/
  | vuLrot (w : VWidth) (t : Tr)
  /-- VU_RSUM (R311) -/
  | vuRsum (w : VWidth) (t : Tr)
  /-- VU_RMAX (R311) -/
  | vuRmax (w : VWidth) (t : Tr)
  /-- VU_RMIN (R311) -/
  | vuRmin (w : VWidth) (t : Tr)
  /-- VU_IRSUM (R311) -/
  | vuIrsum (w : VWidth) (t : Tr)
  /-- VU_RNORM (R314) -/
  | vuRnorm (w : VWidth) (t : Tr)
  /-- VU_RUNIF (R313) -/
  | vuRunif (w : VWidth) (t : Tr)
  /-- MU_MODE (R317) -/
  | muMode (t : Tr)
  /-- MU_LDP (R322) -/
  | muLdp (t : Tr)
  /-- MU_STP (R322) -/
  | muStp (t : Tr)
  /-- MU_MADD (R323) -/
  | muMadd (t : Tr)
  /-- MU_MSUB (R323) -/
  | muMsub (t : Tr)
  /-- MU_MMUL (R324) -/
  | muMmul (t : Tr)
  /-- MU_MSCALE (R325) -/
  | muMscale (t : Tr)
  /-- MU_MEXP (R326) -/
  | muMexp (t : Tr)
  /-- MU_MRELU (R327) -/
  | muMrelu (t : Tr)
  /-- MU_MGELU (R327) -/
  | muMgelu (t : Tr)
  /-- MU_MMEAN (R322) -/
  | muMmean (t : Tr)
  /-- MU_MSAMP (R328) -/
  | muMsamp (t : Tr)
  /-- MU_MPACK (R322) -/
  | muMpack (t : Tr)
  /-- MU_MUNPK (R322) -/
  | muMunpk (t : Tr)
  /-- MX_MMA (R336) -/
  | mxMma (t : Tr)
  /-- MX_MMAG (R336) -/
  | mxMmag (t : Tr)
  /-- MX_MMAR (R336) -/
  | mxMmar (t : Tr)
  /-- MX_MMAIC (R336) -/
  | mxMmaic (t : Tr)
  /-- MX_MMAM (R338) -/
  | mxMmam (t : Tr)
  /-- MX_MMAFT (R336) -/
  | mxMmaft (t : Tr)
  /-- MX_TRANS (R342) -/
  | mxTrans (t : Tr)
  /-- MX_PERM (R342) -/
  | mxPerm (t : Tr)
  /-- MX_ROWSUM (R342) -/
  | mxRowsum (t : Tr)
  /-- MX_ZERO (R341) -/
  | mxZero (t : Tr)
  /-- MX_AM2V (R341) -/
  | mxAm2v (t : Tr)
  /-- MX_V2AM (R341) -/
  | mxV2am (t : Tr)
  /-- MX_EADD (R341) -/
  | mxEadd (t : Tr)
  /-- MX_MSKLD (R339) -/
  | mxMskld (t : Tr)
  /-- MX_DESC (R341) -/
  | mxDesc (t : Tr)
  /-- MX_JOIN (R341) -/
  | mxJoin (t : Tr)
  /-- MX_RESUME (R340) -/
  | mxResume (t : Tr)
  /-- MX_SCL (R337) -/
  | mxScl (t : Tr)
  /-- MX_GIDX (R341) -/
  | mxGidx (t : Tr)
  /-- ATT_QMC (R347) -/
  | attQmc (t : Tr)
  /-- ATT_PART (R346) -/
  | attPart (t : Tr)
  /-- ATT_MERGE (R346) -/
  | attMerge (t : Tr)
  /-- ATT_FINAL (R346) -/
  | attFinal (t : Tr)
  /-- ATT_APP (R348) -/
  | attApp (t : Tr)
  /-- ATT_PMTRD (R349) -/
  | attPmtrd (t : Tr)
  /-- ATT_PMTSET (R349) -/
  | attPmtset (t : Tr)
  /-- ATT_RING (R350) -/
  | attRing (t : Tr)
  /-- ATT_STAT (R346) -/
  | attStat (t : Tr)
  /-- CE_CPY (R361) -/
  | ceCpy (t : Tr)
  /-- CE_CPYW (R362) -/
  | ceCpyw (t : Tr)
  /-- CE_BIND (R378) -/
  | ceBind (t : Tr)
  /-- CE_QFENCE (R172) -/
  | ceQfence (t : Tr)
  /-- CE_CKST (R363) -/
  | ceCkst (t : Tr)
  /-- CE_CKWAIT (R363) -/
  | ceCkwait (t : Tr)
  /-- CE_CKRST (R218) -/
  | ceCkrst (t : Tr)
  /-- CE_CPY2D (R361) -/
  | ceCpy2d (t : Tr)
  /-- CB_WAITF (R365) -/
  | cbWaitf (t : Tr)
  /-- CB_WAITE (R365) -/
  | cbWaite (t : Tr)
  /-- CB_PADV (R365) -/
  | cbPadv (t : Tr)
  /-- CB_CADV (R365) -/
  | cbCadv (t : Tr)
  /-- CB_CSTAT (R365) -/
  | cbCstat (t : Tr)
  /-- QU_PUSH (R370) -/
  | quPush (t : Tr)
  /-- QU_POP (R370) -/
  | quPop (t : Tr)
  /-- QU_QWAIT (R371) -/
  | quQwait (t : Tr)
  /-- QU_AMO (R372) -/
  | quAmo (t : Tr)
  /-- QU_RED (R372) -/
  | quRed (t : Tr)
  /-- QU_AMOACQ (R372) -/
  | quAmoacq (t : Tr)
  /-- QU_AMOREL (R372) -/
  | quAmorel (t : Tr)
  /-- QU_TALLOC (R373) -/
  | quTalloc (t : Tr)
  /-- QU_TDEC (R374) -/
  | quTdec (t : Tr)
  /-- QU_PUTH (R375) -/
  | quPuth (t : Tr)
  /-- QU_MWAIT (R376) -/
  | quMwait (t : Tr)
  /-- QU_BARA (R378) -/
  | quBara (t : Tr)
  /-- QU_BARW (R378) -/
  | quBarw (t : Tr)
  /-- QU_BARX (R378) -/
  | quBarx (t : Tr)
  /-- QU_BARI (R378) -/
  | quBari (t : Tr)
  /-- SYS_CSRR (R383) -/
  | sysCsrr (t : Tr)
  /-- SYS_CSRW (R383) -/
  | sysCsrw (t : Tr)
  /-- SYS_CSRS (R383) -/
  | sysCsrs (t : Tr)
  /-- SYS_CSRC (R383) -/
  | sysCsrc (t : Tr)
  /-- SYS_TRAP (R386) -/
  | sysTrap (t : Tr)
  /-- SYS_TRET (R387) -/
  | sysTret (t : Tr)
  /-- SYS_HRET (R387) -/
  | sysHret (t : Tr)
  /-- SYS_LAUNCH (R388) -/
  | sysLaunch (t : Tr)
  /-- SYS_LAUNCHI (R388) -/
  | sysLaunchi (t : Tr)
  /-- SYS_RETIRE (R389) -/
  | sysRetire (t : Tr)
  /-- SYS_FRD (R390) -/
  | sysFrd (t : Tr)
  /-- SYS_HINST (R391) -/
  | sysHinst (t : Tr)
  /-- SYS_TLBI (R392) -/
  | sysTlbi (t : Tr)
  /-- SYS_TLBUN (R392) -/
  | sysTlbun (t : Tr)
  /-- SYS_CINV (R393) -/
  | sysCinv (t : Tr)
  /-- SYS_CWB (R393) -/
  | sysCwb (t : Tr)
  /-- SYS_SLOTLD (R394) -/
  | sysSlotld (t : Tr)
  /-- SYS_CSW (R395) -/
  | sysCsw (t : Tr)
  /-- SYS_IRQ (R396) -/
  | sysIrq (t : Tr)
  /-- SYS_DBG (R397) -/
  | sysDbg (t : Tr)
  /-- LATE_RESULT_ARRIVAL (R133) -/
  | lateResultArrival (core ctx : Nat)
  /-- JOIN_RESULT_READY (R125) -/
  | joinResultReady (core ctx : Nat)
  /-- TRANSLATION_COMPLETE (R148) -/
  | translationComplete (core ctx : Nat)
  /-- MX_ENTRY_PERFORM (R335) -/
  | mxEntryPerform (core : Nat)
  /-- COPY_ENTRY_DONE (R361) -/
  | copyEntryDone (core : Nat)
  /-- SYS_ENTRY_COMPLETE (R382) -/
  | sysEntryComplete (core ctx : Nat)
  /-- DRAIN_COMPLETE (R167) -/
  | drainComplete (core ctx : Nat)
  /-- HOLDING_WAIT_TIMEOUT (R353) -/
  | holdingWaitTimeout (core ctx : Nat)
  /-- RENDEZVOUS_COMPLETE (R135) -/
  | rendezvousComplete (core : Nat)
  /-- WATCHDOG_EXPIRE (R192) -/
  | watchdogExpire (core ctx : Nat)
  /-- SEGMENT_BUNDLE_LIMIT (R201) -/
  | segmentBundleLimit (core : Nat)
  /-- PAIR_SIGNATURE_MISMATCH (R208) -/
  | pairSignatureMismatch (core : Nat)
  /-- SOFT_ERROR (R210) -/
  | softError (e : SoftErr)
  /-- SUSPEND_AT_SUSPENSION_POINT (R196) -/
  | suspendAtSuspensionPoint (core : Nat)
  /-- FREEZE_SAVE (R197) -/
  | freezeSave (core : Nat)
  /-- FROZEN_RESTORE (R198) -/
  | frozenRestore (core : Nat)
  /-- PUTH (R130) -/
  | puthArrive (t : Txn)
  /-- HANDLER_ACTIVATION_START (R130) -/
  | handlerActivationStart (core : Nat)
  /-- LIVE_CORE_SWAP (R13) -/
  | liveCoreSwap (core : Nat)
  /-- CORE_SWAP_ABANDON (R13) -/
  | coreSwapAbandon (core : Nat)
  /-- FRAME_TICK (R109) -/
  | frameTick
  /-- LAUNCH_RELEASE (R109) -/
  | launchRelease (l : LKey)
  /-- POINT_FIRE (R100) -/
  | pointFire (l : LKey)
  /-- READY_QUEUE_DISPATCH (R104) -/
  | readyQueueDispatch (core : Nat)
  /-- READY_QUEUE_AGING (R104) -/
  | readyQueueAging (cluster : Nat)
  /-- GANG_HOLD_EXPIRE (R111) -/
  | gangHoldExpire (cluster : Nat)
  /-- PREEMPTION (R114) -/
  | preemption (l : LKey)
  /-- SUSPEND_TIMEOUT (R114) -/
  | suspendTimeout (core : Nat)
  /-- LAUNCH_TAKE_BACK (R116) -/
  | launchTakeBack (l : LKey)
  /-- LAUNCH_RETIRE (R117) -/
  | launchRetire (l : LKey)
  /-- DEADLINE_ARRIVAL (R112) -/
  | deadlineArrival (l : LKey)
  /-- FRAME_COUNTER_RESUME (R112) -/
  | frameCounterResume
  /-- STREAM_TABLE_WRITE (R83) -/
  | streamTableWrite (part j : Nat) (v : Word)
  /-- STREAM_TAIL_WAKE (R84) -/
  | streamTailWake (part j : Nat)
  /-- STREAM_MAP (R113) -/
  | streamMap (part j : Nat)
  /-- STREAM_QUANTUM_UNMAP (R113) -/
  | streamQuantumUnmap (part j : Nat)
  /-- LOAD (R36) -/
  | loadArrive (t : Txn)
  /-- STORE (R36) -/
  | storeArrive (t : Txn)
  /-- ATOMIC (R41) -/
  | atomicArrive (at_ : Option Nat) (t : Txn)
  /-- PUSH (R370) -/
  | pushArrive (at_ : Option Nat) (t : Txn)
  /-- POP (R370) -/
  | popArrive (at_ : Option Nat) (t : Txn)
  /-- PAIRING_WINDOW_EXPIRE (R46) -/
  | pairingWindowExpire (router : Nat)
  /-- RESP (R38) -/
  | respArrive (at_ : Option Nat) (t : Txn)
  /-- RESPONSE_TIMEOUT (R38) -/
  | responseTimeout (k : Nat)
  /-- SLOTCTL (R31) -/
  | slotctl (t : Txn)
  /-- SLOT_BANK_SWAP (R31) -/
  | slotBankSwap (router : Nat)
  /-- LINK_REPLAY (R24) -/
  | linkReplay (port : Nat)
  /-- LIVE_LANE_SWAP (R14) -/
  | liveLaneSwap (port : Nat)
  /-- PORT_HALF_RATE (R24) -/
  | portHalfRate (port : Nat)
  /-- FSC_DROPS_READ (R32) -/
  | fscDropsRead (router : Nat)
  /-- QUERY (R64) -/
  | query (t : Txn)
  /-- APPEND (R72) -/
  | append (t : Txn)
  /-- MIRROR (R72) -/
  | mirror (t : Txn)
  /-- PMTREAD (R422) -/
  | pmtread (t : Txn)
  /-- PMTSET (R54) -/
  | pmtset (t : Txn)
  /-- PMT_COMMIT_NOTICE (R422) -/
  | pmtCommitNotice (t : Txn)
  /-- RINGBLK (R350) -/
  | ringblk (t : Txn)
  /-- PARTIAL (R49) -/
  | partialArrive (t : Txn)
  /-- PARTIAL_TO_REPLY (R70) -/
  | partialToReply (t : Txn)
  /-- ATTENTION_QUERY_TIMEOUT (R71) -/
  | attentionQueryTimeout (core : Nat)
  /-- PAGE_OWNER_WRITE (R147) -/
  | pageOwnerWrite (page : Nat) (v : Byte)
  /-- CHECKPOINT_ENGINE_COPY (R215) -/
  | checkpointEngineCopy (k : Nat)
  /-- BOUND_COPY_DONE (R378) -/
  | boundCopyDone (core : Nat)
  /-- BOUND_COPY_FAULT (R379) -/
  | boundCopyFault (core : Nat)
  /-- MWAIT_WAKE (R376) -/
  | mwaitWake (core ctx : Nat)
  /-- MWAIT_TIMEOUT (R376) -/
  | mwaitTimeout (core ctx : Nat)
  /-- MWAIT_POLL (R376) -/
  | mwaitPoll (core ctx : Nat)
  /-- THERMAL_THROTTLE (R17) -/
  | thermalThrottle (die : Nat)
  /-- THERMAL_CLOCK_RAISE (R17) -/
  | thermalClockRaise (die : Nat)
  /-- THERMAL_TRIP (R17) -/
  | thermalTrip
  /-- RAIL_CURRENT_LIMIT (R18) -/
  | railCurrentLimit (rail : Nat)
  /-- RAIL_VOLTAGE_SHUTDOWN (R18) -/
  | railVoltageShutdown (rail : Nat)
  /-- CONVENTIONAL_RESET (R91) -/
  | conventionalReset
  /-- HOT_RESET (R79) -/
  | hotReset
  /-- REDUCED_SERVICE_REACHED (R93) -/
  | reducedServiceReached
  /-- FULL_SERVICE_REACHED (R93) -/
  | fullServiceReached
  /-- FUNCTION_LEVEL_RESET (R87) -/
  | functionLevelReset (part : Nat)
  /-- PF_FLR (R87) -/
  | pfFlr
  /-- FLR_DRAIN_ABANDON (R87) -/
  | flrDrainAbandon (part : Nat)
  /-- FLR_COMPLETE (R88) -/
  | flrComplete (part : Nat)
  /-- QUARANTINE_END (R88) -/
  | quarantineEnd (part : Nat)
  /-- PARTITION_ENABLE (R82) -/
  | partitionEnable (part : Nat) (w0 w1 : Word)
  /-- PARTITION_DISABLE (R82) -/
  | partitionDisable (part : Nat)
  /-- PARTITION_DROP_COUNT_READ (R82) -/
  | partitionDropCountRead (part : Nat) (filt : Bool)
  /-- DEVSTATE_RESUME (R91) -/
  | devstateResume
  /-- DEVSTATE_GOFULL (R93) -/
  | devstateGofull
  /-- LINKLOSS_CLEAR (R92) -/
  | linklossClear
  /-- LINK_LOSS (R90) -/
  | linkLoss
  /-- LINK_RETRAIN (R91) -/
  | linkRetrain
  /-- BAR2_ACCESS (R80) -/
  | bar2Access (a : Bar2Acc)
  /-- SMC_READ_SENSORS (R94) -/
  | smcReadSensors
  /-- SMC_READ_LOGS (R94) -/
  | smcReadLogs
  /-- SMC_DUMP_STATE (R94) -/
  | smcDumpState (core : Nat)
  /-- SMC_PARTITION_RESET (R94) -/
  | smcPartitionReset (part : Nat)
  /-- SMC_PACKAGE_RESET (R94) -/
  | smcPackageReset
  /-- SMC_POWER_CAP (R19) -/
  | smcPowerCap (watts : Nat)
  /-- SMC_SPARE_CONTROL (R12) -/
  | smcSpareControl (k : SpareCmd)
  /-- SMC_FIRMWARE_UPDATE (R94) -/
  | smcFirmwareUpdate (image : Nat) (sigOk : Bool)
  /-- SMC_DEBUG_RESUME (R189) -/
  | smcDebugResume (core ctx : Nat) (rmode : BitVec 2)
  /-- REGISTER_WRITE (R5) -/
  | registerWrite (r : DevReg) (v : Word)
  /-- EMPTY_BUNDLE (R258) -/
  | emptyBundle
  /-- SHEVIS_LINK_LOSS (R76) -/
  | shevisLinkLoss (port : Nat)
  /-- RANDOM_VECTOR_AVAILABLE (R139) -/
  | randomVectorAvailable (core ctx : Nat)
  /-- ATTENTION_ENTRY_COMPLETE (R346) -/
  | attentionEntryComplete (core : Nat)
  /-- CONFIGURATION_REQUEST (R93) -/
  | configurationRequest (c : CfgReq)
  deriving DecidableEq, Repr

end Sys2Proof
end

