-- ==== Sys2Proof/WellFormed.lean ====
section
/-! DEFINITION. When a term of `Instr` stands for an encoding or an event that can occur: bypass and port numbers
within their unit (R270 Table 9), no guard (!g0) (R258), and the package's counts of dies, cores and so on. -/

namespace Sys2Proof

/-- The number of operand ports of a unit (R122, R270). -/
def FUnit.nPorts : FUnit → Nat
  | .seq | .alu0 | .alu1 | .cb => 2
  | .agu | .lsu | .vu | .mu | .mx | .att | .ce | .qu | .sys => 4

/-- The number of bypass registers of a unit (R122, R270). -/
def FUnit.nByp : FUnit → Nat
  | .lsu | .vu => 4
  | .alu0 | .alu1 | .agu | .mu | .qu => 2
  | .seq | .mx | .att | .ce | .cb | .sys => 1

/-- A guard other than 0b1000, which marks the empty slot (R258, R265). -/
def Guard.ok (g : Guard) : Bool := !(g.gn && g.gr == 0)

/-- A source whose bypass register exists (R267). -/
def Src.ok : Src → Bool
  | .byp u _ i => decide (i.val < u.nByp)
  | .s _ | .v _ | .m _ | .small _ | .imm _ | .special _ => true

/-- A transport with a legal guard and source. -/
def Tr.ok (t : Tr) : Bool := t.g.ok && t.src.ok

/-- A core key: the 160 cores, then the 64 stream slots of the four stream cores (R9, R113). -/
def coreOk (c : Nat) : Bool := decide (c < 416)

/-- A compute core's key. -/
def ccoreOk (c : Nat) : Bool := decide (c < 160)

/-- Well-formed instructions and events. -/
def Instr.wf : Instr → Bool
  | .registerFileWrite _ t => t.ok
  | .operandPortWrite u p t => t.ok && decide (p.val < u.nPorts)
  | .seqJmp t => t.ok
  | .seqJmpr t => t.ok
  | .seqCall t => t.ok
  | .seqCallr t => t.ok
  | .seqRet t => t.ok
  | .seqLoop t => t.ok
  | .seqLoopx t => t.ok
  | .seqRep t => t.ok
  | .seqMcall t => t.ok
  | .seqMret t => t.ok
  | .seqSusp t => t.ok
  | .seqRdv t => t.ok
  | .seqBrk t => t.ok
  | .seqWaitg t => t.ok
  | .seqWaitng t => t.ok
  | .aluAdd _ t => t.ok
  | .aluSub _ t => t.ok
  | .aluMul _ t => t.ok
  | .aluMulh _ t => t.ok
  | .aluMulhu _ t => t.ok
  | .aluAnd _ t => t.ok
  | .aluOr _ t => t.ok
  | .aluXor _ t => t.ok
  | .aluAndn _ t => t.ok
  | .aluShl _ t => t.ok
  | .aluShr _ t => t.ok
  | .aluSar _ t => t.ok
  | .aluRol _ t => t.ok
  | .aluMin _ t => t.ok
  | .aluMax _ t => t.ok
  | .aluMinu _ t => t.ok
  | .aluMaxu _ t => t.ok
  | .aluSel _ t => t.ok
  | .aluBfx _ t => t.ok
  | .aluBfxs _ t => t.ok
  | .aluBfi _ t => t.ok
  | .aluClz _ t => t.ok
  | .aluCtz _ t => t.ok
  | .aluPopc _ t => t.ok
  | .aluLimm _ t => t.ok
  | .aluAddsat _ t => t.ok
  | .aluSubsat _ t => t.ok
  | .aluCeq _ t => t.ok
  | .aluCne _ t => t.ok
  | .aluClt _ t => t.ok
  | .aluCle _ t => t.ok
  | .aluCltu _ t => t.ok
  | .aluCleu _ t => t.ok
  | .aluCbit _ t => t.ok
  | .aguSet t => t.ok
  | .aguLin t => t.ok
  | .aguTile t => t.ok
  | .aguArena t => t.ok
  | .aguChk t => t.ok
  | .aguStep t => t.ok
  | .lsuLdb _ t => t.ok
  | .lsuLdh _ t => t.ok
  | .lsuLdw _ t => t.ok
  | .lsuLdd _ t => t.ok
  | .lsuLdbs _ t => t.ok
  | .lsuLdhs _ t => t.ok
  | .lsuLdws _ t => t.ok
  | .lsuLdv _ t => t.ok
  | .lsuStb t => t.ok
  | .lsuSth t => t.ok
  | .lsuStw t => t.ok
  | .lsuStd t => t.ok
  | .lsuStv t => t.ok
  | .lsuStvn t => t.ok
  | .lsuGath _ t => t.ok
  | .lsuScat t => t.ok
  | .lsuPref t => t.ok
  | .lsuLdacq _ t => t.ok
  | .lsuStrel _ t => t.ok
  | .lsuDrain _ t => t.ok
  | .vuAdd _ t => t.ok
  | .vuSub _ t => t.ok
  | .vuMul _ t => t.ok
  | .vuFma _ t => t.ok
  | .vuMin _ t => t.ok
  | .vuMax _ t => t.ok
  | .vuDiv _ t => t.ok
  | .vuSqrt _ t => t.ok
  | .vuAddb _ t => t.ok
  | .vuSubb _ t => t.ok
  | .vuMulb _ t => t.ok
  | .vuFmab _ t => t.ok
  | .vuMinb _ t => t.ok
  | .vuMaxb _ t => t.ok
  | .vuAddh _ t => t.ok
  | .vuSubh _ t => t.ok
  | .vuMulh _ t => t.ok
  | .vuFmah _ t => t.ok
  | .vuMinh _ t => t.ok
  | .vuMaxh _ t => t.ok
  | .vuExp2 _ t => t.ok
  | .vuLog2 _ t => t.ok
  | .vuRcp _ t => t.ok
  | .vuRsqrt _ t => t.ok
  | .vuTanh _ t => t.ok
  | .vuErf _ t => t.ok
  | .vuSigm _ t => t.ok
  | .vuCvt _ t => t.ok
  | .vuBq t => t.ok
  | .vuIc8d _ t => t.ok
  | .vuBscl _ t => t.ok
  | .vuIadd _ t => t.ok
  | .vuIsub _ t => t.ok
  | .vuImul _ t => t.ok
  | .vuIand _ t => t.ok
  | .vuIor _ t => t.ok
  | .vuIxor _ t => t.ok
  | .vuIshl _ t => t.ok
  | .vuIshr _ t => t.ok
  | .vuIsar _ t => t.ok
  | .vuImin _ t => t.ok
  | .vuImax _ t => t.ok
  | .vuIaddsat _ t => t.ok
  | .vuFcmpeq _ t => t.ok
  | .vuFcmplt _ t => t.ok
  | .vuFcmple _ t => t.ok
  | .vuFcmpun _ t => t.ok
  | .vuIcmpeq _ t => t.ok
  | .vuIcmplt _ t => t.ok
  | .vuKand _ t => t.ok
  | .vuKor _ t => t.ok
  | .vuKxor _ t => t.ok
  | .vuKnot _ t => t.ok
  | .vuKpop _ t => t.ok
  | .vuKsel _ t => t.ok
  | .vuPerm _ t => t.ok
  | .vuBcast _ t => t.ok
  | .vuShuf _ t => t.ok
  | .vuLrot _ t => t.ok
  | .vuRsum _ t => t.ok
  | .vuRmax _ t => t.ok
  | .vuRmin _ t => t.ok
  | .vuIrsum _ t => t.ok
  | .vuRnorm _ t => t.ok
  | .vuRunif _ t => t.ok
  | .muMode t => t.ok
  | .muLdp t => t.ok
  | .muStp t => t.ok
  | .muMadd t => t.ok
  | .muMsub t => t.ok
  | .muMmul t => t.ok
  | .muMscale t => t.ok
  | .muMexp t => t.ok
  | .muMrelu t => t.ok
  | .muMgelu t => t.ok
  | .muMmean t => t.ok
  | .muMsamp t => t.ok
  | .muMpack t => t.ok
  | .muMunpk t => t.ok
  | .mxMma t => t.ok
  | .mxMmag t => t.ok
  | .mxMmar t => t.ok
  | .mxMmaic t => t.ok
  | .mxMmam t => t.ok
  | .mxMmaft t => t.ok
  | .mxTrans t => t.ok
  | .mxPerm t => t.ok
  | .mxRowsum t => t.ok
  | .mxZero t => t.ok
  | .mxAm2v t => t.ok
  | .mxV2am t => t.ok
  | .mxEadd t => t.ok
  | .mxMskld t => t.ok
  | .mxDesc t => t.ok
  | .mxJoin t => t.ok
  | .mxResume t => t.ok
  | .mxScl t => t.ok
  | .mxGidx t => t.ok
  | .attQmc t => t.ok
  | .attPart t => t.ok
  | .attMerge t => t.ok
  | .attFinal t => t.ok
  | .attApp t => t.ok
  | .attPmtrd t => t.ok
  | .attPmtset t => t.ok
  | .attRing t => t.ok
  | .attStat t => t.ok
  | .ceCpy t => t.ok
  | .ceCpyw t => t.ok
  | .ceBind t => t.ok
  | .ceQfence t => t.ok
  | .ceCkst t => t.ok
  | .ceCkwait t => t.ok
  | .ceCkrst t => t.ok
  | .ceCpy2d t => t.ok
  | .cbWaitf t => t.ok
  | .cbWaite t => t.ok
  | .cbPadv t => t.ok
  | .cbCadv t => t.ok
  | .cbCstat t => t.ok
  | .quPush t => t.ok
  | .quPop t => t.ok
  | .quQwait t => t.ok
  | .quAmo t => t.ok
  | .quRed t => t.ok
  | .quAmoacq t => t.ok
  | .quAmorel t => t.ok
  | .quTalloc t => t.ok
  | .quTdec t => t.ok
  | .quPuth t => t.ok
  | .quMwait t => t.ok
  | .quBara t => t.ok
  | .quBarw t => t.ok
  | .quBarx t => t.ok
  | .quBari t => t.ok
  | .sysCsrr t => t.ok
  | .sysCsrw t => t.ok
  | .sysCsrs t => t.ok
  | .sysCsrc t => t.ok
  | .sysTrap t => t.ok
  | .sysTret t => t.ok
  | .sysHret t => t.ok
  | .sysLaunch t => t.ok
  | .sysLaunchi t => t.ok
  | .sysRetire t => t.ok
  | .sysFrd t => t.ok
  | .sysHinst t => t.ok
  | .sysTlbi t => t.ok
  | .sysTlbun t => t.ok
  | .sysCinv t => t.ok
  | .sysCwb t => t.ok
  | .sysSlotld t => t.ok
  | .sysCsw t => t.ok
  | .sysIrq t => t.ok
  | .sysDbg t => t.ok
  | .lateResultArrival core ctx => coreOk core && decide (ctx < 4)
  | .joinResultReady core ctx => coreOk core && decide (ctx < 4)
  | .translationComplete core ctx => coreOk core && decide (ctx < 4)
  | .mxEntryPerform core => ccoreOk core
  | .copyEntryDone core => ccoreOk core
  | .sysEntryComplete core ctx => coreOk core && decide (ctx < 4)
  | .drainComplete core ctx => coreOk core && decide (ctx < 4)
  | .holdingWaitTimeout core ctx => coreOk core && decide (ctx < 4)
  | .rendezvousComplete core => ccoreOk core
  | .watchdogExpire core ctx => coreOk core && decide (ctx < 4)
  | .segmentBundleLimit core => ccoreOk core
  | .pairSignatureMismatch core => ccoreOk core
  | .softError _ => true
  | .suspendAtSuspensionPoint core => ccoreOk core
  | .freezeSave core => ccoreOk core
  | .frozenRestore core => ccoreOk core
  | .puthArrive t => decide (t.payload.length ≤ 2048)
  | .handlerActivationStart core => ccoreOk core
  | .liveCoreSwap core => ccoreOk core
  | .coreSwapAbandon core => ccoreOk core
  | .frameTick => true
  | .launchRelease l => decide (l.die < 4) && decide (l.ptag < 16)
  | .pointFire l => decide (l.die < 4) && decide (l.ptag < 16)
  | .readyQueueDispatch core => ccoreOk core
  | .readyQueueAging cluster => decide (cluster < 20)
  | .gangHoldExpire cluster => decide (cluster < 20)
  | .preemption l => decide (l.die < 4) && decide (l.ptag < 16)
  | .suspendTimeout core => ccoreOk core
  | .launchTakeBack l => decide (l.die < 4) && decide (l.ptag < 16)
  | .launchRetire l => decide (l.die < 4) && decide (l.ptag < 16)
  | .deadlineArrival l => decide (l.die < 4) && decide (l.ptag < 16)
  | .frameCounterResume => true
  | .streamTableWrite part j _ => decide (part < 17) && decide (j < 64)
  | .streamTailWake part j => decide (part < 17) && decide (j < 64)
  | .streamMap part j => decide (part < 17) && decide (j < 64)
  | .streamQuantumUnmap part j => decide (part < 17) && decide (j < 64)
  | .loadArrive t => decide (t.payload.length ≤ 2048)
  | .storeArrive t => decide (t.payload.length ≤ 2048)
  | .atomicArrive _ t => decide (t.payload.length ≤ 2048)
  | .pushArrive _ t => decide (t.payload.length ≤ 2048)
  | .popArrive _ t => decide (t.payload.length ≤ 2048)
  | .pairingWindowExpire router => decide (router < 14)
  | .respArrive _ t => decide (t.payload.length ≤ 2048)
  | .responseTimeout _ => true
  | .slotctl t => decide (t.payload.length ≤ 2048)
  | .slotBankSwap router => decide (router < 14)
  | .linkReplay port => decide (port < 18)
  | .liveLaneSwap port => decide (port < 18)
  | .portHalfRate port => decide (port < 18)
  | .fscDropsRead router => decide (router < 14)
  | .query t => decide (t.payload.length ≤ 2048)
  | .append t => decide (t.payload.length ≤ 2048)
  | .mirror t => decide (t.payload.length ≤ 2048)
  | .pmtread t => decide (t.payload.length ≤ 2048)
  | .pmtset t => decide (t.payload.length ≤ 2048)
  | .pmtCommitNotice t => decide (t.payload.length ≤ 2048)
  | .ringblk t => decide (t.payload.length ≤ 2048)
  | .partialArrive t => decide (t.payload.length ≤ 2048)
  | .partialToReply t => decide (t.payload.length ≤ 2048)
  | .attentionQueryTimeout core => ccoreOk core
  | .pageOwnerWrite page _ => decide (page < 8388608)
  | .checkpointEngineCopy _ => true
  | .boundCopyDone core => ccoreOk core
  | .boundCopyFault core => ccoreOk core
  | .mwaitWake core ctx => coreOk core && decide (ctx < 4)
  | .mwaitTimeout core ctx => coreOk core && decide (ctx < 4)
  | .mwaitPoll core ctx => coreOk core && decide (ctx < 4)
  | .thermalThrottle die => decide (die < 14)
  | .thermalClockRaise die => decide (die < 14)
  | .thermalTrip => true
  | .railCurrentLimit rail => decide (rail < 14)
  | .railVoltageShutdown rail => decide (rail < 14)
  | .conventionalReset => true
  | .hotReset => true
  | .reducedServiceReached => true
  | .fullServiceReached => true
  | .functionLevelReset part => decide (part < 16)
  | .pfFlr => true
  | .flrDrainAbandon part => decide (part < 16)
  | .flrComplete part => decide (part < 16)
  | .quarantineEnd part => decide (part < 16)
  | .partitionEnable part _ _ => decide (part < 16)
  | .partitionDisable part => decide (part < 16)
  | .partitionDropCountRead part _ => decide (part < 16)
  | .devstateResume => true
  | .devstateGofull => true
  | .linklossClear => true
  | .linkLoss => true
  | .linkRetrain => true
  | .bar2Access _ => true
  | .smcReadSensors => true
  | .smcReadLogs => true
  | .smcDumpState core => ccoreOk core
  | .smcPartitionReset part => decide (part < 16)
  | .smcPackageReset => true
  | .smcPowerCap watts => decide (1400 ≤ watts) && decide (watts ≤ 2800)
  | .smcSpareControl _ => true
  | .smcFirmwareUpdate _ _ => true
  | .smcDebugResume core ctx _ => coreOk core && decide (ctx < 4)
  | .registerWrite _ _ => true
  | .emptyBundle => true
  | .shevisLinkLoss port => decide (port < 18)
  | .randomVectorAvailable core ctx => coreOk core && decide (ctx < 4)
  | .attentionEntryComplete core => ccoreOk core
  | .configurationRequest _ => true

end Sys2Proof
end

