-- ==== Sys2Proof/Decode.lean ====
section
/-! DEFINITION. Decoding a 32-bit transport slot and checking a 128-bit bundle (R257-R275), and the encoder. -/

namespace Sys2Proof

/-- Bits [hi:lo] of a number. -/
def bits (x hi lo : Nat) : Nat := x / 2 ^ lo % 2 ^ (hi + 1 - lo)

/-- Whether bit `i` of a number is set. -/
def bitOf (x i : Nat) : Bool := x / 2 ^ i % 2 == 1

/-- The fields of a slot (R264 Table 5), as numbers. -/
def slotGn (w : Slot32) : Bool := bitOf w.toNat 30
def slotGr (w : Slot32) : Nat := bits w.toNat 29 27
def slotM (w : Slot32) : Nat := bits w.toNat 26 25
def slotUnit (w : Slot32) : Nat := bits w.toNat 24 20
def slotOp (w : Slot32) : Nat := bits w.toNat 19 12
def slotSk (w : Slot32) : Nat := bits w.toNat 11 10
def slotSv (w : Slot32) : Nat := bits w.toNat 9 0

/-- Bit 31 of a slot (R257). -/
def slotTop (w : Slot32) : Bool := bitOf w.toNat 31

/-- The empty slot: G = 0b1000 with bit 31 clear (R258). -/
def slotEmpty (w : Slot32) : Bool := !slotTop w && slotGn w && slotGr w == 0

/-- Unit ids (R270 Table 9). -/
def FUnit.id : FUnit → Nat
  | .seq => 4 | .alu0 => 5 | .alu1 => 6 | .agu => 7 | .lsu => 8 | .vu => 9 | .mu => 10 | .mx => 11 | .att => 12
  | .ce => 13 | .cb => 14 | .qu => 15 | .sys => 16

/-- The function unit of an id. -/
def FUnit.ofId : Nat → Option FUnit
  | 4 => some .seq | 5 => some .alu0 | 6 => some .alu1 | 7 => some .agu | 8 => some .lsu | 9 => some .vu | 10 => some .mu
  | 11 => some .mx | 12 => some .att | 13 => some .ce | 14 => some .cb | 15 => some .qu | 16 => some .sys
  | _ => none

def AluSel.id : AluSel → Nat
  | .alu0 => 5 | .alu1 => 6

def AluSel.unit : AluSel → FUnit
  | .alu0 => .alu0 | .alu1 => .alu1

/-- The M field of a VU width (R126, R266). -/
def VWidth.code : VWidth → Nat
  | .w1024 => 0 | .w512 => 1 | .w256 => 2

/-- The width in bits (R126). -/
def VWidth.bits : VWidth → Nat
  | .w1024 => 1024 | .w512 => 512 | .w256 => 256

def VWidth.ofCode : Nat → Option VWidth
  | 0 => some .w1024 | 1 => some .w512 | 2 => some .w256 | _ => none

/-- Scope codes (R163 Table 1). -/
def Scope.code : Scope → Nat
  | .core => 0 | .clus => 1 | .die => 2 | .pkg => 3 | .dom => 4 | .sys => 5

def Scope.ofCode : Nat → Option Scope
  | 0 => some .core | 1 => some .clus | 2 => some .die | 3 => some .pkg | 4 => some .dom | 5 => some .sys | _ => none

/-- `Fin` from a number known to be small, by remainder. -/
def finOf (n : Nat) [NeZero n] (x : Nat) : Fin n := Fin.ofNat n x

/-- Small-register codes (R269 Table 8). -/
def SReg.ofCode (c : Nat) : Option SReg :=
  if c < 0x10 then some (.k (finOf 16 c))
  else if c < 0x18 then some (.g (finOf 8 (c - 0x10)))
  else if c < 0x20 then none
  else if c < 0x30 then some (.a (finOf 16 (c - 0x20)))
  else if c < 0x34 then some (.lc (finOf 4 (c - 0x30)))
  else if c < 0x40 then none
  else if c < 0x50 then some (.cb (finOf 16 (c - 0x40)))
  else if c < 0x60 then some (.ft (finOf 16 (c - 0x50)))
  else if c < 0x64 then some (.ct (finOf 4 (c - 0x60)))
  else none

def SReg.code : SReg → Nat
  | .k i => i.val | .g i => 0x10 + i.val | .a i => 0x20 + i.val | .lc i => 0x30 + i.val | .cb i => 0x40 + i.val
  | .ft i => 0x50 + i.val | .ct i => 0x60 + i.val

/-- Special-source codes (R268 Table 7). -/
def Special.ofCode (c : Nat) : Option Special :=
  if c = 0 then some .rnd
  else if c < 5 then some (.lc (finOf 4 (c - 1)))
  else if c = 5 then some .fc
  else if c = 6 then some .vcc
  else if c = 7 then some .ptx
  else if c = 8 then some .pty
  else if c = 9 then some .ptz
  else if c = 0xA then some .core
  else if c = 0xB then some .clus
  else if c = 0xC then some .ctx
  else if c < 0x11 then some (.arg (finOf 4 (c - 0xD)))
  else none

def Special.code : Special → Nat
  | .rnd => 0 | .lc i => 1 + i.val | .fc => 5 | .vcc => 6 | .ptx => 7 | .pty => 8 | .ptz => 9 | .core => 0xA | .clus => 0xB
  | .ctx => 0xC | .arg i => 0xD + i.val

/-- The register a source of kind 00 names (R267 Table 6). -/
def decodeRegSrc (file idx : Nat) : Except DecErr Src :=
  if file = 0 then (if idx < 64 then .ok (.s (finOf 64 idx)) else .error (.illreg idx 0))
  else if file = 1 then (if idx < 64 then .ok (.v (finOf 64 idx)) else .error (.illreg idx 1))
  else if file = 2 then (if idx < 16 then .ok (.m (finOf 16 idx)) else .error (.illreg idx 2))
  else match SReg.ofCode idx with
    | some r => .ok (.small r)
    | none => .error (.illreg idx 3)

/-- A bypass source (R267): unit id [9:5], J [4], [3:2] zero, index [1:0]. -/
def decodeByp (sv : Nat) : Except DecErr Src :=
  match FUnit.ofId (bits sv 9 5) with
  | none => if bits sv 9 5 < 4 then .error (.illreg (sv % 256) 4) else .error (.illt (bits sv 9 5))
  | some u =>
    if bits sv 3 2 = 0 ∧ bits sv 1 0 < u.nByp then .ok (.byp u (bitOf sv 4) (finOf 4 (bits sv 1 0)))
    else .error (.illreg (sv % 256) 4)

/-- A slot's source (R267). -/
def decodeSrc (sk sv : Nat) : Except DecErr Src :=
  if sk = 0 then decodeRegSrc (bits sv 9 8) (bits sv 7 0)
  else if sk = 1 then decodeByp sv
  else if sk = 2 then .ok (.imm (BitVec.ofNat 10 sv))
  else match Special.ofCode sv with
    | some c => .ok (.special c)
    | none => .error (.illreg (sv % 256) 5)

/-- The SK and SV of a source. -/
def encodeSrc : Src → Nat × Nat
  | .s i => (0, i.val)
  | .v i => (0, 0x100 + i.val)
  | .m i => (0, 0x200 + i.val)
  | .small r => (0, 0x300 + r.code)
  | .byp u j i => (1, u.id * 32 + (if j then 16 else 0) + i.val)
  | .imm n => (2, n.toNat)
  | .special c => (3, c.code)

/-- A slot's word from its fields (R264). -/
def encodeSlot (t : Tr) (m unit op : Nat) : Slot32 :=
  BitVec.ofNat 32 ((if t.g.gn then 2 ^ 30 else 0) + t.g.gr.val * 2 ^ 27 + m * 2 ^ 25 + unit * 2 ^ 20 + op * 2 ^ 12
    + (encodeSrc t.src).1 * 2 ^ 10 + (encodeSrc t.src).2)

/-- The unit id of a register-file write (R270). -/
def RegDst.unit : RegDst → Nat
  | .s _ => 0 | .v _ => 1 | .m _ => 2 | .small _ => 3

/-- The OP of a register-file write (R271). -/
def RegDst.index : RegDst → Nat
  | .s i => i.val | .v i => i.val | .m i => i.val | .small r => r.code

/-- The register a register-file write names (R271). -/
def decodeDst (unit op : Nat) : Except DecErr RegDst :=
  if unit = 0 then (if op < 64 then .ok (.s (finOf 64 op)) else .error (.illreg op 0))
  else if unit = 1 then (if op < 64 then .ok (.v (finOf 64 op)) else .error (.illreg op 1))
  else if unit = 2 then (if op < 16 then .ok (.m (finOf 16 op)) else .error (.illreg op 2))
  else match SReg.ofCode op with
    | some r => .ok (.small r)
    | none => .error (.illreg op 3)



/-- The seq triggers by OP (R272). -/
def seqTrigger (t : Tr) : Nat → Option Instr
  | 0x4 => some (.seqJmp t)
  | 0x5 => some (.seqJmpr t)
  | 0x6 => some (.seqCall t)
  | 0x7 => some (.seqCallr t)
  | 0x8 => some (.seqRet t)
  | 0x9 => some (.seqLoop t)
  | 0xa => some (.seqLoopx t)
  | 0xb => some (.seqRep t)
  | 0xc => some (.seqMcall t)
  | 0xd => some (.seqMret t)
  | 0xe => some (.seqSusp t)
  | 0xf => some (.seqRdv t)
  | 0x10 => some (.seqBrk t)
  | 0x11 => some (.seqWaitg t)
  | 0x12 => some (.seqWaitng t)
  | _ => none

/-- The alu triggers by OP (R272). -/
def aluTrigger (u : AluSel) (t : Tr) : Nat → Option Instr
  | 0x4 => some (.aluAdd u t)
  | 0x5 => some (.aluSub u t)
  | 0x6 => some (.aluMul u t)
  | 0x7 => some (.aluMulh u t)
  | 0x8 => some (.aluMulhu u t)
  | 0x9 => some (.aluAnd u t)
  | 0xa => some (.aluOr u t)
  | 0xb => some (.aluXor u t)
  | 0xc => some (.aluAndn u t)
  | 0xd => some (.aluShl u t)
  | 0xe => some (.aluShr u t)
  | 0xf => some (.aluSar u t)
  | 0x10 => some (.aluRol u t)
  | 0x11 => some (.aluMin u t)
  | 0x12 => some (.aluMax u t)
  | 0x13 => some (.aluMinu u t)
  | 0x14 => some (.aluMaxu u t)
  | 0x15 => some (.aluSel u t)
  | 0x16 => some (.aluBfx u t)
  | 0x17 => some (.aluBfxs u t)
  | 0x18 => some (.aluBfi u t)
  | 0x19 => some (.aluClz u t)
  | 0x1a => some (.aluCtz u t)
  | 0x1b => some (.aluPopc u t)
  | 0x1c => some (.aluLimm u t)
  | 0x1d => some (.aluAddsat u t)
  | 0x1e => some (.aluSubsat u t)
  | 0x20 => some (.aluCeq u t)
  | 0x21 => some (.aluCne u t)
  | 0x22 => some (.aluClt u t)
  | 0x23 => some (.aluCle u t)
  | 0x24 => some (.aluCltu u t)
  | 0x25 => some (.aluCleu u t)
  | 0x26 => some (.aluCbit u t)
  | _ => none

/-- The agu triggers by OP (R272). -/
def aguTrigger (t : Tr) : Nat → Option Instr
  | 0x4 => some (.aguSet t)
  | 0x5 => some (.aguLin t)
  | 0x6 => some (.aguTile t)
  | 0x7 => some (.aguArena t)
  | 0x8 => some (.aguChk t)
  | 0x9 => some (.aguStep t)
  | _ => none

/-- The lsu triggers by OP (R272). -/
def lsuTrigger (bp : Bool) (t : Tr) : Nat → Option Instr
  | 0x4 => some (.lsuLdb bp t)
  | 0x5 => some (.lsuLdh bp t)
  | 0x6 => some (.lsuLdw bp t)
  | 0x7 => some (.lsuLdd bp t)
  | 0x8 => some (.lsuLdbs bp t)
  | 0x9 => some (.lsuLdhs bp t)
  | 0xa => some (.lsuLdws bp t)
  | 0xb => some (.lsuLdv bp t)
  | 0xc => some (.lsuStb t)
  | 0xd => some (.lsuSth t)
  | 0xe => some (.lsuStw t)
  | 0xf => some (.lsuStd t)
  | 0x10 => some (.lsuStv t)
  | 0x11 => some (.lsuStvn t)
  | 0x12 => some (.lsuGath bp t)
  | 0x13 => some (.lsuScat t)
  | 0x14 => some (.lsuPref t)
  | 0x18 => some (.lsuLdacq .core t)
  | 0x19 => some (.lsuLdacq .clus t)
  | 0x1a => some (.lsuLdacq .die t)
  | 0x1b => some (.lsuLdacq .pkg t)
  | 0x1c => some (.lsuLdacq .dom t)
  | 0x1d => some (.lsuLdacq .sys t)
  | 0x20 => some (.lsuStrel .core t)
  | 0x21 => some (.lsuStrel .clus t)
  | 0x22 => some (.lsuStrel .die t)
  | 0x23 => some (.lsuStrel .pkg t)
  | 0x24 => some (.lsuStrel .dom t)
  | 0x25 => some (.lsuStrel .sys t)
  | 0x28 => some (.lsuDrain .core t)
  | 0x29 => some (.lsuDrain .clus t)
  | 0x2a => some (.lsuDrain .die t)
  | 0x2b => some (.lsuDrain .pkg t)
  | 0x2c => some (.lsuDrain .dom t)
  | 0x2d => some (.lsuDrain .sys t)
  | _ => none

/-- The vu triggers by OP (R272). -/
def vuTrigger (w : VWidth) (t : Tr) : Nat → Option Instr
  | 0x4 => some (.vuAdd w t)
  | 0x5 => some (.vuSub w t)
  | 0x6 => some (.vuMul w t)
  | 0x7 => some (.vuFma w t)
  | 0x8 => some (.vuMin w t)
  | 0x9 => some (.vuMax w t)
  | 0xa => some (.vuDiv w t)
  | 0xb => some (.vuSqrt w t)
  | 0xc => some (.vuAddb w t)
  | 0xd => some (.vuSubb w t)
  | 0xe => some (.vuMulb w t)
  | 0xf => some (.vuFmab w t)
  | 0x10 => some (.vuMinb w t)
  | 0x11 => some (.vuMaxb w t)
  | 0x12 => some (.vuAddh w t)
  | 0x13 => some (.vuSubh w t)
  | 0x14 => some (.vuMulh w t)
  | 0x15 => some (.vuFmah w t)
  | 0x16 => some (.vuMinh w t)
  | 0x17 => some (.vuMaxh w t)
  | 0x18 => some (.vuExp2 w t)
  | 0x19 => some (.vuLog2 w t)
  | 0x1a => some (.vuRcp w t)
  | 0x1b => some (.vuRsqrt w t)
  | 0x1c => some (.vuTanh w t)
  | 0x1d => some (.vuErf w t)
  | 0x1e => some (.vuSigm w t)
  | 0x20 => some (.vuCvt w t)
  | 0x21 => some (.vuBq t)
  | 0x22 => some (.vuIc8d w t)
  | 0x23 => some (.vuBscl w t)
  | 0x28 => some (.vuIadd w t)
  | 0x29 => some (.vuIsub w t)
  | 0x2a => some (.vuImul w t)
  | 0x2b => some (.vuIand w t)
  | 0x2c => some (.vuIor w t)
  | 0x2d => some (.vuIxor w t)
  | 0x2e => some (.vuIshl w t)
  | 0x2f => some (.vuIshr w t)
  | 0x30 => some (.vuIsar w t)
  | 0x31 => some (.vuImin w t)
  | 0x32 => some (.vuImax w t)
  | 0x33 => some (.vuIaddsat w t)
  | 0x38 => some (.vuFcmpeq w t)
  | 0x39 => some (.vuFcmplt w t)
  | 0x3a => some (.vuFcmple w t)
  | 0x3b => some (.vuFcmpun w t)
  | 0x3c => some (.vuIcmpeq w t)
  | 0x3d => some (.vuIcmplt w t)
  | 0x40 => some (.vuKand w t)
  | 0x41 => some (.vuKor w t)
  | 0x42 => some (.vuKxor w t)
  | 0x43 => some (.vuKnot w t)
  | 0x44 => some (.vuKpop w t)
  | 0x45 => some (.vuKsel w t)
  | 0x48 => some (.vuPerm w t)
  | 0x49 => some (.vuBcast w t)
  | 0x4a => some (.vuShuf w t)
  | 0x4b => some (.vuLrot w t)
  | 0x50 => some (.vuRsum w t)
  | 0x51 => some (.vuRmax w t)
  | 0x52 => some (.vuRmin w t)
  | 0x53 => some (.vuIrsum w t)
  | 0x58 => some (.vuRnorm w t)
  | 0x59 => some (.vuRunif w t)
  | _ => none

/-- The mu triggers by OP (R272). -/
def muTrigger (t : Tr) : Nat → Option Instr
  | 0x4 => some (.muMode t)
  | 0x5 => some (.muLdp t)
  | 0x6 => some (.muStp t)
  | 0x7 => some (.muMadd t)
  | 0x8 => some (.muMsub t)
  | 0x9 => some (.muMmul t)
  | 0xa => some (.muMscale t)
  | 0xb => some (.muMexp t)
  | 0xc => some (.muMrelu t)
  | 0xd => some (.muMgelu t)
  | 0xe => some (.muMmean t)
  | 0xf => some (.muMsamp t)
  | 0x10 => some (.muMpack t)
  | 0x11 => some (.muMunpk t)
  | _ => none

/-- The mx triggers by OP (R272). -/
def mxTrigger (t : Tr) : Nat → Option Instr
  | 0x4 => some (.mxMma t)
  | 0x5 => some (.mxMmag t)
  | 0x6 => some (.mxMmar t)
  | 0x7 => some (.mxMmaic t)
  | 0x8 => some (.mxMmam t)
  | 0x9 => some (.mxMmaft t)
  | 0xa => some (.mxTrans t)
  | 0xb => some (.mxPerm t)
  | 0xc => some (.mxRowsum t)
  | 0xd => some (.mxZero t)
  | 0xe => some (.mxAm2v t)
  | 0xf => some (.mxV2am t)
  | 0x10 => some (.mxEadd t)
  | 0x11 => some (.mxMskld t)
  | 0x12 => some (.mxDesc t)
  | 0x13 => some (.mxJoin t)
  | 0x14 => some (.mxResume t)
  | 0x15 => some (.mxScl t)
  | 0x16 => some (.mxGidx t)
  | _ => none

/-- The att triggers by OP (R272). -/
def attTrigger (t : Tr) : Nat → Option Instr
  | 0x4 => some (.attQmc t)
  | 0x5 => some (.attPart t)
  | 0x6 => some (.attMerge t)
  | 0x7 => some (.attFinal t)
  | 0x8 => some (.attApp t)
  | 0x9 => some (.attPmtrd t)
  | 0xa => some (.attPmtset t)
  | 0xb => some (.attRing t)
  | 0xc => some (.attStat t)
  | _ => none

/-- The ce triggers by OP (R272). -/
def ceTrigger (t : Tr) : Nat → Option Instr
  | 0x4 => some (.ceCpy t)
  | 0x5 => some (.ceCpyw t)
  | 0x6 => some (.ceBind t)
  | 0x7 => some (.ceQfence t)
  | 0x8 => some (.ceCkst t)
  | 0x9 => some (.ceCkwait t)
  | 0xa => some (.ceCkrst t)
  | 0xb => some (.ceCpy2d t)
  | _ => none

/-- The cb triggers by OP (R272). -/
def cbTrigger (t : Tr) : Nat → Option Instr
  | 0x4 => some (.cbWaitf t)
  | 0x5 => some (.cbWaite t)
  | 0x6 => some (.cbPadv t)
  | 0x7 => some (.cbCadv t)
  | 0x8 => some (.cbCstat t)
  | _ => none

/-- The qu triggers by OP (R272). -/
def quTrigger (t : Tr) : Nat → Option Instr
  | 0x4 => some (.quPush t)
  | 0x5 => some (.quPop t)
  | 0x6 => some (.quQwait t)
  | 0x7 => some (.quAmo t)
  | 0x8 => some (.quRed t)
  | 0x9 => some (.quAmoacq t)
  | 0xa => some (.quAmorel t)
  | 0xb => some (.quTalloc t)
  | 0xc => some (.quTdec t)
  | 0xd => some (.quPuth t)
  | 0xe => some (.quMwait t)
  | 0xf => some (.quBara t)
  | 0x10 => some (.quBarw t)
  | 0x11 => some (.quBarx t)
  | 0x12 => some (.quBari t)
  | _ => none

/-- The sys triggers by OP (R272). -/
def sysTrigger (t : Tr) : Nat → Option Instr
  | 0x4 => some (.sysCsrr t)
  | 0x5 => some (.sysCsrw t)
  | 0x6 => some (.sysCsrs t)
  | 0x7 => some (.sysCsrc t)
  | 0x8 => some (.sysTrap t)
  | 0x9 => some (.sysTret t)
  | 0xa => some (.sysHret t)
  | 0xb => some (.sysLaunch t)
  | 0xc => some (.sysLaunchi t)
  | 0xd => some (.sysRetire t)
  | 0xe => some (.sysFrd t)
  | 0xf => some (.sysHinst t)
  | 0x10 => some (.sysTlbi t)
  | 0x11 => some (.sysTlbun t)
  | 0x12 => some (.sysCinv t)
  | 0x13 => some (.sysCwb t)
  | 0x14 => some (.sysSlotld t)
  | 0x15 => some (.sysCsw t)
  | 0x16 => some (.sysIrq t)
  | 0x17 => some (.sysDbg t)
  | _ => none

/-- The lsu codes that accept .bp (R355 Table 2). -/
def lsuTakesBp (op : Nat) : Bool := (decide (4 ≤ op) && decide (op ≤ 0xB)) || op == 0x12

/-- Scope codes 6 and 7 of the ldacq, strel and drain blocks (R273). -/
def lsuBadScope (op : Nat) : Bool := op == 0x1E || op == 0x1F || op == 0x26 || op == 0x27 || op == 0x2E || op == 0x2F

/-- The trigger that a unit id, OP and M name (R272). -/
def trigger (unit op m : Nat) (t : Tr) : Option Instr :=
  match FUnit.ofId unit with
  | none => none
  | some .seq => seqTrigger t op
  | some .alu0 => aluTrigger .alu0 t op
  | some .alu1 => aluTrigger .alu1 t op
  | some .agu => aguTrigger t op
  | some .lsu => lsuTrigger (m == 2) t op
  | some .vu => match VWidth.ofCode m with
    | some w => vuTrigger w t op
    | none => none
  | some .mu => muTrigger t op
  | some .mx => mxTrigger t op
  | some .att => attTrigger t op
  | some .ce => ceTrigger t op
  | some .cb => cbTrigger t op
  | some .qu => quTrigger t op
  | some .sys => sysTrigger t op

/-- Whether a unit's map lists a trigger code, whatever M (R272). -/
def trigListed (unit op : Nat) : Bool :=
  match trigger unit op 0 ⟨⟨false, 0⟩, .imm 0⟩ with
  | some _ => true
  | none => false

/-- Whether M breaks R266 on this slot (ILLB reason 5). -/
def badM (unit op m : Nat) : Bool :=
  if unit = 9 ∧ 4 ≤ op then m == 3 || (op == 0x21 && m != 0)
  else if unit = 8 ∧ 4 ≤ op then m % 2 == 1 || (m == 2 && trigListed 8 op && !lsuTakesBp op)
  else m != 0

/-- The ILLB reasons a slot breaks by itself (R274): 5, 7, 8, 11. -/
def slotReasons (w : Slot32) : List Nat :=
  if slotEmpty w || decide (0x11 ≤ slotUnit w) then []
  else
    (if badM (slotUnit w) (slotOp w) (slotM w) then [5] else [])
    ++ (if 4 ≤ slotUnit w ∧ 4 ≤ slotOp w ∧ trigListed (slotUnit w) (slotOp w) = false
          ∧ (slotUnit w = 8 ∧ lsuBadScope (slotOp w) = true → False) then [7] else [])
    ++ (match FUnit.ofId (slotUnit w) with
        | some u => if slotOp w < 4 ∧ u.nPorts ≤ slotOp w then [8] else []
        | none => [])
    ++ (if slotUnit w = 8 ∧ lsuBadScope (slotOp w) = true then [11] else [])

/-- The guard of a slot (R265). -/
def slotGuard (w : Slot32) : Guard := ⟨slotGn w, finOf 8 (slotGr w)⟩

/-- The transport of a slot whose source is decoded. -/
def decodeWith (w : Slot32) (src : Src) : Except DecErr Instr :=
  let t : Tr := ⟨slotGuard w, src⟩
  if slotUnit w < 4 then
    match decodeDst (slotUnit w) (slotOp w) with
    | .ok d => .ok (.registerFileWrite d t)
    | .error e => .error e
  else if slotOp w < 4 then
    match FUnit.ofId (slotUnit w) with
    | some u => .ok (.operandPortWrite u (finOf 4 (slotOp w)) t)
    | none => .error (.illt (slotUnit w))
  else match trigger (slotUnit w) (slotOp w) (slotM w) t with
    | some i => .ok i
    | none => .error (.illb 7)

/-- Decode one slot, by itself: total on every word, each refusal with its name (R258, R267-R275). -/
def decodeSlot (w : Slot32) : Except DecErr Instr :=
  if slotTop w then .error (.illb 2)
  else if slotEmpty w then .error .empty
  else match slotReasons w with
    | r :: _ => .error (.illb r)
    | [] =>
      if 0x11 ≤ slotUnit w then .error (.illt (slotUnit w))
      else if slotUnit w < 4 then
        match decodeDst (slotUnit w) (slotOp w) with
        | .error e => .error e
        | .ok _ => match decodeSrc (slotSk w) (slotSv w) with
          | .error e => .error e
          | .ok src => decodeWith w src
      else match decodeSrc (slotSk w) (slotSv w) with
        | .error e => .error e
        | .ok src => decodeWith w src


/-- The word of an encoded row, from the encoding tables (R264, R272 Tables 10-19); none for an event. -/
def encode : Instr → Option Slot32
  | .registerFileWrite d t => some (encodeSlot t 0 d.unit d.index)
  | .operandPortWrite u p t => some (encodeSlot t 0 u.id p.val)
  | .seqJmp t => some (encodeSlot t 0 0x4 0x4)
  | .seqJmpr t => some (encodeSlot t 0 0x4 0x5)
  | .seqCall t => some (encodeSlot t 0 0x4 0x6)
  | .seqCallr t => some (encodeSlot t 0 0x4 0x7)
  | .seqRet t => some (encodeSlot t 0 0x4 0x8)
  | .seqLoop t => some (encodeSlot t 0 0x4 0x9)
  | .seqLoopx t => some (encodeSlot t 0 0x4 0xa)
  | .seqRep t => some (encodeSlot t 0 0x4 0xb)
  | .seqMcall t => some (encodeSlot t 0 0x4 0xc)
  | .seqMret t => some (encodeSlot t 0 0x4 0xd)
  | .seqSusp t => some (encodeSlot t 0 0x4 0xe)
  | .seqRdv t => some (encodeSlot t 0 0x4 0xf)
  | .seqBrk t => some (encodeSlot t 0 0x4 0x10)
  | .seqWaitg t => some (encodeSlot t 0 0x4 0x11)
  | .seqWaitng t => some (encodeSlot t 0 0x4 0x12)
  | .aluAdd u t => some (encodeSlot t 0 u.id 0x4)
  | .aluSub u t => some (encodeSlot t 0 u.id 0x5)
  | .aluMul u t => some (encodeSlot t 0 u.id 0x6)
  | .aluMulh u t => some (encodeSlot t 0 u.id 0x7)
  | .aluMulhu u t => some (encodeSlot t 0 u.id 0x8)
  | .aluAnd u t => some (encodeSlot t 0 u.id 0x9)
  | .aluOr u t => some (encodeSlot t 0 u.id 0xa)
  | .aluXor u t => some (encodeSlot t 0 u.id 0xb)
  | .aluAndn u t => some (encodeSlot t 0 u.id 0xc)
  | .aluShl u t => some (encodeSlot t 0 u.id 0xd)
  | .aluShr u t => some (encodeSlot t 0 u.id 0xe)
  | .aluSar u t => some (encodeSlot t 0 u.id 0xf)
  | .aluRol u t => some (encodeSlot t 0 u.id 0x10)
  | .aluMin u t => some (encodeSlot t 0 u.id 0x11)
  | .aluMax u t => some (encodeSlot t 0 u.id 0x12)
  | .aluMinu u t => some (encodeSlot t 0 u.id 0x13)
  | .aluMaxu u t => some (encodeSlot t 0 u.id 0x14)
  | .aluSel u t => some (encodeSlot t 0 u.id 0x15)
  | .aluBfx u t => some (encodeSlot t 0 u.id 0x16)
  | .aluBfxs u t => some (encodeSlot t 0 u.id 0x17)
  | .aluBfi u t => some (encodeSlot t 0 u.id 0x18)
  | .aluClz u t => some (encodeSlot t 0 u.id 0x19)
  | .aluCtz u t => some (encodeSlot t 0 u.id 0x1a)
  | .aluPopc u t => some (encodeSlot t 0 u.id 0x1b)
  | .aluLimm u t => some (encodeSlot t 0 u.id 0x1c)
  | .aluAddsat u t => some (encodeSlot t 0 u.id 0x1d)
  | .aluSubsat u t => some (encodeSlot t 0 u.id 0x1e)
  | .aluCeq u t => some (encodeSlot t 0 u.id 0x20)
  | .aluCne u t => some (encodeSlot t 0 u.id 0x21)
  | .aluClt u t => some (encodeSlot t 0 u.id 0x22)
  | .aluCle u t => some (encodeSlot t 0 u.id 0x23)
  | .aluCltu u t => some (encodeSlot t 0 u.id 0x24)
  | .aluCleu u t => some (encodeSlot t 0 u.id 0x25)
  | .aluCbit u t => some (encodeSlot t 0 u.id 0x26)
  | .aguSet t => some (encodeSlot t 0 0x7 0x4)
  | .aguLin t => some (encodeSlot t 0 0x7 0x5)
  | .aguTile t => some (encodeSlot t 0 0x7 0x6)
  | .aguArena t => some (encodeSlot t 0 0x7 0x7)
  | .aguChk t => some (encodeSlot t 0 0x7 0x8)
  | .aguStep t => some (encodeSlot t 0 0x7 0x9)
  | .lsuLdb bp t => some (encodeSlot t (if bp then 2 else 0) 0x8 0x4)
  | .lsuLdh bp t => some (encodeSlot t (if bp then 2 else 0) 0x8 0x5)
  | .lsuLdw bp t => some (encodeSlot t (if bp then 2 else 0) 0x8 0x6)
  | .lsuLdd bp t => some (encodeSlot t (if bp then 2 else 0) 0x8 0x7)
  | .lsuLdbs bp t => some (encodeSlot t (if bp then 2 else 0) 0x8 0x8)
  | .lsuLdhs bp t => some (encodeSlot t (if bp then 2 else 0) 0x8 0x9)
  | .lsuLdws bp t => some (encodeSlot t (if bp then 2 else 0) 0x8 0xa)
  | .lsuLdv bp t => some (encodeSlot t (if bp then 2 else 0) 0x8 0xb)
  | .lsuStb t => some (encodeSlot t 0 0x8 0xc)
  | .lsuSth t => some (encodeSlot t 0 0x8 0xd)
  | .lsuStw t => some (encodeSlot t 0 0x8 0xe)
  | .lsuStd t => some (encodeSlot t 0 0x8 0xf)
  | .lsuStv t => some (encodeSlot t 0 0x8 0x10)
  | .lsuStvn t => some (encodeSlot t 0 0x8 0x11)
  | .lsuGath bp t => some (encodeSlot t (if bp then 2 else 0) 0x8 0x12)
  | .lsuScat t => some (encodeSlot t 0 0x8 0x13)
  | .lsuPref t => some (encodeSlot t 0 0x8 0x14)
  | .lsuLdacq sc t => some (encodeSlot t 0 0x8 (0x18 + sc.code))
  | .lsuStrel sc t => some (encodeSlot t 0 0x8 (0x20 + sc.code))
  | .lsuDrain sc t => some (encodeSlot t 0 0x8 (0x28 + sc.code))
  | .vuAdd w t => some (encodeSlot t w.code 0x9 0x4)
  | .vuSub w t => some (encodeSlot t w.code 0x9 0x5)
  | .vuMul w t => some (encodeSlot t w.code 0x9 0x6)
  | .vuFma w t => some (encodeSlot t w.code 0x9 0x7)
  | .vuMin w t => some (encodeSlot t w.code 0x9 0x8)
  | .vuMax w t => some (encodeSlot t w.code 0x9 0x9)
  | .vuDiv w t => some (encodeSlot t w.code 0x9 0xa)
  | .vuSqrt w t => some (encodeSlot t w.code 0x9 0xb)
  | .vuAddb w t => some (encodeSlot t w.code 0x9 0xc)
  | .vuSubb w t => some (encodeSlot t w.code 0x9 0xd)
  | .vuMulb w t => some (encodeSlot t w.code 0x9 0xe)
  | .vuFmab w t => some (encodeSlot t w.code 0x9 0xf)
  | .vuMinb w t => some (encodeSlot t w.code 0x9 0x10)
  | .vuMaxb w t => some (encodeSlot t w.code 0x9 0x11)
  | .vuAddh w t => some (encodeSlot t w.code 0x9 0x12)
  | .vuSubh w t => some (encodeSlot t w.code 0x9 0x13)
  | .vuMulh w t => some (encodeSlot t w.code 0x9 0x14)
  | .vuFmah w t => some (encodeSlot t w.code 0x9 0x15)
  | .vuMinh w t => some (encodeSlot t w.code 0x9 0x16)
  | .vuMaxh w t => some (encodeSlot t w.code 0x9 0x17)
  | .vuExp2 w t => some (encodeSlot t w.code 0x9 0x18)
  | .vuLog2 w t => some (encodeSlot t w.code 0x9 0x19)
  | .vuRcp w t => some (encodeSlot t w.code 0x9 0x1a)
  | .vuRsqrt w t => some (encodeSlot t w.code 0x9 0x1b)
  | .vuTanh w t => some (encodeSlot t w.code 0x9 0x1c)
  | .vuErf w t => some (encodeSlot t w.code 0x9 0x1d)
  | .vuSigm w t => some (encodeSlot t w.code 0x9 0x1e)
  | .vuCvt w t => some (encodeSlot t w.code 0x9 0x20)
  | .vuBq t => some (encodeSlot t 0 0x9 0x21)
  | .vuIc8d w t => some (encodeSlot t w.code 0x9 0x22)
  | .vuBscl w t => some (encodeSlot t w.code 0x9 0x23)
  | .vuIadd w t => some (encodeSlot t w.code 0x9 0x28)
  | .vuIsub w t => some (encodeSlot t w.code 0x9 0x29)
  | .vuImul w t => some (encodeSlot t w.code 0x9 0x2a)
  | .vuIand w t => some (encodeSlot t w.code 0x9 0x2b)
  | .vuIor w t => some (encodeSlot t w.code 0x9 0x2c)
  | .vuIxor w t => some (encodeSlot t w.code 0x9 0x2d)
  | .vuIshl w t => some (encodeSlot t w.code 0x9 0x2e)
  | .vuIshr w t => some (encodeSlot t w.code 0x9 0x2f)
  | .vuIsar w t => some (encodeSlot t w.code 0x9 0x30)
  | .vuImin w t => some (encodeSlot t w.code 0x9 0x31)
  | .vuImax w t => some (encodeSlot t w.code 0x9 0x32)
  | .vuIaddsat w t => some (encodeSlot t w.code 0x9 0x33)
  | .vuFcmpeq w t => some (encodeSlot t w.code 0x9 0x38)
  | .vuFcmplt w t => some (encodeSlot t w.code 0x9 0x39)
  | .vuFcmple w t => some (encodeSlot t w.code 0x9 0x3a)
  | .vuFcmpun w t => some (encodeSlot t w.code 0x9 0x3b)
  | .vuIcmpeq w t => some (encodeSlot t w.code 0x9 0x3c)
  | .vuIcmplt w t => some (encodeSlot t w.code 0x9 0x3d)
  | .vuKand w t => some (encodeSlot t w.code 0x9 0x40)
  | .vuKor w t => some (encodeSlot t w.code 0x9 0x41)
  | .vuKxor w t => some (encodeSlot t w.code 0x9 0x42)
  | .vuKnot w t => some (encodeSlot t w.code 0x9 0x43)
  | .vuKpop w t => some (encodeSlot t w.code 0x9 0x44)
  | .vuKsel w t => some (encodeSlot t w.code 0x9 0x45)
  | .vuPerm w t => some (encodeSlot t w.code 0x9 0x48)
  | .vuBcast w t => some (encodeSlot t w.code 0x9 0x49)
  | .vuShuf w t => some (encodeSlot t w.code 0x9 0x4a)
  | .vuLrot w t => some (encodeSlot t w.code 0x9 0x4b)
  | .vuRsum w t => some (encodeSlot t w.code 0x9 0x50)
  | .vuRmax w t => some (encodeSlot t w.code 0x9 0x51)
  | .vuRmin w t => some (encodeSlot t w.code 0x9 0x52)
  | .vuIrsum w t => some (encodeSlot t w.code 0x9 0x53)
  | .vuRnorm w t => some (encodeSlot t w.code 0x9 0x58)
  | .vuRunif w t => some (encodeSlot t w.code 0x9 0x59)
  | .muMode t => some (encodeSlot t 0 0xa 0x4)
  | .muLdp t => some (encodeSlot t 0 0xa 0x5)
  | .muStp t => some (encodeSlot t 0 0xa 0x6)
  | .muMadd t => some (encodeSlot t 0 0xa 0x7)
  | .muMsub t => some (encodeSlot t 0 0xa 0x8)
  | .muMmul t => some (encodeSlot t 0 0xa 0x9)
  | .muMscale t => some (encodeSlot t 0 0xa 0xa)
  | .muMexp t => some (encodeSlot t 0 0xa 0xb)
  | .muMrelu t => some (encodeSlot t 0 0xa 0xc)
  | .muMgelu t => some (encodeSlot t 0 0xa 0xd)
  | .muMmean t => some (encodeSlot t 0 0xa 0xe)
  | .muMsamp t => some (encodeSlot t 0 0xa 0xf)
  | .muMpack t => some (encodeSlot t 0 0xa 0x10)
  | .muMunpk t => some (encodeSlot t 0 0xa 0x11)
  | .mxMma t => some (encodeSlot t 0 0xb 0x4)
  | .mxMmag t => some (encodeSlot t 0 0xb 0x5)
  | .mxMmar t => some (encodeSlot t 0 0xb 0x6)
  | .mxMmaic t => some (encodeSlot t 0 0xb 0x7)
  | .mxMmam t => some (encodeSlot t 0 0xb 0x8)
  | .mxMmaft t => some (encodeSlot t 0 0xb 0x9)
  | .mxTrans t => some (encodeSlot t 0 0xb 0xa)
  | .mxPerm t => some (encodeSlot t 0 0xb 0xb)
  | .mxRowsum t => some (encodeSlot t 0 0xb 0xc)
  | .mxZero t => some (encodeSlot t 0 0xb 0xd)
  | .mxAm2v t => some (encodeSlot t 0 0xb 0xe)
  | .mxV2am t => some (encodeSlot t 0 0xb 0xf)
  | .mxEadd t => some (encodeSlot t 0 0xb 0x10)
  | .mxMskld t => some (encodeSlot t 0 0xb 0x11)
  | .mxDesc t => some (encodeSlot t 0 0xb 0x12)
  | .mxJoin t => some (encodeSlot t 0 0xb 0x13)
  | .mxResume t => some (encodeSlot t 0 0xb 0x14)
  | .mxScl t => some (encodeSlot t 0 0xb 0x15)
  | .mxGidx t => some (encodeSlot t 0 0xb 0x16)
  | .attQmc t => some (encodeSlot t 0 0xc 0x4)
  | .attPart t => some (encodeSlot t 0 0xc 0x5)
  | .attMerge t => some (encodeSlot t 0 0xc 0x6)
  | .attFinal t => some (encodeSlot t 0 0xc 0x7)
  | .attApp t => some (encodeSlot t 0 0xc 0x8)
  | .attPmtrd t => some (encodeSlot t 0 0xc 0x9)
  | .attPmtset t => some (encodeSlot t 0 0xc 0xa)
  | .attRing t => some (encodeSlot t 0 0xc 0xb)
  | .attStat t => some (encodeSlot t 0 0xc 0xc)
  | .ceCpy t => some (encodeSlot t 0 0xd 0x4)
  | .ceCpyw t => some (encodeSlot t 0 0xd 0x5)
  | .ceBind t => some (encodeSlot t 0 0xd 0x6)
  | .ceQfence t => some (encodeSlot t 0 0xd 0x7)
  | .ceCkst t => some (encodeSlot t 0 0xd 0x8)
  | .ceCkwait t => some (encodeSlot t 0 0xd 0x9)
  | .ceCkrst t => some (encodeSlot t 0 0xd 0xa)
  | .ceCpy2d t => some (encodeSlot t 0 0xd 0xb)
  | .cbWaitf t => some (encodeSlot t 0 0xe 0x4)
  | .cbWaite t => some (encodeSlot t 0 0xe 0x5)
  | .cbPadv t => some (encodeSlot t 0 0xe 0x6)
  | .cbCadv t => some (encodeSlot t 0 0xe 0x7)
  | .cbCstat t => some (encodeSlot t 0 0xe 0x8)
  | .quPush t => some (encodeSlot t 0 0xf 0x4)
  | .quPop t => some (encodeSlot t 0 0xf 0x5)
  | .quQwait t => some (encodeSlot t 0 0xf 0x6)
  | .quAmo t => some (encodeSlot t 0 0xf 0x7)
  | .quRed t => some (encodeSlot t 0 0xf 0x8)
  | .quAmoacq t => some (encodeSlot t 0 0xf 0x9)
  | .quAmorel t => some (encodeSlot t 0 0xf 0xa)
  | .quTalloc t => some (encodeSlot t 0 0xf 0xb)
  | .quTdec t => some (encodeSlot t 0 0xf 0xc)
  | .quPuth t => some (encodeSlot t 0 0xf 0xd)
  | .quMwait t => some (encodeSlot t 0 0xf 0xe)
  | .quBara t => some (encodeSlot t 0 0xf 0xf)
  | .quBarw t => some (encodeSlot t 0 0xf 0x10)
  | .quBarx t => some (encodeSlot t 0 0xf 0x11)
  | .quBari t => some (encodeSlot t 0 0xf 0x12)
  | .sysCsrr t => some (encodeSlot t 0 0x10 0x4)
  | .sysCsrw t => some (encodeSlot t 0 0x10 0x5)
  | .sysCsrs t => some (encodeSlot t 0 0x10 0x6)
  | .sysCsrc t => some (encodeSlot t 0 0x10 0x7)
  | .sysTrap t => some (encodeSlot t 0 0x10 0x8)
  | .sysTret t => some (encodeSlot t 0 0x10 0x9)
  | .sysHret t => some (encodeSlot t 0 0x10 0xa)
  | .sysLaunch t => some (encodeSlot t 0 0x10 0xb)
  | .sysLaunchi t => some (encodeSlot t 0 0x10 0xc)
  | .sysRetire t => some (encodeSlot t 0 0x10 0xd)
  | .sysFrd t => some (encodeSlot t 0 0x10 0xe)
  | .sysHinst t => some (encodeSlot t 0 0x10 0xf)
  | .sysTlbi t => some (encodeSlot t 0 0x10 0x10)
  | .sysTlbun t => some (encodeSlot t 0 0x10 0x11)
  | .sysCinv t => some (encodeSlot t 0 0x10 0x12)
  | .sysCwb t => some (encodeSlot t 0 0x10 0x13)
  | .sysSlotld t => some (encodeSlot t 0 0x10 0x14)
  | .sysCsw t => some (encodeSlot t 0 0x10 0x15)
  | .sysIrq t => some (encodeSlot t 0 0x10 0x16)
  | .sysDbg t => some (encodeSlot t 0 0x10 0x17)
  | .lateResultArrival _ _ => none
  | .joinResultReady _ _ => none
  | .translationComplete _ _ => none
  | .mxEntryPerform _ => none
  | .copyEntryDone _ => none
  | .sysEntryComplete _ _ => none
  | .drainComplete _ _ => none
  | .holdingWaitTimeout _ _ => none
  | .rendezvousComplete _ => none
  | .watchdogExpire _ _ => none
  | .segmentBundleLimit _ => none
  | .pairSignatureMismatch _ => none
  | .softError _ => none
  | .suspendAtSuspensionPoint _ => none
  | .freezeSave _ => none
  | .frozenRestore _ => none
  | .puthArrive _ => none
  | .handlerActivationStart _ => none
  | .liveCoreSwap _ => none
  | .coreSwapAbandon _ => none
  | .frameTick => none
  | .launchRelease _ => none
  | .pointFire _ => none
  | .readyQueueDispatch _ => none
  | .readyQueueAging _ => none
  | .gangHoldExpire _ => none
  | .preemption _ => none
  | .suspendTimeout _ => none
  | .launchTakeBack _ => none
  | .launchRetire _ => none
  | .deadlineArrival _ => none
  | .frameCounterResume => none
  | .streamTableWrite _ _ _ => none
  | .streamTailWake _ _ => none
  | .streamMap _ _ => none
  | .streamQuantumUnmap _ _ => none
  | .loadArrive _ => none
  | .storeArrive _ => none
  | .atomicArrive _ _ => none
  | .pushArrive _ _ => none
  | .popArrive _ _ => none
  | .pairingWindowExpire _ => none
  | .respArrive _ _ => none
  | .responseTimeout _ => none
  | .slotctl _ => none
  | .slotBankSwap _ => none
  | .linkReplay _ => none
  | .liveLaneSwap _ => none
  | .portHalfRate _ => none
  | .fscDropsRead _ => none
  | .query _ => none
  | .append _ => none
  | .mirror _ => none
  | .pmtread _ => none
  | .pmtset _ => none
  | .pmtCommitNotice _ => none
  | .ringblk _ => none
  | .partialArrive _ => none
  | .partialToReply _ => none
  | .attentionQueryTimeout _ => none
  | .pageOwnerWrite _ _ => none
  | .checkpointEngineCopy _ => none
  | .boundCopyDone _ => none
  | .boundCopyFault _ => none
  | .mwaitWake _ _ => none
  | .mwaitTimeout _ _ => none
  | .mwaitPoll _ _ => none
  | .thermalThrottle _ => none
  | .thermalClockRaise _ => none
  | .thermalTrip => none
  | .railCurrentLimit _ => none
  | .railVoltageShutdown _ => none
  | .conventionalReset => none
  | .hotReset => none
  | .reducedServiceReached => none
  | .fullServiceReached => none
  | .functionLevelReset _ => none
  | .pfFlr => none
  | .flrDrainAbandon _ => none
  | .flrComplete _ => none
  | .quarantineEnd _ => none
  | .partitionEnable _ _ _ => none
  | .partitionDisable _ => none
  | .partitionDropCountRead _ _ => none
  | .devstateResume => none
  | .devstateGofull => none
  | .linklossClear => none
  | .linkLoss => none
  | .linkRetrain => none
  | .bar2Access _ => none
  | .smcReadSensors => none
  | .smcReadLogs => none
  | .smcDumpState _ => none
  | .smcPartitionReset _ => none
  | .smcPackageReset => none
  | .smcPowerCap _ => none
  | .smcSpareControl _ => none
  | .smcFirmwareUpdate _ _ => none
  | .smcDebugResume _ _ _ => none
  | .registerWrite _ _ => none
  | .emptyBundle => none
  | .shevisLinkLoss _ => none
  | .randomVectorAvailable _ _ => none
  | .attentionEntryComplete _ => none
  | .configurationRequest _ => none

/-- What the decoder reads from the word of an opcode-table row. -/
def decodeTableWord (nbits w : Nat) : Option Instr :=
  if nbits = 32 then
    match decodeSlot (BitVec.ofNat 32 w) with
    | .ok i => some i
    | .error _ => none
  else none

/-! The bundle (R257-R263). A bundle is its four slot words, S0 first. -/

/-- Slot k of a bundle. -/
def slotAt (b : List Slot32) (k : Nat) : Slot32 := b.getD k 0x40000000

/-- The header word, if S0 is one (R257). -/
def headerOf (b : List Slot32) : Option Slot32 := if slotTop (slotAt b 0) then some (slotAt b 0) else none

/-- KIND of a header (R259). -/
def hdrKind (h : Slot32) : Nat := bits h.toNat 3 0
/-- The flags of a header (R259). -/
def hdrSeg (h : Slot32) : Bool := bitOf h.toNat 30
def hdrSusp (h : Slot32) : Bool := bitOf h.toNat 29
def hdrRdv (h : Slot32) : Bool := bitOf h.toNat 28
/-- Byte Xk of a header, k = 1-3 (R259). -/
def hdrX (h : Slot32) (k : Nat) : Nat := bits h.toNat (8 * k + 3) (8 * k - 4)

/-- The kind of a bundle's header; none where there is no header or a reserved KIND (R260). -/
def hkindOf (b : List Slot32) : Option HKind :=
  match headerOf b with
  | none => none
  | some h => match hdrKind h with
    | 0 => some .lend | 1 => some .imm18 | 2 => some .regext | 3 => some .imm34 | _ => none

/-- The slots that hold transports: 0-3, or 1-3 under a header, without the empty ones and without a slot whose bit 31
is set (R257, R258). -/
def liveSlots (b : List Slot32) : List Nat :=
  ((if (headerOf b).isSome then [1, 2, 3] else [0, 1, 2, 3]).filter
    fun k => !slotTop (slotAt b k) && !slotEmpty (slotAt b k))

/-- A live slot that takes part in the bundle rules: its unit id is not reserved (R270). -/
def ruleSlots (b : List Slot32) : List Nat := (liveSlots b).filter fun k => decide (slotUnit (slotAt b k) < 0x11)

/-- A trigger: OP 0x04 or above in a function unit (R261). -/
def isTrig (w : Slot32) : Bool := decide (4 ≤ slotUnit w) && decide (4 ≤ slotOp w)

/-- An immediate source (R262). -/
def isImm (w : Slot32) : Bool := slotSk w == 2

/-- Lend codes that name a register (R261 Table 3). -/
def lendOk (c : Nat) : Bool := decide (c < 0xA8) || (decide (0xB0 ≤ c) && decide (c < 0xC4)) || c == 0xFF

/-- A slot whose source is ct0-ct3 (R263). -/
def ctSrc (w : Slot32) : Bool := slotSk w == 0 && bits (slotSv w) 9 8 == 3 && bits (slotSv w) 7 2 == 0x18

/-- A slot that writes ct0-ct3 through unit 0x03 (R263). -/
def ctDst (w : Slot32) : Bool := slotUnit w == 3 && bits (slotOp w) 7 2 == 0x18

/-- Whether a selector breaks R263 in a slot under a register-extension header. -/
def badSel (w : Slot32) (x : Nat) : Bool :=
  if ctSrc w || ctDst w then ctSrc w && ctDst w
  else if x = 0xFF then false
  else if slotSk w = 0 ∧ bits (slotSv w) 9 8 = 1 then !(decide (0x80 ≤ x) && decide (x < 0x90))
  else if slotSk w = 0 ∧ bits (slotSv w) 9 8 = 2 then !(decide (0xA0 ≤ x) && decide (x < 0xC0))
  else true

/-- Whether a list of numbers holds one twice. -/
def hasDup : List Nat → Bool
  | [] => false
  | x :: t => t.contains x || hasDup t

/-- The width a slot takes of the VU budget (R126, R298). -/
def vuBits (w : Slot32) : Nat :=
  if slotUnit w = 9 ∧ 4 ≤ slotOp w then
    match slotM w with
    | 0 => 1024 | 1 => 512 | 2 => 256 | _ => 0
  else 0

/-- Every ILLB reason a bundle breaks at decode (R274). `inMac` says whether the context runs a micro-bundle (R136). -/
def bundleReasons (inMac : Bool) (b : List Slot32) : List Nat :=
  let live := ruleSlots b
  let ws := live.map (slotAt b)
  let trigs := ws.filter isTrig
  (match headerOf b with
    | some h => if 4 ≤ hdrKind h then [1] else []
    | none => [])
  ++ (if slotTop (slotAt b 1) || slotTop (slotAt b 2) || slotTop (slotAt b 3) then [2] else [])
  ++ (if hasDup ((trigs.map slotUnit).filter (· != 9)) then [3] else [])
  ++ (if 2048 < (ws.map vuBits).foldl (· + ·) 0 then [4] else [])
  ++ (if hasDup ((ws.filter fun w => decide (4 ≤ slotUnit w) && decide (slotOp w < 4)).map fun w => slotUnit w * 4 + slotOp w)
      then [6] else [])
  ++ ws.flatMap slotReasons
  ++ (match headerOf b, hkindOf b with
    | some h, some .lend =>
      if live.any fun k => !(hdrX h k == 0xFF) && (!isTrig (slotAt b k) || !lendOk (hdrX h k)) then [9] else []
    | some _, some .imm34 => if 2 ≤ (ws.filter isImm).length then [10] else []
    | some h, some .regext => if live.any fun k => badSel (slotAt b k) (hdrX h k) then [17] else []
    | _, _ => [])
  ++ (if ws.any fun w => slotUnit w == 4 && ((slotOp w == 0xC && inMac) || (slotOp w == 0xD && !inMac)) then [12] else [])

/-- Units that a context may use (R128, R270): contexts 1 and 2, and stream cores, have no v, m, vu, mu, mx, att, ce, cb. -/
def unitAllowed (ctx : Nat) (stream : Bool) (u : Nat) : Bool :=
  if u = 1 ∨ u = 2 ∨ (9 ≤ u ∧ u ≤ 0xE) then !stream && (ctx == 0 || ctx == 3) else decide (u < 0x11)

/-- The scalar lsu forms, which context 1 and 2 may feed from any source (R128). -/
def scalarLsu (w : Slot32) : Bool :=
  slotUnit w == 8 && decide (4 ≤ slotOp w) && !(slotOp w == 0xB || slotOp w == 0x10 || slotOp w == 0x11
    || slotOp w == 0x12 || slotOp w == 0x13)

/-- The ILLT or ILLREG that one live slot raises in a context (R128, R263, R267-R271, R357), if any: destination
first, then source, then lend. `lend` is the slot's lend code, 0xFF where there is none; `ext` says whether the header
is a register extension; `freeIdx` is the register index that the spec does not state for a vector lsu form. -/
def slotCause (ctx : Nat) (stream ext : Bool) (lend freeIdx : Nat) (w : Slot32) : Option DecErr :=
  let narrow := ctx == 1 || ctx == 2
  if unitAllowed ctx stream (slotUnit w) = false then some (.illt (slotUnit w))
  else if slotUnit w < 4 ∧ (decodeDst (slotUnit w) (slotOp w)).toOption = none then
    match decodeDst (slotUnit w) (slotOp w) with
    | .error e => some e
    | .ok _ => none
  else if ctDst w && !ext then some (.illreg (slotOp w) 3)
  else if narrow && slotUnit w == 8 && isTrig w && !scalarLsu w && slotOp w != 0x14 then some (.illreg freeIdx 1)
  else
    let src := match decodeSrc (slotSk w) (slotSv w) with
      | .error e => some e
      | .ok (.v i) => if narrow && !scalarLsu w then some (.illreg i.val 1) else none
      | .ok (.m i) => if narrow && !scalarLsu w then some (.illreg i.val 2) else none
      | .ok (.byp u _ _) => if unitAllowed ctx stream u.id = false then some (.illt u.id) else none
      | .ok _ => if ctSrc w && !ext then some (.illreg (bits (slotSv w) 7 0) 3) else none
    if src.isSome then src
    else if narrow && decide (0x40 ≤ lend) && decide (lend < 0x80) then some (.illreg (lend - 0x40) 1)
    else if narrow && decide (0x80 ≤ lend) && decide (lend < 0x90) then some (.illreg (lend - 0x80) 2)
    else none

/-- The lend code of slot k: 0xFF unless the header is of the writeback-lend kind (R261). -/
def lendCode (b : List Slot32) (k : Nat) : Nat :=
  match headerOf b, hkindOf b with
  | some h, some .lend => if k = 0 then 0xFF else hdrX h k
  | _, _ => 0xFF

/-- The selector of slot k under a register-extension header (R263). -/
def selCode (b : List Slot32) (k : Nat) : Option Nat :=
  match headerOf b, hkindOf b with
  | some h, some .regext => if k = 0 then none else some (hdrX h k)
  | _, _ => none

/-- Sign-extend the low `n` bits of `x` to 64 bits. -/
def sext64 (n x : Nat) : Word :=
  if bitOf x (n - 1) then BitVec.ofNat 64 (2 ^ 64 - 2 ^ n + x % 2 ^ n) else BitVec.ofNat 64 (x % 2 ^ n)

/-- The value of an immediate in slot k (R262). -/
def immValue (b : List Slot32) (k : Nat) (raw : BitVec 10) : Word :=
  match headerOf b, hkindOf b with
  | some h, some .imm18 => sext64 18 (hdrX h k * 1024 + raw.toNat)
  | some h, some .imm34 => sext64 34 (bits h.toNat 27 4 * 1024 + raw.toNat)
  | _, _ => sext64 10 raw.toNat

/-- The first ILLT or ILLREG of a bundle by slot (R180 rank 3), with its slot. -/
def firstSlotCause (ctx : Nat) (stream : Bool) (freeIdx : Nat) (b : List Slot32) : List Nat → Option (Nat × DecErr)
  | [] => none
  | k :: t =>
    match slotCause ctx stream (hkindOf b == some .regext) (lendCode b k) freeIdx (slotAt b k) with
    | some e => some (k, e)
    | none => firstSlotCause ctx stream freeIdx b t

/-- The least element of a list of numbers. -/
def minOf : List Nat → Option Nat
  | [] => none
  | x :: t => match minOf t with
    | none => some x
    | some y => some (min x y)

end Sys2Proof
end

