-- ==== Sys2Proof/Machine/Map.lean ====
section
/-! DEFINITION. Sparse stores in one canonical form: keys strictly rising, and no entry equal to the default. -/

namespace Sys2Proof.SMap

/-- The value at a key: the first entry with that key, else the default. -/
def get {α : Type} (d : α) : SMap α → Nat → α
  | [], _ => d
  | (k, v) :: t, i => if k = i then v else get d t i

/-- The value listed at a key, if any. -/
def find {α : Type} : SMap α → Nat → Option α
  | [], _ => none
  | (k, v) :: t, i => if k = i then some v else find t i

/-- The entries below a key. -/
def below {α : Type} (i : Nat) : SMap α → SMap α
  | [] => []
  | (k, v) :: t => if k < i then (k, v) :: below i t else below i t

/-- The entries at or above a key. -/
def above {α : Type} (i : Nat) : SMap α → SMap α
  | [] => []
  | (k, v) :: t => if i ≤ k then (k, v) :: above i t else above i t

/-- Put a value at a key, whatever it is. -/
def put {α : Type} (m : SMap α) (i : Nat) (v : α) : SMap α := below i m ++ (i, v) :: above (i + 1) m

/-- Take a key out. -/
def del {α : Type} (m : SMap α) (i : Nat) : SMap α := below i m ++ above (i + 1) m

/-- Write a value at a key, listing it only where it differs from the default. -/
def set {α : Type} [DecidableEq α] (d : α) (m : SMap α) (i : Nat) (v : α) : SMap α :=
  if v = d then del m i else put m i v

/-- The entries of a run of values from key `i` on, without those that equal the default. -/
def cells {α : Type} [DecidableEq α] (d : α) : Nat → List α → SMap α
  | _, [] => []
  | i, v :: t => if v = d then cells d (i + 1) t else (i, v) :: cells d (i + 1) t

/-- Write a run of values from key `i` on. -/
def setRun {α : Type} [DecidableEq α] (d : α) (m : SMap α) (i : Nat) (vs : List α) : SMap α :=
  below i m ++ cells d i vs ++ above (i + vs.length) m

/-- Take out every key from `i` to `i + n - 1`. -/
def delRun {α : Type} (m : SMap α) (i n : Nat) : SMap α := below i m ++ above (i + n) m

/-- The values of `n` keys from `i` on. -/
def run {α : Type} (d : α) (m : SMap α) (i : Nat) : Nat → List α
  | 0 => []
  | n + 1 => get d m i :: run d m (i + 1) n

/-- Keys strictly rise and no value is the default. -/
def wf {α : Type} [DecidableEq α] (d : α) : SMap α → Bool
  | [] => true
  | [(_, v)] => !decide (v = d)
  | (k, v) :: (k', v') :: t => decide (k < k') && !decide (v = d) && wf d ((k', v') :: t)

end Sys2Proof.SMap

namespace Sys2Proof

/-- A byte memory in canonical form: addresses strictly rise and no byte is 0, which is what an unlisted address reads
as (notes/assumptions/4). -/
def Memory.wf (m : List Host.Cell) : Bool := SMap.wf (0 : Byte) m

/-- The number whose little-endian bytes a list holds (R4). -/
def leNat : List Byte → Nat
  | [] => 0
  | b :: t => b.toNat + 256 * leNat t

/-- The `n` little-endian bytes of a number (R4). -/
def leBytes : Nat → Nat → List Byte
  | 0, _ => []
  | n + 1, x => BitVec.ofNat 8 (x % 256) :: leBytes n (x / 256)

end Sys2Proof
end

