-- ==== Sys2Proof/Config.lean ====
section
/-! DEFINITION. What the spec leaves open: free values with no body, so that nothing can be proved of the value they
take. Each is named in notes/assumptions. -/

namespace Sys2Proof

/-- Which of the activities that can happen next does happen, where the spec gives no order (R1); log 5. -/
opaque Config.freeNat : Nat → Nat

/-- Whether an old translation is used where R146 allows either, and choices of two of the same kind; log 6. -/
opaque Config.freeBit : Nat → Bool

/-- Which of the values that R154 allows a load of a byte returns; log 6. -/
opaque Config.freeAt : Nat → Nat → Nat

/-- IDPKG.STEP, "per part" (R384); log 7. -/
opaque Config.step : BitVec 8

/-- The FP32 bits of a correctly rounded function where the bounded refinement does not settle them; log 8. -/
opaque Config.crOpen : Nat → BitVec 32 → BitVec 32

/-- Details the spec does not state: the register index an ILLREG of a vector lsu form in context 1 or 2 reports
(R357) and similar words; log 9. -/
opaque Config.freeWord : Nat → Word

/-- The device register at an MMIO address, in words of 8 bytes: the windows of dies, routers and functions have no places in the MMIO
range of R141 Table 1; log 12. -/
opaque Config.mmioReg : Nat → Option DevReg

end Sys2Proof
end

