-- ==== Sys2Proof/Machine/State.lean ====
section
/-! DEFINITION. The state of one SHC-880 package as plain data, the reasons a step stops, and the state after reset.
INVENTORY.md lists every field with its rule and its reset value. Numbers that software reads as words are bit vectors;
counts, indices, addresses and identifiers are `Nat`. An `SMap` is sparse: what an unlisted key reads as is the default
that its accessor of Machine/Ops.lean names. -/

namespace Sys2Proof.Machine

/-- Why the machine stops with a fault. -/
inductive Fault where
  /-- A REGISTER_WRITE names an MMIO offset at which no chapter puts a register (R5, R92): raised by
  `execRegisterWrite`. The spec gives such a write no effect. Safe: the machine stops where the spec is silent. -/
  | unlistedRegister (off : Nat)
  deriving DecidableEq, Repr

/-- Why a step is refused. -/
inductive Refusal where
  /-- An instruction that has no meaning yet; raised by `exec`. Safe. -/
  | notModelled (mnemonic : String)
  deriving DecidableEq, Repr

/-- A trap's cause, slot and detail words D0-D7 (R181), the queued result whose held fault it is, if any (R183), and for
FENCE the streams whose refused operations it reports (R181). -/
structure TrapInfo where
  cause : Nat
  slot : Nat := 0
  d : List Word := []
  held : Option Nat := none
  clear : Nat := 0
  deriving DecidableEq, Repr

/-- Where a translated address leads (R142, R144 Table 4b). -/
inductive Tgt where
  | sp (core off : Nat)
  | hbm (pa mattr : Nat)
  | remote (pkg pa mattr : Nat)
  | host (pa : Nat) (tr : Bool) (mattr : Nat)
  | mmio (pa : Nat)
  deriving DecidableEq, Repr

/-- Why a context's VCC is paused (R133) or its bundle waits. -/
inductive Pause where
  | none
  | join (key : Nat)
  | late
  | xlate (va acc slot : Nat)
  | snap (va : Nat)
  | rnd (need : Nat)
  | full (unit : Nat)
  | rdv
  | handlers
  | suspending
  | drain (scope mask : Nat)
  | prior
  | fence (mask : Nat)
  | cpyw (id : Nat)
  | peek (t : Tgt) (n slot va : Nat)
  | sysEntry
  | ending
  | limit (t : TrapInfo)
  | flush (key n : Nat)
  | group
  deriving DecidableEq, Repr

/-- What a context is doing (R128, R133, R179, R189, R197). `trapped`: frozen while context 3 runs its trap;
`trapPending`: its trap waits for context 3; `parked`: no handler was installed; `halted`: debugger halt. -/
inductive Run where
  | idle | running | trapped | trapPending (t : TrapInfo) | parked (t : TrapInfo) | halted | frozen
  deriving DecidableEq, Repr

/-- A result in flight in a fixed-latency unit (R124, R186): `remain` VCC cycles until the end of the cycle that writes
it. `lend` is a lend code (0xFF none); `byp` is none for a register write that ranks as a lend (R295). `late` says the
data is not there yet (R133); `fault` is the trap it raises instead of a value (R320, R356); `src` is the
HBM address, size and sign extension of a late load, which may still read when its data arrives (R162). -/
structure Flight where
  unit : Nat
  byp : Option Nat
  val : Val
  remain : Nat
  lend : Nat := 0xFF
  slot : Nat := 0
  seq : Nat := 0
  late : Bool := false
  tag : Option Nat := none
  fault : Option TrapInfo := none
  src : Option (Nat × Nat × Bool) := none
  deriving DecidableEq, Repr

/-- A result of a queued operation, until a join reads it (R125). -/
structure QRes where
  id : Nat
  done : Bool := false
  val : Val := 0
  lend : Nat := 0xFF
  fault : Option TrapInfo := none
  deriving DecidableEq, Repr

/-- An entry of an engine queue or a sys queue (R331, R360, R382): its operation code, its operands read at issue,
its progress, the fault it holds, the queued result it delivers and what else it remembers. -/
structure QEntry where
  id : Nat
  op : Nat
  a : Val := 0
  b : Val := 0
  c : Val := 0
  d : Val := 0
  e : Val := 0
  ctx : Nat := 0
  sent : Bool := false
  prog : Nat := 0
  fault : Option TrapInfo := none
  lend : Nat := 0xFF
  bound : Option Nat := none
  boundPa : Option Nat := none
  tags : List Nat := []
  aux : List Nat := []
  deriving DecidableEq, Repr

/-- A non-returning operation that was answered other than OK, until FENCE reports it (R181, R183). -/
structure Failed where
  status : Nat
  addr : Nat
  stream : Nat
  deriving DecidableEq, Repr

/-- A request of a context that the fabric has not answered (R38, R167, R372-R378). `core`, `ctx` and `launch` say who issued it; `op` is the trigger's OP,
`key` the queued result or late flight it delivers into, at byte `off`, in bypass register `b` (none for a store);
`loc` the location it touches, `size` bytes of it; `back`: a write-back of the die's L2; `wc`: a line of the write-combining buffer;
`fill`: its data fills the die's L2 (1), and the core's L1 too (2). -/
structure Req where
  id : Nat
  core : Nat
  ctx : Nat
  launch : Option LKey := none
  unit : Nat
  op : Nat
  tag : Nat
  stream : Nat
  key : Option Nat := none
  addr : Nat := 0
  va : Nat := 0
  loc : Nat := 0
  off : Nat := 0
  b : Nat := 0
  phase : Nat := 0
  acq : Option Nat := none
  size : Nat := 0
  sign : Bool := false
  nr : Bool := false
  nt : Bool := false
  arg : Word := 0
  seen : List Word := []
  back : Bool := false
  wc : Bool := false
  fill : Nat := 0
  deriving DecidableEq, Repr

/-- A hardware loop (R283): macro and micro PC of its first and last bundle. -/
structure Loop where
  startPc : Nat := 0
  startU : Nat := 0
  endPc : Nat := 0
  endU : Nat := 0
  active : Bool := false
  deriving DecidableEq, Repr

/-- A pending transfer of control (R280). -/
structure Pend where
  pc : Nat
  upc : Nat
  left : Nat
  deriving DecidableEq, Repr

/-- A monitored wait (R376): the context that waits, its request, the word's target, the limit
tick, the scope of its acquire; whether its line was written, by the host (R177), and whether it polls for want of a monitor. -/
structure Monitor where
  core : Nat
  ctx : Nat
  id : Nat
  tgt : Tgt
  limit : Option Nat
  scope : Nat
  woken : Bool := false
  host : Bool := false
  polling : Bool := false
  deriving DecidableEq, Repr

/-- A trap or wait found while a bundle issues, and what the bundle has done so far besides changing the state
(the model's own bookkeeping of the bundle in issue; it is empty between bundles). -/
structure Bnd where
  words : List Slot32 := []
  slot : Nat := 0
  vuk : Nat := 0
  live : Bool := false
  repSeq : Bool := true
  writes : List (RegDst × Option Nat × Val) := []
  loopW : List (Nat × Loop × BitVec 32) := []
  loopSkip : Option (Nat × Nat) := none
  loopx : Bool := false
  xfer : Option (Nat × Nat) := none
  rep : Option Nat := none
  trap : Option TrapInfo := none
  pause : Pause := .none
  waits : List (Bool × Nat × TrapInfo) := []
  ended : Nat := 0
  halt : Bool := false
  sent : List (Nat × Nat × List Byte) := []
  mret : Bool := false
  start : Option Nat := none
  deriving DecidableEq, Repr

/-- A bundle that waits for what its own earlier slots have issued (R167, R168, R172): the slots that have acted, and its bookkeeping. -/
structure Acted where
  done : List Nat
  bnd : Bnd
  deriving DecidableEq, Repr

/-- One hardware context (R129). `wrote`: what the last cycle wrote, with its rank, while a result due in it is late (R133). -/
structure Cx where
  run : Run := .idle
  pause : Pause := .none
  pc : Nat := 0
  upc : Nat := 0
  s : SMap Word := []
  g : SMap Bool := []
  k : SMap Word := []
  a : SMap Word := []
  lc : SMap (BitVec 32) := []
  cb : SMap (BitVec 32) := []
  loops : SMap Loop := []
  repLeft : Nat := 0
  repDone : Nat := 0
  pend : Option Pend := none
  vcc : Nat := 0
  rqkey : Word := 0
  rqpos : Word := 0
  rqbuf : Nat := 4
  ports : SMap Val := []
  byp : SMap Val := []
  joins : SMap (List QRes) := []
  flights : List Flight := []
  seq : Nat := 0
  wd : Nat := 0
  arg : SMap Word := []
  suspReq : Bool := false
  hold : Option Nat := none
  noBrk : Bool := false
  skip : Bool := false
  rdvPass : Bool := false
  raise : List TrapInfo := []
  raiseNow : Bool := false
  sysq : List QEntry := []
  fenced : List Failed := []
  xok : List Nat := []
  desync : Bool := false
  barSeen : List Word := []
  peek : List (Nat × List Byte) := []
  cpyGot : Option Nat := none
  frame : Nat := 0
  trapCtx : Nat := 0
  trapCause : Nat := 0
  acted : Option Acted := none
  wrote : List (Nat × Nat) := []
  deriving DecidableEq, Repr

/-- The point that context 0 of a core runs (R102, R111): its launch, coordinates, kernel with its entry, frame and gang. -/
structure Point where
  l : LKey
  x : Nat := 0
  y : Nat := 0
  z : Nat := 0
  kidx : Nat := 0
  gang : Nat := 0
  frame : Nat := 0
  task : Bool := false
  entry : Nat := 0
  deriving DecidableEq, Repr

/-- A continuation record as the scheduler holds it (R102); a frozen one knows its image's address, its core, and what of the
context its image does not hold (R197, R198). -/
structure Cr where
  pc : Nat
  upc : Nat := 0
  flags : Nat := 0
  lid : Nat := 0
  x : Nat := 0
  y : Nat := 0
  z : Nat := 0
  wait : Nat := 0
  prio : Nat := 0
  state : Nat := 2
  aff : Nat := 0xFF
  gang : Nat := 0
  frame : Nat := 0
  args : List Word := []
  ptag : Nat := 0
  die : Nat := 0
  task : Bool := false
  entry : Nat := 0
  image : Nat := 0
  home : Option Nat := none
  kept : Cx := {}
  deriving DecidableEq, Repr

/-- A CR waiting in a ready queue: when it joined its class, the class, its failed holds (R104, R111). -/
structure Ready where
  cr : Cr
  cls : Nat
  since : Nat
  fails : Nat := 0
  deriving DecidableEq, Repr

/-- A PUTH accepted by a core's activation queue (R130). -/
structure Activation where
  txn : Txn
  handler : Word
  addr : Word
  len : Nat
  hint : Nat
  running : Option Nat := none
  deriving DecidableEq, Repr

/-- The attention interface's record of an outstanding qmc (R347): its generation, queue entry and time limit, and what
ended it: a record (R70), a STALEGEN with its generation, or nothing within the limit (R71). -/
structure AttTag where
  tag : Nat
  gen : Nat
  entry : Nat
  limit : Nat
  done : Bool := false
  record : List Byte := []
  staleGen : Option Nat := none
  deriving DecidableEq, Repr

/-- A store buffered by an open segment (R202), performed at the commit. -/
structure SegStore where
  tgt : Tgt
  va : Nat
  bytes : List Byte
  op : Nat
  stream : Nat
  nt : Bool := false
  deriving DecidableEq, Repr

/-- An open segment of a core (R200-R204): its context, what the context and the shared registers held at the entry,
the store buffer, the entries of the journal used, the bundles issued, and whether this pass is the retry; the late data and queued
results of earlier operations that have come since (R203). -/
structure Seg where
  ctx : Nat
  entry : Cx
  v : SMap Vec
  m : SMap Val
  ft : SMap (BitVec 16)
  ct : SMap (BitVec 32)
  ports : SMap Val
  byp : SMap Val
  joins : SMap (List QRes)
  stores : List SegStore := []
  journal : List Nat := []
  bundles : Nat := 0
  retry : Bool := false
  mxHeld : List Nat := []
  startId : Nat := 0
  arrived : List Flight := []
  results : List QRes := []
  deriving DecidableEq, Repr

/-- A read-only cache (R154): the lines filled since the last whole invalidation (line address * 16 + PTAG). A byte of one that has
shown another value since is listed with the values that such lines hold, and whether a line was filled after it last changed. -/
structure Cache where
  lines : List Nat := []
  old : SMap (Bool × List Byte) := []
  deriving DecidableEq, Repr

/-- The clean lines of an L2 (R155), and the value a line was filled with of each byte whose home has changed since; of a REMOTE line,
of each byte that it holds. -/
structure Clean where
  lines : List Nat := []
  copy : SMap Byte := []
  deriving DecidableEq, Repr

/-- A byte in the write-combining buffer (R157), with the context and stream that stored it. -/
structure WcByte where
  val : Byte
  ctx : Nat
  stream : Nat
  deriving DecidableEq, Repr

/-- What the four contexts of a core share (R129, R343), its queues, memories and caches; `irqs`: vectors of traps that
wait for host-bound writes (R86, R189); `sig`: a bundle outside an open segment of a protected pair is being retried (R206, R208); `sigv`: the signature of a pair's last bundle (R207). -/
structure Core where
  cx0 : Cx := {}
  cx1 : Cx := {}
  cx2 : Cx := {}
  cx3 : Cx := {}
  v : SMap Vec := []
  m : SMap Val := []
  ft : SMap (BitVec 16) := []
  ct : SMap (BitVec 32) := []
  ports : SMap Val := []
  byp : SMap Val := []
  joins : SMap (List QRes) := []
  mxq : List QEntry := []
  gq : List QEntry := []
  atq : List QEntry := []
  cpq : List QEntry := []
  acc : SMap (BitVec 32) := []
  accPoison : List Nat := []
  cstore : SMap (BitVec 128) := []
  cstoreSrc : SMap Nat := []
  sp : List Host.Cell := []
  spPoison : List Nat := []
  mask : List Host.Cell := []
  mxd : SMap (Option Nat) := []
  fifo : List Byte := []
  gidx : Nat := 0
  rbuf : SMap Byte := []
  bpa : SMap Word := []
  bpc : SMap Word := []
  bpoolA : Word := 0
  bpoolN : BitVec 16 := 0
  poolA : Word := 0
  poolN : BitVec 16 := 0
  point : Option Point := none
  acts : List Activation := []
  burst : Bool := false
  alt : Bool := false
  tags : List AttTag := []
  tagCount : BitVec 16 := 0
  l1 : Cache := {}
  icache : Cache := {}
  wcb : List (Nat × SMap WcByte) := []
  corrected : Nat := 0
  irqs : List (Nat × Nat) := []
  sig : Bool := false
  sigv : Word := 0
  freezeReq : Bool := false
  suspReq : Bool := false
  restore : Option Cr := none
  deriving DecidableEq, Repr

/-- An installed trap handler (R190): entry, code range and data range, and the partition that installed it. -/
structure Handler where
  entry : Nat
  cbase : Nat
  clen : Nat
  dbase : Nat
  dlen : Nat
  ptag : Nat
  deriving DecidableEq, Repr

/-- A cached translation (R148): the page's base and size, the leaf, its partition, whether it is pinned (R149). -/
structure Tlb where
  ptag : Nat
  base : Nat
  size : Nat
  leaf : Nat
  pinned : Bool := false
  deriving DecidableEq, Repr

/-- A pipe of a gang (R364, R365). -/
structure Pipe where
  gang : Nat
  l : LKey
  slots : Nat
  size : Nat
  off : Nat
  prod : Nat
  cons : Nat
  head : BitVec 32 := 0
  tail : BitVec 32 := 0
  deriving DecidableEq, Repr

/-- A gang's hold of free cores (R111). -/
structure Hold where
  gang : Nat
  l : LKey
  cores : List Nat
  failures : Nat := 0
  deriving DecidableEq, Repr

/-- One cluster. -/
structure Cluster where
  clhnd : BitVec 8 := 0
  handlers : SMap Handler := []
  tlb : List Tlb := []
  ready : List Ready := []
  overflow : List Ready := []
  hold : Option Hold := none
  pipes : SMap Pipe := []
  deriving DecidableEq, Repr

/-- A launch that the tracker of a die holds (R105, R106, R117, R118); `zero`: an indirect launch whose count is 0 (R119); `bad`: the
DETAIL of a check that failed after the enqueue; `drainFor`: the launches for whose sake it drains (R114); `evicted`: saved and
without a tracker entry (R116); `counts`: COUNT of the rows of its window (R106); `waits`: the addresses of its WAITING tasks (R103);
`enq`: its place in the order of all enqueues (R114). `words` is the launch record's sixteen words. -/
structure Launch where
  words : List Word
  released : Bool := false
  counts : SMap Nat := []
  ooo : List Nat := []
  base : Nat := 0
  done : Nat := 0
  fired : List Nat := []
  ended : List (Nat × Nat) := []
  frames : List (Nat × Nat) := []
  reserved : List Nat := []
  pipes : List Nat := []
  pred : Option LKey := none
  crs : List Cr := []
  tasks : Nat := 0
  waits : List Nat := []
  saved : Bool := false
  drainFor : List LKey := []
  preempting : Bool := false
  preemptBy : Option LKey := none
  evicted : Bool := false
  zero : Bool := false
  nfault : Nat := 0
  ndrop : Nat := 0
  fcause : Nat := 0
  fpoint : Nat := 0
  nslip : Nat := 0
  npreempt : Nat := 0
  firstTick : Option Nat := none
  countVa : Option Nat := none
  dlDone : Bool := false
  enq : Nat := 0
  bad : Option Nat := none
  deriving DecidableEq, Repr

/-- A dirty byte of an L2 (R155): a store of the die that has not been written back, with its line's PTAG and, where a context stored
it, the core, context and stream. -/
structure L2Byte where
  val : Byte
  ptag : Nat
  src : Option (Nat × Nat × Nat) := none
  deriving DecidableEq, Repr

/-- A command stream (R83, R84, R113): its SCB, the slot that it holds, HEAD, TAIL, BASE and SIZE as its core has them once it is loaded;
`due`: it is enabled anew once it has left its slot; `leaving`: its quantum is over. A PF stream has part 16. -/
structure Strm where
  part : Nat
  j : Nat
  scb : Nat := 0
  slot : Option Nat := none
  loaded : Bool := false
  parked : Bool := false
  stopped : Bool := false
  head : Nat := 0
  tail : Nat := 0
  base : Nat := 0
  size : Nat := 4096
  sstat : Nat := 0
  due : Bool := false
  leaving : Bool := false
  deriving DecidableEq, Repr

/-- One compute die. -/
structure Die where
  launches : SMap Launch := []
  pending : List (LKey × Launch) := []
  nextGang : Nat := 1
  l2 : SMap L2Byte := []
  clean : Clean := {}
  monitors : List Monitor := []
  streams : List Strm := []
  nextStream : SMap Nat := []
  mhz : Nat := 1800
  deriving DecidableEq, Repr

/-- A router (R25-R33, R42-R48): slot tables keyed bank * 256 + slot, FSC, pairing windows, held operations,
combine records, transactions discarded by an uncorrectable error. -/
structure Router where
  slots : SMap (BitVec 256) := []
  actBank : Bool := false
  swapTick : Option Nat := none
  comben : Bool := true
  pairen : Bool := true
  degraded : Bool := false
  drops : Nat := 0
  pwinLo : Word := 0
  pwinHi : Word := 0
  held : List (Txn × Nat) := []
  combine : List (Nat × Txn × List Constituent) := []
  deriving DecidableEq, Repr

/-- A running checkpoint (R213-R216): its CKD's address, partition, die, generation and place in the replicas, the region at
the buddy, the VA pages of the owned chunks in order, those copied with their CRC states, the writes that are out, whether
one failed, and whether the commit record is on its way. -/
structure Ckpt where
  id : Nat
  ckdVa : Nat
  ptag : Nat
  die : Nat
  gen : Nat
  nrep : Nat
  ridx : Nat
  bpkg : Nat
  region : Nat
  nchunk : Nat
  chunks : List Nat
  copied : List Nat := []
  crc : List (Nat × Nat) := []
  tick : Nat := 0
  sending : Nat := 0
  failed : Bool := false
  committing : Bool := false
  deriving DecidableEq, Repr

/-- Partition descriptor and the partition's own registers (R82, R121, R138, R194). -/
structure Part where
  clmask : BitVec 20 := 0
  prot : Bool := false
  en : Bool := false
  state : Nat := 0
  stopFire : Bool := false
  err : Bool := false
  hbmgb : Nat := 0
  nslots : Nat := 0
  root : Nat := 0
  hldrop : Nat := 0
  filtdrop : Nat := 0
  rngseed : Word := 0
  drainth : Nat := 100
  ageq : Nat := 100
  dlen : Bool := false
  wdlim : Nat := 0
  frzn : Nat := 0
  frzbase : Nat := 0
  frzUsed : List Nat := []
  mchk : Bool := false
  fenced : Bool := false
  resetKeepEn : Bool := true
  enWait : Bool := false
  streams : SMap Word := []
  bar2 : Word := 0
  bar2log : List Nat := []
  msixMask : Word := 0
  msixPend : Word := 0
  msixTab : SMap (Word × Word) := []
  bar2Lg : Nat := 30
  deriving DecidableEq, Repr

/-- A PMT replica (R51, R54, R422): the installed image and, at the coordinator and the deputy, the committed one. -/
structure Pmt where
  image : List Byte
  committed : Option (List Byte) := none
  deriving DecidableEq, Repr

/-- A node buffer of a merge unit (R49): the child that waits, with the reply triple, TAG and GEN it came with. -/
structure NodeBuf where
  seqid : Nat
  node : Nat
  tag : Nat
  gen : Nat
  reply : Nat
  side : Nat
  stream : Nat
  ptag : Nat
  record : List Byte
  deriving DecidableEq, Repr

/-- A link port (R12, R14, R22, R24, R29): the lane that the spare carries, the failing lane that waits for a swap, half rate, whether its
peer is there, its replays, and the flight time F of its status. -/
structure Port where
  lane : Option Nat := none
  swap : Option Nat := none
  half : Bool := false
  up : Bool := true
  replays : Nat := 0
  flight : Nat := 0
  deriving DecidableEq, Repr

/-- A request that waits for its answer at its source (R38): its serial number and how often it was resent. -/
structure Outst where
  uid : Nat
  txn : Txn
  resends : Nat := 0
  deriving DecidableEq, Repr

/-- An append or mirror that an NMA unit has begun (R59, R72): the request, the position's address and record, the page it
is mapping (its level-0 entry is absent), the POOL's type and class, and what the record's stripe says of its buddy. -/
structure Append where
  id : Nat
  txn : Txn
  va : Nat
  record : List Byte
  mapping : Bool := false
  pool : Tgt := .mmio 0
  oclass : Nat := 0
  buddy : Option (Nat × Nat) := none
  deriving DecidableEq, Repr

/-- A PMTSET that fetches its image, or a PMTREAD that writes one (R54, R60): the accesses still out, the pieces that have
come, and the first status that was not OK. -/
structure Fetch where
  id : Nat
  txn : Txn
  left : Nat
  parts : List (Nat × List Byte) := []
  status : Nat := 0
  deriving DecidableEq, Repr

/-- What the sideband controller keeps (R94): one log, newest last, and the firmware images. -/
inductive SmcRec where
  | fabric (router : Nat) (what : Nat)
  | trap (part core ctx cause : Nat)
  | launch (part lid what : Nat)
  | slip (part lid deadline count : Nat)
  | flr (part step : Nat)
  | mchk (part core cause : Nat)
  | debug (core code : Nat) (v : Word)
  | swap (core done : Nat)
  | lane (port what : Nat)
  | corrected (what idx : Nat)
  | signature (core : Nat) (lead trail : Word)
  | poison (pa : Nat)
  | drop (part : Nat) (lid : Nat)
  | thermal (what : Nat)
  | link (what : Nat)
  | query (seqid : Nat)
  deriving DecidableEq, Repr

/-- What the package tells the outside: fabric transactions for other packages, host writes, MSI-X messages, answers
to host and SMC requests. One for another domain leaves in a transport header with the domain and package id and the flow's sequence
number (R50). -/
inductive Out where
  | txn (t : Txn)
  | eth (dom pkg seq : Nat) (t : Txn)
  | hostWrite (part addr : Nat) (bytes : List Byte) (relaxed : Bool)
  | hostRead (part addr len : Nat) (tag : Nat)
  | msix (part vec : Nat)
  | completion (status : Nat) (bytes : List Byte)
  | cfg (status : Nat) (v : Nat)
  | smc (words : List Nat)
  | logs (l : List SmcRec)
  | dump (core : Nat) (c : Core)
  | dumpRouters (r : SMap Router)
  | dumpSched (clusters : SMap Cluster) (dies : SMap Die)
  deriving DecidableEq, Repr

/-- A launch whose deadline stopped the frame counter (R112): its deadline tick, its slip count, and whether it has retired. -/
structure Stopper where
  l : LKey
  deadline : Nat
  count : Nat := 0
  retired : Bool := false
  deriving DecidableEq, Repr

/-- A circuit of a container (R232, R233): its source endpoint, its stream mask, and its hops: logical package, die code, slot and
slot-table entry. -/
structure Circuit where
  src : Ep
  mask : Nat
  hops : List (Nat × Nat × Nat × Nat) := []
  deriving DecidableEq, Repr

/-- What the loader path has put in place for a kernel of a partition (R136, R138, R227, R229, R233): its entry, ft and ct contents, its
control store with the address of its image, the circuits that its launches name, the physical packages of the logical ones, and the
address and count of the buffer records of its container. -/
structure KernelImage where
  ptag : Nat
  entry : Nat
  ft : List (BitVec 16) := []
  ct : List (BitVec 32) := []
  cstore : List (BitVec 128) := []
  src : Nat := 0
  circuits : List Circuit := []
  pkgs : List (Nat × Nat) := []
  pool : Option (Nat × Nat) := none
  deriving DecidableEq, Repr

/-- Package-wide registers and controls (R11-R24, R92, R109, R121). `heat` and `current`: the clocks that the thermal and the current
limits ask of a die, by die code, 1800 where they ask for none lower (R17 to R19). -/
structure Pkg where
  ticks : Nat := 0
  tickNs : Nat := 1000
  nextTickNs : Option Nat := none
  stoppers : List Stopper := []
  svc : Nat := 0
  linkLoss : Bool := false
  linkUp : Bool := true
  pkgId : Nat := 0
  domId : Nat := 0
  numVfs : Nat := 0
  vfEnable : Bool := false
  capWatts : Nat := 2800
  heat : SMap Nat := []
  current : SMap Nat := []
  trip : Bool := false
  railDown : List Nat := []
  spareCores : List (Nat × Nat) := []
  swapPending : List (Nat × Nat) := []
  swapReady : Bool := false
  spareWays : List (Nat × Nat) := []
  spareRows : List (Nat × Nat) := []
  spareChannels : List Nat := []
  pendingSpares : List SpareCmd := []
  firmware : List (Nat × Bool) := []
  offClusters : List Nat := []
  offStacks : List Nat := []
  newImages : List (Nat × Bool) := []
  pfReset : Bool := false
  stopNext : Bool := false
  deriving DecidableEq, Repr

/-- The machine (INVENTORY.md, ## State). Core keys: 40 * die + logical index; slot n of the stream core of die d is
160 + d + 4 * n. Cluster keys 5 * die + c. Router keys: 0-3 compute dies, 4-11 cache dies, 12 and 13 the package switches. -/
structure State where
  cores : SMap Core := []
  segs : SMap Seg := []
  clusters : SMap Cluster := []
  dies : SMap Die := []
  parts : SMap Part := []
  pkg : Pkg := {}
  hbm : List Host.Cell := []
  hbmPoison : List Nat := []
  llc : SMap Byte := []
  xlc : SMap (List Tlb) := []
  owner : SMap Byte := []
  arenas : SMap (BitVec 256) := []
  pmts : SMap Pmt := []
  merges : SMap (List NodeBuf) := []
  appends : List Append := []
  fetches : List Fetch := []
  ckpts : List Ckpt := []
  kernels : List KernelImage := []
  routers : SMap Router := []
  ports : SMap Port := []
  circuits : List (Ep × Nat) := []
  failedPorts : List (Nat × Nat) := []
  outPorts : SMap Nat := []
  inPorts : SMap Nat := []
  ethSeq : SMap Nat := []
  filters : SMap (Word × Word) := []
  atc : List (Nat × Nat) := []
  wire : List (Nat × Txn) := []
  outst : List Outst := []
  reqs : List Req := []
  seqs : SMap Nat := []
  crcWait : SMap Nat := []
  nextTag : Nat := 0
  nextId : Nat := 0
  smcLog : List SmcRec := []
  out : List Out := []
  inbox : List Instr := []
  hostq : List Bar2Acc := []
  cur : Nat := 0
  curCx : Nat := 0
  bnd : Bnd := {}
  free : Nat := 0
  deriving DecidableEq, Repr

/-- The machine right after package reset (R137, the Reset columns, R91, R93; INVENTORY.md, ## State): every register
at the value the spec gives, and at the zero or default that notes/assumptions 2-4 name where it gives none. -/
def State.reset : State := {}

end Sys2Proof.Machine
end

