-- ==== Sys2Proof/Machine/Access.lean ====
section
/-! DEFINITION. Reading and writing the parts of the state: cores, contexts, registers, ports, dies, partitions. Every
register has one home and is read and written here (R129, R137). -/

namespace Sys2Proof.Machine

/-- The free value of R1, R146, R154 and R155 at this step; `salt` tells apart the choices of one step (log 6). -/
def State.choose (s : State) (salt : Nat) : Bool := Config.freeBit (s.free * 4096 + salt)

def State.core (s : State) (k : Nat) : Core := SMap.get {} s.cores k
def State.setCore (s : State) (k : Nat) (c : Core) : State := { s with cores := SMap.put s.cores k c }
def State.updCore (s : State) (k : Nat) (f : Core → Core) : State := s.setCore k (f (s.core k))

/-- Context `i` of a core (R128). -/
def Core.cx (c : Core) (i : Nat) : Cx :=
  match i with
  | 0 => c.cx0 | 1 => c.cx1 | 2 => c.cx2 | _ => c.cx3
def Core.setCx (c : Core) (i : Nat) (x : Cx) : Core :=
  match i with
  | 0 => { c with cx0 := x } | 1 => { c with cx1 := x } | 2 => { c with cx2 := x } | _ => { c with cx3 := x }

def State.cx (s : State) (k i : Nat) : Cx := (s.core k).cx i
def State.setCx (s : State) (k i : Nat) (x : Cx) : State := s.updCore k fun c => c.setCx i x
def State.updCx (s : State) (k i : Nat) (f : Cx → Cx) : State := s.setCx k i (f (s.cx k i))
/-- The context that is acting, and its core. -/
def State.me (s : State) : Cx := s.cx s.cur s.curCx
def State.updMe (s : State) (f : Cx → Cx) : State := s.updCx s.cur s.curCx f
def State.myCore (s : State) : Core := s.core s.cur
def State.updMyCore (s : State) (f : Core → Core) : State := s.updCore s.cur f

/-- The die of a core key; the stream core of die d has one key per stream slot n, 160 + d + 4 * n (R84, R113). -/
def dieOf (k : Nat) : Nat := if k < 160 then k / 40 else (k - 160) % 4
/-- Cluster 5d + c of a core key (R139); from 20 on for a stream slot, whose handlers are the stream's own (R195). -/
def clusterOf (k : Nat) : Nat := if k < 160 then 5 * (k / 40) + k % 40 / 8 else k - 140
/-- Whether a die is in service (R93): every die in full service, die 0 in reduced service. -/
def State.serves (s : State) (die : Nat) : Bool := !s.pkg.trip && (s.pkg.svc == 2 || (s.pkg.svc == 1 && die == 0))
def isStream (k : Nat) : Bool := decide (160 ≤ k)
/-- Core `j` (0-7) of cluster `cl`. -/
def coreOfCluster (cl j : Nat) : Nat := 40 * (cl / 5) + 8 * (cl % 5) + j

def State.cluster (s : State) (k : Nat) : Cluster := SMap.get {} s.clusters k
def State.updCluster (s : State) (k : Nat) (f : Cluster → Cluster) : State :=
  { s with clusters := SMap.put s.clusters k (f (s.cluster k)) }
def State.die (s : State) (k : Nat) : Die := SMap.get {} s.dies k
def State.updDie (s : State) (k : Nat) (f : Die → Die) : State := { s with dies := SMap.put s.dies k (f (s.die k)) }
def State.part (s : State) (k : Nat) : Part := SMap.get {} s.parts k
def State.updPart (s : State) (k : Nat) (f : Part → Part) : State :=
  { s with parts := SMap.put s.parts k (f (s.part k)) }
def State.router (s : State) (k : Nat) : Router := SMap.get {} s.routers k
def State.updRouter (s : State) (k : Nat) (f : Router → Router) : State :=
  { s with routers := SMap.put s.routers k (f (s.router k)) }
def State.port (s : State) (k : Nat) : Port := SMap.get {} s.ports k
def State.updPort (s : State) (k : Nat) (f : Port → Port) : State :=
  { s with ports := SMap.put s.ports k (f (s.port k)) }
def State.pmt (s : State) (k : Nat) : Option Pmt := SMap.find s.pmts k
def State.log (s : State) (r : SmcRec) : State := { s with smcLog := s.smcLog ++ [r] }
def State.tell (s : State) (o : Out) : State := { s with out := s.out ++ [o] }

/-- The key of a stream's core state, by its function's partition and index, and the stream of a key (R84, R113). What a stream keeps
without a slot is the state under its key. -/
def streamKey (p j : Nat) : Nat := 160 + j % 4 + 4 * (16 * p + j / 4)
def Strm.key (t : Strm) : Nat := streamKey t.part t.j
def State.stream (s : State) (k : Nat) : Option Strm := (s.die (dieOf k)).streams.find? fun t => t.key == k
def State.updStream (s : State) (k : Nat) (f : Strm → Strm) : State :=
  s.updDie (dieOf k) fun d => { d with streams := d.streams.map fun t => if t.key = k then f t else t }
/-- Keys of issuers that are no cores: the points that have ended, and the L2 of a die. -/
def goneCore : Nat := 4096
def l2Core (die : Nat) : Nat := 4100 + die

/-- The partition that a PF stream acts on with VFs there, which "the PF names" (R81) by no register: a free value (log 90). -/
def pfPart (j : Nat) : Nat := (Config.freeWord (3000 + j)).toNat % 16
/-- The partition tag that a stream's accesses carry (R81). -/
def Strm.ptag (t : Strm) : Nat := if t.part = 16 then pfPart t.j else t.part

/-- The first partition, from `n` down, that is enabled and owns a cluster (R82). -/
def findPart (s : State) (cl : Nat) : Nat → Option Nat
  | 0 => none
  | n + 1 => if (s.part n).en && (s.part n).clmask.getLsbD cl then some n else findPart s cl n

/-- The partition tag a core's accesses carry (R81): its cluster's partition, or its stream's function. A PF stream is
held as partition 16. -/
def State.ptagOf (s : State) (k : Nat) : Nat :=
  if k < 160 then (findPart s (clusterOf k) 16).getD 0
  else match s.stream k with
    | some t => t.ptag
    | none => 0

/-- Before full service only the PF is there (R93). -/
def State.fnServes (s : State) (p : Nat) : Bool := s.pkg.svc == 2 || p == 16 || s.pkg.numVfs == 0
/-- A privileged path: the PF's stream cores (R31, R382). With NumVFs = 0 partition 0 is the PF's own (R81). -/
def State.privileged (s : State) (k : Nat) : Bool :=
  isStream k && match s.stream k with
    | some t => t.part == 16 || s.pkg.numVfs == 0
    | none => false

/-- Registers (R137): s0 reads 0, g0 reads 1, and writes to them are discarded. -/
def Cx.getS (c : Cx) (i : Fin 64) : Word := if i.val = 0 then 0 else SMap.get 0 c.s i.val
def Cx.setS (c : Cx) (i : Fin 64) (v : Word) : Cx := if i.val = 0 then c else { c with s := SMap.set 0 c.s i.val v }
def Cx.getG (c : Cx) (i : Fin 8) : Bool := if i.val = 0 then true else SMap.get false c.g i.val
def Cx.setG (c : Cx) (i : Fin 8) (v : Bool) : Cx :=
  if i.val = 0 then c else { c with g := SMap.set false c.g i.val v }
def Cx.getK (c : Cx) (i : Fin 16) : Word := SMap.get 0 c.k i.val
def Cx.setK (c : Cx) (i : Fin 16) (v : Word) : Cx := { c with k := SMap.set 0 c.k i.val v }
def Cx.getA (c : Cx) (i : Fin 16) : Word := SMap.get 0 c.a i.val
def Cx.setA (c : Cx) (i : Fin 16) (v : Word) : Cx := { c with a := SMap.set 0 c.a i.val v }
def Cx.getLc (c : Cx) (i : Fin 4) : BitVec 32 := SMap.get 0 c.lc i.val
def Cx.setLc (c : Cx) (i : Fin 4) (v : BitVec 32) : Cx := { c with lc := SMap.set 0 c.lc i.val v }
def Cx.getCb (c : Cx) (i : Fin 16) : BitVec 32 := SMap.get 0 c.cb i.val
def Cx.setCb (c : Cx) (i : Fin 16) (v : BitVec 32) : Cx := { c with cb := SMap.set 0 c.cb i.val v }
def Cx.loop (c : Cx) (i : Nat) : Loop := SMap.get {} c.loops i
def Cx.setLoop (c : Cx) (i : Nat) (l : Loop) : Cx := { c with loops := SMap.set {} c.loops i l }
def Cx.argv (c : Cx) (i : Nat) : Word := SMap.get 0 c.arg i

def Core.getV (c : Core) (i : Fin 64) : Vec := SMap.get 0 c.v i.val
def Core.setV (c : Core) (i : Fin 64) (v : Vec) : Core := { c with v := SMap.set 0 c.v i.val v }
def Core.getM (c : Core) (i : Fin 16) : Val := SMap.get 0 c.m i.val
def Core.setM (c : Core) (i : Fin 16) (v : Val) : Core := { c with m := SMap.set 0 c.m i.val v }
def Core.getFt (c : Core) (i : Fin 16) : BitVec 16 := SMap.get 0 c.ft i.val
def Core.setFt (c : Core) (i : Fin 16) (v : BitVec 16) : Core := { c with ft := SMap.set 0 c.ft i.val v }

/-- The reset value of entry `e` of a ct table: nibble k = 1 + 2 * bit_k(e) (R137). -/
def ctDefault (e : Nat) : BitVec 32 :=
  BitVec.ofNat 32 ((List.range 8).foldl (fun x k => x + (1 + 2 * bits e k k) * 16 ^ k) 0)

/-- Entry `e` of codebook `i` (R137). The store holds each entry xored with its reset value, so that its default is 0. -/
def Core.getCt (c : Core) (i : Fin 4) (e : Nat) : BitVec 32 := SMap.get 0 c.ct (i.val * 256 + e) ^^^ ctDefault e
def Core.setCt (c : Core) (i : Fin 4) (e : Nat) (v : BitVec 32) : Core :=
  { c with ct := SMap.set 0 c.ct (i.val * 256 + e) (v ^^^ ctDefault e) }

/-- Accumulator memory (R158): element `e` = 32 * row + column of a slot. -/
def Core.getAcc (c : Core) (slot e : Nat) : BitVec 32 := SMap.get 0 c.acc (slot * 1024 + e)
def Core.setAccRun (c : Core) (slot e : Nat) (vs : List (BitVec 32)) : Core :=
  { c with acc := SMap.setRun 0 c.acc (slot * 1024 + e) vs }

/-- Units whose ports and bypass registers belong to the context (R122 Table 1, R129), by unit id. -/
def unitPerCtx (u : Nat) : Bool := decide (u < 9) || decide (0xF ≤ u)

/-- An operand port of the acting context (R123, R129). -/
def State.opPort (s : State) (u : FUnit) (p : Nat) : Val :=
  if unitPerCtx u.id then SMap.get 0 s.me.ports (u.id * 4 + p) else SMap.get 0 s.myCore.ports (u.id * 4 + p)
def State.setOpPort (s : State) (u : FUnit) (p : Nat) (v : Val) : State :=
  if unitPerCtx u.id then s.updMe fun c => { c with ports := SMap.set 0 c.ports (u.id * 4 + p) v }
  else s.updMyCore fun c => { c with ports := SMap.set 0 c.ports (u.id * 4 + p) v }

/-- A bypass register as context `i` of core `k` sees it, by unit id (R124, R129). -/
def State.bypAt (s : State) (k i u b : Nat) : Val :=
  if unitPerCtx u then SMap.get 0 (s.cx k i).byp (u * 4 + b) else SMap.get 0 (s.core k).byp (u * 4 + b)
def State.setBypAt (s : State) (k i u b : Nat) (v : Val) : State :=
  if unitPerCtx u then s.updCx k i fun c => { c with byp := SMap.set 0 c.byp (u * 4 + b) v }
  else s.updCore k fun c => { c with byp := SMap.set 0 c.byp (u * 4 + b) v }

/-- The queued results that target a bypass register and that no join has read (R125). -/
def State.joinsAt (s : State) (k i u b : Nat) : List QRes :=
  if unitPerCtx u then SMap.get [] (s.cx k i).joins (u * 4 + b) else SMap.get [] (s.core k).joins (u * 4 + b)
def State.setJoinsAt (s : State) (k i u b : Nat) (l : List QRes) : State :=
  if unitPerCtx u then s.updCx k i fun c => { c with joins := SMap.set [] c.joins (u * 4 + b) l }
  else s.updCore k fun c => { c with joins := SMap.set [] c.joins (u * 4 + b) l }

/-- A fresh identifier of the model's own for a queue entry or request. -/
def State.fresh (s : State) : Nat × State := (s.nextId, { s with nextId := s.nextId + 1 })

def wordVal (w : Word) : Val := w.setWidth 2048
def natVal (n : Nat) : Val := BitVec.ofNat 2048 n
def valWord (v : Val) : Word := v.setWidth 64
def boolVal (b : Bool) : Val := if b then 1 else 0

end Sys2Proof.Machine
end

