-- ==== Sys2Proof/Machine/Memory.lean ====
section
/-! DEFINITION. Memory: translation (R141-R151), page owners (R147), the LLC, L2 and L1 (R153-R157), scratchpads (R152),
poison marks (R211). Every memory is a byte list in canonical form; every access goes through here. -/

namespace Sys2Proof.Machine

/-- Bytes of HBM at the LLC (R156): a physical address below 512 GiB. -/
def State.hbmRead (s : State) (pa n : Nat) : List Byte := SMap.run 0 s.hbm pa n

/-- An HBM stack serves: it has not left service, and before full service it is stack 0 or 1 (R12, R93). -/
def State.stackUp (s : State) (st : Nat) : Bool := !s.pkg.offStacks.contains st && (s.pkg.svc % 2 == 0 || decide (st < 2))
/-- The page-owner check of R147: OWNED and the PTAG agree, for the page of a physical HBM address. Bytes of a stack that does not serve
belong to nobody (log 85). -/
def State.ownerOk (s : State) (ptag pa : Nat) : Bool :=
  decide (pa < 2 ^ 39) && bits (SMap.get 0 s.owner (pa / 65536)).toNat 4 0 == 16 + ptag % 16 && s.stackUp (pa / 2 ^ 36)

/-- Poison marks (R211) of the 16-byte units that `n` bytes at `a` touch. -/
def poisoned (marks : List Nat) (a n : Nat) : Bool :=
  marks.any fun u => decide (a / 16 ≤ u) && decide (u * 16 < a + n)
/-- A write of `n` bytes at `a` clears the marks of the units it covers whole (R211). -/
def unpoison (marks : List Nat) (a n : Nat) : List Nat :=
  marks.filter fun u => !(decide (a ≤ u * 16) && decide (u * 16 + 16 ≤ a + n))

/-! ### Caches -/

/-- The line number with its PTAG (R155). -/
def lineKey (pa ptag : Nat) : Nat := pa / 128 * 16 + ptag % 16
/-- The lines that `n` bytes at an address touch, by their first bytes. -/
def linesOf (pa n : Nat) : List Nat := (List.range ((pa % 128 + n + 127) / 128)).map fun j => pa / 128 * 128 + 128 * j
/-- Whether two addresses lie in one line. -/
def sameLine (a b : Nat) : Bool := a / 128 == b / 128

def Cache.has (c : Cache) (pa : Nat) : Bool := c.lines.any fun l => l / 16 == pa / 128
/-- A line is filled, for the first time or again: what its bytes show now is among what the cache may hold (R154). -/
def Cache.fill (c : Cache) (pa ptag : Nat) : Cache :=
  { lines := if c.has pa then c.lines else lineKey pa ptag :: c.lines,
    old := c.old.map fun x => if sameLine x.1 pa then (x.1, (true, x.2.2)) else x }
/-- A byte that shows `v` is about to show another value: a line filled since it last changed keeps it (R154). -/
def Cache.note (c : Cache) (pa : Nat) (v : Byte) : Cache :=
  if c.has pa then
    let e := SMap.get (true, []) c.old pa
    { c with old := SMap.put c.old pa (false, if e.1 then v :: e.2 else e.2) }
  else c
/-- Drop a line. -/
def Cache.drop (c : Cache) (pa : Nat) : Cache :=
  { lines := c.lines.filter fun l => !(l / 16 == pa / 128), old := SMap.delRun c.old (pa / 128 * 128) 128 }

/-- Drop the lines within `n` bytes, for a range of many lines. -/
def Cache.dropWithin (c : Cache) (pa n : Nat) : Cache :=
  { lines := c.lines.filter fun l => !(decide (pa / 128 ≤ l / 16) && decide (l / 16 < (pa + n) / 128)), old := SMap.delRun c.old pa n }

def Clean.has (c : Clean) (pa : Nat) : Bool := c.lines.any fun l => l / 16 == pa / 128
/-- Fill a line of an L2 (R155); one that is there stays as it is. -/
def Clean.fill (c : Clean) (pa ptag : Nat) : Clean := if c.has pa then c else { c with lines := lineKey pa ptag :: c.lines }
/-- Drop a line. -/
def Clean.drop (c : Clean) (pa : Nat) : Clean :=
  { lines := c.lines.filter fun l => !(l / 16 == pa / 128), copy := SMap.delRun c.copy (pa / 128 * 128) 128 }
/-- Drop every line of a partition (R87). -/
def Clean.dropPtag (c : Clean) (ptag : Nat) : Clean :=
  { lines := c.lines.filter fun l => !(l % 16 == ptag),
    copy := c.copy.filter fun x => !(c.lines.any fun l => l / 16 == x.1 / 128 && l % 16 == ptag) }

/-- The key of a REMOTE byte in an L2 or L1: packages above the own one's 52-bit space; and its package and address. -/
def remoteKey (pkg pa : Nat) : Nat := (pkg + 1) * 2 ^ 52 + pa
def keyPkg (key : Nat) : Nat := key / 2 ^ 52 - 1
def keyPa (key : Nat) : Nat := key % 2 ^ 52

/-- What a die's L2 holds of a byte (R155): a dirty store of its own, or the value that its line was filled with where the home has
changed since. Of a REMOTE byte this is all it can show. -/
def State.l2Held (s : State) (die pa : Nat) : Option Byte :=
  match SMap.find (s.die die).l2 pa with
  | some b => some b.val
  | none => SMap.find (s.die die).clean.copy pa
/-- The one copy of a byte that every agent of a die sees (R155): the L2's, else the LLC's. -/
def State.viewByte (s : State) (die pa : Nat) : Byte := (s.l2Held die pa).getD (SMap.get 0 s.hbm pa)
def State.viewRead (s : State) (die pa : Nat) : Nat → List Byte
  | 0 => []
  | n + 1 => s.viewByte die pa :: s.viewRead die (pa + 1) n

/-- The values that R154 lets an L1 or instruction cache return of a byte: what the L2 shows, or what a filled line holds. -/
def State.cachedVals (s : State) (c : Cache) (die pa : Nat) : List Byte :=
  (if pa < 2 ^ 52 then [s.viewByte die pa] else (s.l2Held die pa).toList) ++ (SMap.get (true, []) c.old pa).2
/-- The one that a load or fetch returns, a free choice where there are several; `salt` tells apart the accesses of one step (log 6). -/
def State.cachedByte (s : State) (c : Cache) (die pa salt : Nat) : Option Byte :=
  match s.cachedVals c die pa with
  | [] => none
  | [v] => some v
  | l => l[Config.freeAt s.free (pa * 1024 + salt) % l.length]?
def State.cachedRead (s : State) (c : Cache) (die pa : Nat) : Nat → List Byte
  | 0 => []
  | n + 1 => (s.cachedByte c die pa 1023).getD 0 :: s.cachedRead c die (pa + 1) n

/-- The L1s and instruction caches of a die may keep a value that a byte of a filled line has shown (R154). -/
def noteCores (die pa : Nat) (v : Byte) (m : SMap Core) : SMap Core :=
  m.map fun x => if dieOf x.1 = die then (x.1, { x.2 with l1 := x.2.l1.note pa v, icache := x.2.icache.note pa v }) else x

/-- A byte is about to change at its home. A die whose L2 has filled its line goes on showing what it shows (R155); the first-level
caches of another may keep it (R154). -/
def State.noteDie (s : State) (pa die : Nat) : State :=
  if (s.l2Held die pa).isSome then s
  else if (s.die die).clean.has pa then
    s.updDie die fun d => { d with clean := { d.clean with copy := SMap.put d.clean.copy pa (SMap.get 0 s.hbm pa) } }
  else { s with cores := noteCores die pa (SMap.get 0 s.hbm pa) s.cores }
def State.noteRun (s : State) (pa : Nat) : Nat → State
  | 0 => s
  | n + 1 => ([0, 1, 2, 3].foldl (fun s d => s.noteDie pa d) s).noteRun (pa + 1) n

/-- A clean line leaves a die's L2 (R155): the die sees the home again, and first-level caches may keep what it showed. -/
def State.evictLine (s : State) (die pa : Nat) : State :=
  if (s.die die).clean.has pa then
    { s with cores := ((s.die die).clean.copy.filter fun (x : Nat × Byte) => sameLine x.1 pa).foldl (fun m (x : Nat × Byte) => noteCores die x.1 x.2 m) s.cores }.updDie
      die fun d => { d with clean := d.clean.drop pa }
  else s
/-- The clean lines of `n` bytes leave. -/
def State.evictRun (s : State) (die pa n : Nat) : State := (linesOf pa n).foldl (fun s a => s.evictLine die a) s
/-- The clean lines within `n` bytes leave, for a range of many lines. -/
def State.evictWithin (s : State) (die pa n : Nat) : State :=
  ((s.die die).clean.lines.filter fun l => decide (pa / 128 ≤ l / 16) && decide (l / 16 < (pa + n) / 128)).foldl
    (fun (s : State) l => s.evictLine die (l / 16 * 128)) s
/-- Every clean line leaves: an acquire or drain of package scope or wider (R155, R170). -/
def State.evictAll (s : State) (die : Nat) : State :=
  { s with cores := (s.die die).clean.copy.foldl (fun m (x : Nat × Byte) => noteCores die x.1 x.2 m) s.cores }.updDie die fun d => { d with clean := {} }

/-- A store of a core makes the matching lines of its own L1 invalid (R154). -/
def State.dropL1 (s : State) (k pa n : Nat) : State :=
  s.updCore k fun c => { c with l1 := (linesOf pa n).foldl Cache.drop c.l1 }

/-- The first key of the scratchpads, above every REMOTE key, and the key of one of their bytes. -/
def spBase : Nat := 3 * 2 ^ 59
def spKey (q off : Nat) : Nat := spBase + q * 2 ^ 20 + off

/-- The key of a target, one number per location: HBM address, REMOTE key, or scratchpad. -/
def tgtKey : Tgt → Nat
  | .sp q off => spKey q off
  | .hbm pa _ => pa
  | .remote pkg pa _ => remoteKey pkg pa
  | .host pa _ _ => 2 ^ 62 + pa
  | .mmio pa => 2 ^ 61 + pa

/-- Who writes: a context of a core, the host through BAR2, or any other agent (R162). -/
inductive Writer where
  | cx (k i : Nat) | host | other
  deriving DecidableEq, Repr
/-- The core whose own L1 a write touches (R154). -/
def Writer.core : Writer → Option Nat
  | .cx k _ => some k
  | _ => none

/-- Monitors on the lines of `n` bytes at a location wake at a write of another agent (R376); a host write is noted (R177). -/
def State.wakeMons (s : State) (key n : Nat) (w : Writer) : State :=
  { s with dies := s.dies.map fun (d : Nat × Die) => (d.1, { d.2 with
      monitors := d.2.monitors.map fun (m : Monitor) =>
        let a := tgtKey m.tgt / 128
        if !m.polling && decide (key / 128 ≤ a) && decide (a ≤ (key + n - 1) / 128) && w ≠ .cx m.core m.ctx then
          { m with woken := true, host := m.host || w == .host }
        else m }) }

/-- The older byte that the HBM array holds under a dirty byte of the LLC (R87 step 4, R156): the byte it held when the LLC's copy
first became dirty. -/
def State.keepArray (s : State) (pa n : Nat) : SMap Byte :=
  SMap.below pa s.llc
    ++ ((List.range n).map fun j => (pa + j, (SMap.find s.llc (pa + j)).getD (SMap.get 0 s.hbm (pa + j)))) ++ SMap.above (pa + n) s.llc

/-- Bytes perform at the LLC in one step: caches keep what they may, monitors wake, and the marks of whole units go (R156, R211,
R376). -/
def State.hbmWrite (s : State) (pa : Nat) (bs : List Byte) (w : Writer := .other) : State :=
  let s := (s.noteRun pa bs.length).wakeMons pa bs.length w
  { s with hbm := SMap.setRun 0 s.hbm pa bs, llc := s.keepArray pa bs.length, hbmPoison := unpoison s.hbmPoison pa bs.length }

/-- `n` bytes at the LLC become 0: a write of zeros. -/
def State.hbmZero (s : State) (pa n : Nat) : State :=
  let xs := SMap.below (pa + n) (SMap.above pa s.hbm)
  let s := (xs.foldl (fun s (x : Nat × Byte) => s.noteRun x.1 1) s).wakeMons pa n .other
  { s with hbm := SMap.delRun s.hbm pa n, hbmPoison := unpoison s.hbmPoison pa n,
           llc := xs.foldl (fun (m : SMap Byte) x => if (SMap.find m x.1).isSome then m else SMap.put m x.1 x.2) s.llc }

/-- A store performs in a die's L2 (R155), which fills a line of HBM for it. -/
def State.l2Byte (s : State) (die pa : Nat) (b : L2Byte) : State :=
  let s := match (if pa < 2 ^ 52 then some (s.viewByte die pa) else s.l2Held die pa) with
    | some v => { s with cores := noteCores die pa v s.cores }
    | none => s
  s.updDie die fun d =>
    let c := if pa < 2 ^ 52 then d.clean.fill pa b.ptag else d.clean
    { d with l2 := SMap.put d.l2 pa b, clean := { c with copy := SMap.del c.copy pa } }
def State.l2Bytes (s : State) (die pa ptag : Nat) (src : Option (Nat × Nat × Nat)) : List Byte → State
  | [] => s
  | v :: t => (s.l2Byte die pa { val := v, ptag := ptag, src := src }).l2Bytes die (pa + 1) ptag src t
/-- Bytes perform in a die's L2; the marks of whole units go (R211). -/
def State.l2Write (s : State) (die pa ptag : Nat) (src : Option (Nat × Nat × Nat)) (w : Writer) (bs : List Byte) : State :=
  { (s.wakeMons pa bs.length w).l2Bytes die pa ptag src bs with
    hbmPoison := unpoison s.hbmPoison pa bs.length }

/-- A dirty byte of HBM performs at the LLC; its line stays filled (R155). -/
def State.backByte (s : State) (die : Nat) (x : Nat × L2Byte) : State :=
  let s := (s.noteRun x.1 1).wakeMons x.1 1 .other
  { s with hbm := SMap.set 0 s.hbm x.1 x.2.val, llc := s.keepArray x.1 1 }.updDie die fun d =>
    { d with l2 := SMap.del d.l2 x.1, clean := d.clean.fill x.1 x.2.ptag }
/-- Write back the local dirty bytes of a die that `p` picks (R155, R393). -/
def State.writeBack (s : State) (die : Nat) (p : Nat × L2Byte → Bool) : State :=
  (((s.die die).l2.filter fun x => decide (x.1 < 2 ^ 52) && p x)).foldl (fun s x => s.backByte die x) s

/-- Before an agent of another die, an NMA unit or the host reads or writes `n` bytes at the LLC, a die may evict the
dirty line that holds them (R155); the free value says whether it does. -/
def State.syncLines (s : State) (die pa n : Nat) : State :=
  [0, 1, 2, 3].foldl (fun s d =>
    if d ≠ die ∧ ((s.die d).l2.any fun x => decide (pa / 128 ≤ x.1 / 128) && decide (x.1 / 128 ≤ (pa + n) / 128)) ∧ s.choose (200 + d)
    then s.writeBack d fun x => decide (pa / 128 ≤ x.1 / 128) && decide (x.1 / 128 ≤ (pa + n) / 128)
    else s) s

/-- The write-back of the lines that hold `n` bytes of a die before an atomic or an object operation performs on them
at their home (R164). -/
def State.flushLines (s : State) (die pa n : Nat) : State :=
  s.writeBack die fun x => decide (pa / 128 ≤ x.1 / 128) && decide (x.1 / 128 ≤ (pa + n - 1) / 128)
/-- A die's own agents read or write `n` bytes at the LLC: its dirty lines perform first, those of others may, and it keeps no clean
copy, so that what it reads later is no older (R155, R164). -/
def State.toHome (s : State) (die pa n : Nat) : State := ((s.flushLines die pa n).syncLines die pa n).evictRun die pa n
/-- Bytes of HBM at the point of coherence of a scope (R163 Table 1), with the state that reading them leaves. -/
def State.readPoc (s : State) (die scope pa n : Nat) : State × List Byte :=
  if scope < 3 then (s, s.viewRead die pa n) else let s := s.toHome die pa n; (s, s.hbmRead pa n)

/-! ### Scratchpads -/

def spSize : Nat := 768 * 1024
def State.spRead (s : State) (k off n : Nat) : List Byte := SMap.run 0 (s.core k).sp off n
/-- Bytes perform in a scratchpad (R152). -/
def State.spWrite (s : State) (k off : Nat) (bs : List Byte) (w : Writer := .other) : State :=
  (s.wakeMons (spKey k off) bs.length w).updCore k fun c => { c with sp := SMap.setRun 0 c.sp off bs, spPoison := unpoison c.spPoison off bs.length }

/-- The logical core that a core index names (R205): the even one of a protected pair. -/
def State.logical (s : State) (k : Nat) : Nat :=
  if (s.part (s.ptagOf k)).prot then k - k % 2 else k

/-! ### Translation -/

/-- The kinds of access (R181: D2 of XLATE). -/
def accLoad : Nat := 0
def accStore : Nat := 1
def accAtomic : Nat := 2
def accFetch : Nat := 3

/-- What a translation gives: a target with its leaf (0 for a window) and page size, a miss that a walk must serve
(R148), or a fault with its cause and D1 (R145, R181). -/
inductive Xl where
  | ok (t : Tgt) (leaf size : Nat)
  | miss
  | fault (cause d1 : Nat)
  deriving DecidableEq, Repr

/-- Fields of a page-table entry (R144 Table 3). -/
def pteV (e : Nat) : Bool := bitOf e 0
def pteLeaf (e : Nat) : Bool := bitOf e 1
def pteW (e : Nat) : Bool := bitOf e 2
def pteX (e : Nat) : Bool := bitOf e 3
def ptePinned (e : Nat) : Bool := bitOf e 4
def pteSnap (e : Nat) : Bool := bitOf e 5
def pteMattr (e : Nat) : Nat := bits e 7 6
def pteAddr (e : Nat) : Nat := bits e 51 8 * 256
def pteType (e : Nat) : Nat := bits e 54 52
def pteTarget (e : Nat) : Nat := bits e 63 56

/-- The bytes a leaf at a level maps, and the index of an address at a level (R143 Table 2). -/
def pageSize (lvl : Nat) : Nat := match lvl with | 0 => 2 ^ 16 | 1 => 2 ^ 21 | _ => 2 ^ 30
def levelIndex (lvl va : Nat) : Nat := if lvl = 0 then bits va 20 16 else bits va (9 * lvl + 20) (9 * lvl + 12)

/-- A leaf that R145 calls malformed. -/
def badLeaf (lvl e : Nat) : Bool :=
  decide (3 ≤ lvl) || decide (5 ≤ pteType e) || pteMattr e == 3
  || (if pteType e = 1 then
        decide (lvl ≠ 0) || decide (11 < bits (pteAddr e) 19 16) || decide (39 < bits (pteTarget e) 5 0)
        || pteAddr e != bits (pteAddr e) 19 16 * 65536
      else
        pteAddr e % pageSize lvl != 0
        || (pteType e == 0 && decide (2 ^ 39 ≤ pteAddr e))
        || (pteType e == 4 && (decide (lvl ≠ 0) || !(decide (2 ^ 51 ≤ pteAddr e) && decide (pteAddr e < 2 ^ 51 + 2 ^ 32)))))

/-- A page-table entry as a walker reads it through the LLC (R148). -/
def State.pte (s : State) (pa : Nat) : Nat := leNat (s.hbmRead pa 8)

/-- The physical address of a table's entry for an address. -/
def entryPa (tbl lvl va : Nat) : Nat := tbl + 8 * levelIndex lvl va

/-- Walk the tables from a level down (R143-R145): the leaf's level, entry address and value, or the level and reason. -/
def State.walkFrom (s : State) (ptag va : Nat) : Nat → Nat → Except (Nat × Nat) (Nat × Nat × Nat)
  | 0, tbl =>
    let e := s.pte (entryPa tbl 0 va)
    if !s.ownerOk ptag tbl then .error (0, 5)
    else if !pteV e then .error (0, 1)
    else if !pteLeaf e || badLeaf 0 e then .error (0, 2)
    else .ok (0, entryPa tbl 0 va, e)
  | l + 1, tbl =>
    let e := s.pte (entryPa tbl (l + 1) va)
    if !s.ownerOk ptag tbl then .error (l + 1, 5)
    else if !pteV e then .error (l + 1, 1)
    else if pteLeaf e then
      if badLeaf (l + 1) e then .error (l + 1, 2) else .ok (l + 1, entryPa tbl (l + 1) va, e)
    else if 1 ≤ l ∧ bits e 11 8 ≠ 0 then .error (l + 1, 2)
    else s.walkFrom ptag va l (pteAddr e)

/-- The walk of an address of a partition from ROOT (R143). None is made beyond 57 bits or among the fixed windows (R141, R142). -/
def State.walk (s : State) (ptag va : Nat) : Except (Nat × Nat) (Nat × Nat × Nat) :=
  if 2 ^ 57 ≤ va then .error (7, 3)
  else if va < 2 ^ 25 then .error (7, 4)
  else s.walkFrom ptag va 4 ((s.part ptag).root * 4096)

/-- The target that a leaf gives an address (R144 Table 4b). A host address carries TR as its bit 52 (log 9). A scratchpad is that of
the logical core (R205). -/
def State.leafTgt (s : State) (leaf size va : Nat) : Tgt :=
  let a := pteAddr leaf + va % size
  match pteType leaf with
  | 0 => .hbm a (if pteMattr leaf = 0 then 0 else 1)
  | 1 => .sp (s.logical (40 * bits (pteTarget leaf) 7 6 + bits (pteTarget leaf) 5 0)) (pteAddr leaf % 2 ^ 20 + va % 65536)
  | 2 => .remote (pteTarget leaf) a (if pteMattr leaf = 0 then 0 else 1)
  | 3 => .host (a + (if bitOf (pteTarget leaf) 0 then 2 ^ 52 else 0)) (bitOf (pteTarget leaf) 0) (if pteMattr leaf = 2 then 2 else 1)
  | _ => .mmio a

/-- W, X and the fetch rules on a present leaf (R145): the D1 of PERM, if it fails. -/
def permCode (acc leaf : Nat) : Option Nat :=
  if acc = accFetch then
    if pteType leaf ≠ 0 then some 3 else if pteX leaf then none else some 2
  else if acc = accLoad then none
  else if pteW leaf then none else some 1

/-- The fixed windows (R142): the own scratchpad, the cluster's scratchpads, or a hole. -/
def State.window (s : State) (k va : Nat) : Option Tgt :=
  if isStream k then none
  else if va < spSize then some (.sp (s.logical k) va)
  else if 2 ^ 24 ≤ va ∧ va < 2 ^ 24 + 8 * 2 ^ 20 ∧ va % 2 ^ 20 < spSize then
    some (.sp (s.logical (coreOfCluster (clusterOf k) ((va - 2 ^ 24) / 2 ^ 20))) (va % 2 ^ 20))
  else none

/-- The cached translation of an address, if its cluster holds one (R148, R149). -/
def State.tlbFind (s : State) (k ptag va : Nat) : Option Tlb :=
  (s.cluster (clusterOf k)).tlb.find? fun e => e.ptag == ptag && decide (e.base ≤ va) && decide (va < e.base + e.size)

/-- A leaf applied to an address and access. -/
def State.applyLeaf (s : State) (va acc leaf size : Nat) : Xl :=
  match permCode acc leaf with
  | some d1 => .fault 5 d1
  | none => .ok (s.leafTgt leaf size va) leaf size

/-- Translate an address of a partition by a fresh walk (R143-R145). -/
def State.xlWalk (s : State) (ptag va acc : Nat) : Xl :=
  match s.walk ptag va with
  | .error (lvl, reason) => .fault 4 (lvl + 256 * reason)
  | .ok (lvl, _, leaf) => s.applyLeaf va acc leaf (pageSize lvl)

/-- Whether a cached translation may still be used: it is what a walk gives now, it is pinned, or the free value of
R146 picks the old one. -/
def State.tlbUse (s : State) (ptag va : Nat) (e : Tlb) : Bool :=
  e.pinned || (match s.walk ptag va with
    | .ok (lvl, _, leaf) => (leaf == e.leaf && pageSize lvl == e.size) || s.choose (128 + va / 65536 % 64)
    | .error _ => s.choose (128 + va / 65536 % 64))

/-- Translate an address for a core's own access (R141, R142, R148): windows, then the cluster TLB, else a miss. -/
def State.translate (s : State) (k ptag va acc : Nat) : Xl :=
  if 2 ^ 57 ≤ va then .fault 4 (7 + 256 * 3)
  else if va < 2 ^ 25 then
    match s.window k va with
    | some t => if acc = accFetch then .fault 5 3 else .ok t 0 65536
    | none => .fault 4 (7 + 256 * 4)
  else match s.tlbFind k ptag va with
    | some e => if s.tlbUse ptag va e then s.applyLeaf va acc e.leaf e.size else .miss
    | none => .miss

/-- As `translate`, for an agent that no VCC waits on: a miss is walked at once (R148, R151). -/
def State.translateNow (s : State) (k ptag va acc : Nat) : Xl :=
  match s.translate k ptag va acc with
  | .miss => s.xlWalk ptag va acc
  | x => x

/-- As `translate`, for the acting context: a page whose walk has failed since its bundle was first tried gives its fault (R133,
R148). -/
def State.translateMe (s : State) (va acc : Nat) : Xl :=
  match s.translate s.cur (s.ptagOf s.cur) va acc with
  | .miss => if s.me.xok.contains (va / 65536) then s.xlWalk (s.ptagOf s.cur) va acc else .miss
  | x => x

/-- Put a walked translation into the cluster TLB (R148). -/
def State.tlbLoad (s : State) (k ptag va leaf size : Nat) (pinned : Bool) : State :=
  s.updCluster (clusterOf k) fun c =>
    let base := va / size * size
    { c with tlb := { ptag, base, size, leaf, pinned } ::
        c.tlb.filter fun e => !(e.ptag == ptag && e.base == base && e.size == size && e.pinned == pinned) }

/-! ### The translation caches of the NMA units and of the BAR2 path (R392) -/

/-- Such caches by number: those of the NMA units of cache die `md`, and BAR2's. -/
def xlNma (md : Nat) : Nat := md
def xlBar2 : Nat := 8
/-- Translate for the agent of cache `u`: by what it holds, where R146 allows the old translation, else by a walk. -/
def State.xlCached (s : State) (u ptag va acc : Nat) : Xl :=
  match (SMap.get [] s.xlc u).find? fun e => e.ptag == ptag && decide (e.base ≤ va) && decide (va < e.base + e.size) with
  | some e => if s.tlbUse ptag va e then s.applyLeaf va acc e.leaf e.size else s.xlWalk ptag va acc
  | none => s.xlWalk ptag va acc
/-- The cache keeps what a walk of an address gives now (R146: never a fault). -/
def State.xlKeep (s : State) (u ptag va : Nat) : State :=
  match s.walk ptag va with
  | .ok (lvl, _, leaf) =>
    let size := pageSize lvl
    let e : Tlb := { ptag := ptag, base := va / size * size, size := size, leaf := leaf }
    let l := SMap.get [] s.xlc u
    if l.contains e then s else { s with xlc := SMap.put s.xlc u (e :: l.filter fun x => !(x.ptag == ptag && x.base == e.base && x.size == size)) }
  | .error _ => s

end Sys2Proof.Machine
end

