-- ==== Sys2Proof/Machine/Fabric.lean ====
section
/-! DEFINITION. Fabric transactions: headers, the end-to-end check, endpoints, sending and answering (R34-R40). -/

namespace Sys2Proof.Machine

/-- Transaction types (R36 Table 5). -/
def tyLoad : Nat := 1
def tyStore : Nat := 2
def tyAtomic : Nat := 3
def tyPush : Nat := 4
def tyPop : Nat := 5
def tyPuth : Nat := 6
def tyAttreq : Nat := 7
def tyPartial : Nat := 8
def tySlotctl : Nat := 9
def tyResp : Nat := 16

/-- Status codes (R36 Table 6). -/
def stOk : Nat := 0
def stStale : Nat := 1
def stPerm : Nat := 2
def stEmpty : Nat := 3
def stFull : Nat := 4
def stRefused : Nat := 5
def stCrcerr : Nat := 6
def stPoison : Nat := 7
def stBadtable : Nat := 8
def stObjtype : Nat := 9
def stMalformed : Nat := 10

/-- One constituent as the payload of a combined atomic lists it (R42); the spec gives it no layout (log 77). -/
def constBytes (c : Constituent) : List Byte :=
  leBytes 1 c.src.pkg ++ leBytes 1 c.src.die ++ leBytes 1 c.src.ep ++ leBytes 1 c.stream ++ leBytes 2 c.seq ++ leBytes 2 c.tag
    ++ leBytes 8 c.operand.toNat
/-- The payload as it travels, in whole 16-byte units (R34): its bytes, zeros that fill the last unit, and the constituents. That the
target knows the bytes from the zeros is log 77's. -/
def Txn.image (t : Txn) : List Byte :=
  t.payload ++ List.replicate ((16 - t.payload.length % 16) % 16) 0 ++ t.constituents.flatMap constBytes
/-- LEN, the payload's length in 16-byte units (R34). -/
def Txn.len (t : Txn) : Nat := (t.payload.length + 15) / 16 + t.constituents.length
/-- The flits that a transaction occupies (R34). -/
def Txn.flits (t : Txn) : Nat := (32 + 16 * Txn.len t + 239) / 240
/-- The four words of the header (R34 Table 4); the check sees CRC, HELD and STATUS as 0 (R37). -/
def Txn.word0 (t : Txn) : Nat :=
  t.ty + (if t.priv then 32 else 0) + (if t.poison then 128 else 0) + t.stream * 2 ^ 8 + t.ptag * 2 ^ 12
    + t.src.pkg * 2 ^ 16 + t.src.die * 2 ^ 24 + t.dst.die * 2 ^ 28 + t.dst.pkg * 2 ^ 32 + t.src.ep * 2 ^ 40
    + t.subop * 2 ^ 48 + Txn.len t * 2 ^ 56
def Txn.word1 (t : Txn) : Nat := t.addr % 2 ^ 52 + t.otype * 2 ^ 56 + t.oclass * 2 ^ 58
def Txn.word2 (t : Txn) : Nat := t.gen + t.seq * 2 ^ 32 + t.tag * 2 ^ 48
def Txn.word3 (t : Txn) : Nat := t.constituents.length * 2 ^ 32

/-- One bit of CRC-32C, reflected (R37). -/
def crcBit (c : Nat) : Nat := if c % 2 = 1 then Nat.xor (c / 2) 0x82F63B78 else c / 2
def crcByte (c : Nat) (b : Byte) : Nat :=
  let x := Nat.xor c b.toNat
  crcBit (crcBit (crcBit (crcBit (crcBit (crcBit (crcBit (crcBit x)))))))
/-- CRC-32C of bytes: initial value and final exclusive-or all ones (R37). -/
def crc32c (bs : List Byte) : Nat := Nat.xor (bs.foldl crcByte 0xFFFFFFFF) 0xFFFFFFFF

/-- The bytes that the end-to-end check covers (R37). -/
def Txn.checked (t : Txn) : List Byte :=
  leBytes 8 (Txn.word0 t) ++ leBytes 8 (Txn.word1 t) ++ leBytes 8 (Txn.word2 t) ++ leBytes 8 (Txn.word3 t) ++ Txn.image t
def Txn.withCrc (t : Txn) : Txn := { t with crc := BitVec.ofNat 32 (crc32c (Txn.checked t)) }
/-- The end-to-end check (R38). -/
def Txn.crcOk (t : Txn) : Bool := t.crc.toNat == crc32c (Txn.checked t)

/-- The endpoint of a core or stream core (R35). -/
def State.epOf (s : State) (k : Nat) : Ep :=
  if k < 160 then ⟨s.pkg.pkgId, k / 40, k % 40⟩ else ⟨s.pkg.pkgId, dieOf k, 40⟩
/-- The LLC slice that is the home of an HBM address of a package (R35, R141). -/
def llcEp (pkg pa : Nat) : Ep := ⟨pkg, 4 + bits pa 38 36, 4⟩
/-- The L2 of a die (R35). -/
def State.l2Ep (s : State) (die : Nat) : Ep := ⟨s.pkg.pkgId, die, 41⟩
/-- The host bridge and the management island (R35). -/
def State.hostEp (s : State) : Ep := ⟨s.pkg.pkgId, 12, 32⟩
def State.smcEp (s : State) : Ep := ⟨s.pkg.pkgId, 12, 34⟩
/-- The core key of an endpoint that is a core or stream core. -/
def coreOfEp (e : Ep) : Option Nat :=
  if e.die < 4 ∧ e.ep < 40 then some (40 * e.die + e.ep) else if e.die < 4 ∧ e.ep = 40 then some (160 + e.die) else none

/-- Endpoint codes that exist (R35). -/
def epOk (e : Ep) : Bool :=
  decide (e.pkg < 256) && (if e.die < 4 then decide (e.ep ≤ 41) else if e.die < 12 then decide (e.ep ≤ 4) else decide (e.die < 14) && decide (e.ep ≤ 34))
/-- What the first router checks (R36). -/
def Txn.admissible (t : Txn) : Bool :=
  ((decide (1 ≤ t.ty) && decide (t.ty ≤ 9)) || t.ty == 16) && decide (Txn.len t ≤ 128) && epOk t.src && epOk t.dst

/-- The triple (source, target, stream) as one number (R40). -/
def epKey (e : Ep) : Nat := (e.pkg * 16 + e.die) * 64 + e.ep
def Txn.triple (t : Txn) : Nat := (epKey t.src * 2 ^ 18 + epKey t.dst) * 16 + t.stream
/-- A response travels in the triple of its own direction; the bit keeps it apart from requests. -/
def Txn.order (t : Txn) : Nat := Txn.triple t * 2 + (if t.ty = tyResp then 1 else 0)

/-- Put a transaction on the fabric, before the first router of its route. -/
def State.launchTxn (s : State) (t : Txn) : State := { s with wire := s.wire ++ [(0, t)] }

/-- A router drops a transaction and counts it (R32, R36). -/
def State.drop (s : State) (r : Nat) : State :=
  (s.updRouter r fun x => { x with drops := min 0xFFFF (x.drops + 1) }).log (.fabric r 1)

/-- Send a request under a TAG: SEQ of its triple, the CRC, and the source's record of it, by its serial number, until it is
answered (R34, R38). -/
def State.sendTagged (s : State) (t : Txn) (tag : Nat) : State × Nat :=
  let q := SMap.get 0 s.seqs (Txn.triple t)
  let t := Txn.withCrc { t with seq := q % 65536, tag := tag % 65536 }
  let u := s.nextTag
  let s := { s with seqs := SMap.put s.seqs (Txn.triple t) (q + 1), nextTag := u + 1, outst := s.outst ++ [({ uid := u, txn := t } : Outst)] }
  (s.launchTxn t, u)
/-- Transactions of a die's agents that wait for an answer, which its L2 keeps: 2,048 at most (R38). -/
def State.unanswered (s : State) (die : Nat) : Nat :=
  (s.outst.filter fun o => o.txn.src.pkg == s.pkg.pkgId && o.txn.src.die == die).length
/-- What leads from one state to another needs more room there than a die has. -/
def State.overfull (s t : State) : Bool :=
  decide (2048 < t.outst.length) && [0, 1, 2, 3].any fun d => decide (2048 < t.unanswered d) && decide (s.unanswered d < t.unanswered d)
/-- Send a request with the next TAG. -/
def State.sendReq (s : State) (t : Txn) : State × Nat := s.sendTagged t s.nextTag

/-- The RESP to a request (R36): source and target change places, STREAM, SEQ and TAG stay. -/
def respTo (t : Txn) (status : Nat) (payload : List Byte) (gen : Nat) : Txn :=
  Txn.withCrc { t with
    ty := tyResp, priv := false, held := false, src := t.dst, dst := t.src, subop := t.ty, status := status,
    gen := gen, payload := payload, poison := status == stPoison }

/-- Answer a request with one RESP (R36). -/
def State.answer (s : State) (t : Txn) (status : Nat) (payload : List Byte := []) (gen : Nat := 0) : State :=
  s.launchTxn (respTo t status payload gen)

/-- Take the first occurrence of a transaction off the wire. -/
def takeWire (t : Txn) : List (Nat × Txn) → List (Nat × Txn)
  | [] => []
  | (h, x) :: r => if x = t then r else (h, x) :: takeWire t r
def State.unwire (s : State) (t : Txn) : State := { s with wire := takeWire t s.wire }

/-- MSI-X (R79, R86, R90, R396): 0 sent, 1 masked and pending, 2 discarded. -/
def State.msix (s : State) (part vec : Nat) : Nat × State :=
  if 64 ≤ vec || !s.pkg.linkUp then (2, s)
  else if (s.part part).msixMask.getLsbD vec then
    (1, s.updPart part fun p => { p with msixPend := p.msixPend ||| BitVec.ofNat 64 (2 ^ vec) })
  else (0, s.tell (.msix part vec))

/-! ### The host link (R86, R90, R95) -/

/-- The PCI Express function of a partition: 0 the PF, n VF n (R81). A PF stream's partition number is 16. -/
def State.fnOf (s : State) (p : Nat) : Nat := if s.pkg.numVfs = 0 ∨ p = 16 then 0 else p + 1
/-- The partition whose function a transaction's host request belongs to (R81, R95): 16, the PF, for a privileged one with VFs there. -/
def State.hostPart (s : State) (t : Txn) : Nat := if t.priv && s.pkg.numVfs != 0 then 16 else t.ptag

/-- The host filter (R95): a translated request that hits the function's address translation cache, or a window of the function's
filter table (base and length) that holds all `n` bytes. -/
def State.hostPass (s : State) (p addr n : Nat) : Bool :=
  (decide (2 ^ 52 ≤ addr) && s.atc.contains (s.fnOf p, addr % 2 ^ 52 / 4096))
  || (List.range 64).any fun w =>
    let x := SMap.get (0, 0) s.filters (s.fnOf p * 64 + w)
    decide (x.1.toNat ≤ addr % 2 ^ 52) && decide (addr % 2 ^ 52 + n ≤ x.1.toNat + x.2.toNat)

def satInc (n : Nat) : Nat := min (n + 1) 0xFFFFFFFF
/-- A host-bound write (R86, R90, R95): sent, or dropped and counted. -/
def State.hostWrite (s : State) (p addr : Nat) (bs : List Byte) (relaxed : Bool) : State :=
  if !s.pkg.linkUp then s.updPart p fun x => { x with hldrop := satInc x.hldrop }
  else if !s.hostPass p addr bs.length then s.updPart p fun x => { x with filtdrop := satInc x.filtdrop }
  else s.tell (.hostWrite p (addr % 2 ^ 52) bs relaxed)

end Sys2Proof.Machine
end

