-- ==== Sys2Proof/Machine/Route.lean ====
section
/-! DEFINITION. Routers and their ports (R25), the route of best-effort traffic (R26), the slot tables in force and the circuits that
they carry (R27-R30). A transaction lies on `State.wire` with its place: how many routers of its route it has entered, or on a circuit
the router and input port where it waits. -/

namespace Sys2Proof.Machine

/-! ### Ports (R25 Table 1) -/

/-- The package switch that owns a Shevis Link port, and the port's number there (R22, R25). -/
def switchOf (port : Nat) : Nat := if port < 9 then 12 else 13
def switchPort (port : Nat) : Nat := port % 9

/-- The port of router `r` that leads to the router of die `d`. -/
def portTo (r d : Nat) : Nat :=
  if r < 4 then (if d = 12 then 7 else 8) else if r < 12 then (if d = 12 then 5 else 6) else if 12 ≤ d then 9 else 10 + d
/-- The die that a port of router `r` leads to, if it leads to one. -/
def portDie (r p : Nat) : Option Nat :=
  if r < 4 then (if p = 7 then some 12 else if p = 8 then some 13 else none)
  else if r < 12 then (if p = 5 then some 12 else if p = 6 then some 13 else none)
  else if p = 9 then some (25 - r) else if 10 ≤ p ∧ p ≤ 21 then some (p - 10) else none
/-- The port of its die's router behind which an endpoint lies. -/
def epPort (e : Ep) : Nat :=
  if e.die < 4 then (if e.ep < 40 then e.ep / 8 else if e.ep = 40 then 6 else 5)
  else if e.die < 12 then e.ep
  else if e.ep < 32 then 22 else if e.ep = 32 then 24 else if e.ep = 33 then 23 else 25
/-- The endpoint of a package that a flit reaches through a port of router `r`: behind one that serves several, the one that the
target endpoint `x` names there. -/
def portEp (pkg r p x : Nat) : Option Ep :=
  if r < 4 then (if p < 5 then some ⟨pkg, r, 8 * p + x % 8⟩ else if p = 5 then some ⟨pkg, r, 41⟩ else if p = 6 then some ⟨pkg, r, 40⟩ else none)
  else if r < 12 then (if p < 5 then some ⟨pkg, r, p⟩ else none)
  else if p = 22 then some ⟨pkg, r, x % 32⟩
  else if p = 23 then some ⟨pkg, r, 33⟩
  else if p = 24 ∧ r = 12 then some ⟨pkg, 12, 32⟩
  else if p = 25 then some ⟨pkg, r, 34⟩ else none
/-- Whether a port exists (R25): an absent one is never a source. -/
def portOk (r p : Nat) : Bool := (r ≥ 12 && decide (p < 9)) || (portDie r p).isSome || (portEp 0 r p 0).isSome

/-! ### Routes (R26) -/

/-- A transaction that comes from another package or another domain. -/
def State.foreign (s : State) (t : Txn) : Bool := decide (t.src.pkg ≠ s.pkg.pkgId) || (t.dom.isSome && t.ty != tyResp)
/-- A transaction whose target is another package, or that answers one of another domain. -/
def State.outward (s : State) (t : Txn) : Bool := decide (t.dst.pkg ≠ s.pkg.pkgId) || (t.dom.isSome && t.ty == tyResp)

/-- The I/O die between two other dies: by the parity of the target die, or the other one where the healthy-port table marks its port
to either end as failed. -/
def State.viaDie (s : State) (a d : Nat) : Nat :=
  let x := 12 + d % 2
  if s.failedPorts.contains (x, portTo x a) || s.failedPorts.contains (x, portTo x d) then 25 - x else x
/-- The routers from die `a` to die `d` of the package. -/
def State.dieRoute (s : State) (a d : Nat) : List Nat :=
  if a = d then [a] else if a < 12 ∧ d < 12 then [a, s.viaDie a d, d] else [a, d]
/-- The domain's tables: the port to a package, or to the Ethernet bridge for another domain; and the port that its traffic enters by. -/
def State.outPort (s : State) (t : Txn) : Nat := SMap.get 0 s.outPorts (match t.dom with
  | some d => 256 + d
  | none => t.dst.pkg)
def State.inPort (s : State) (t : Txn) : Nat := SMap.get 0 s.inPorts (match t.dom with
  | some d => 256 + d
  | none => t.src.pkg)
/-- The routers of this package on the way of a transaction (R26). -/
def State.routeOf (s : State) (t : Txn) : List Nat :=
  s.dieRoute (if s.foreign t then switchOf (s.inPort t) else t.src.die) (if s.outward t then switchOf (s.outPort t) else t.dst.die)
/-- The router that a transaction enters first in this package (R36). -/
def State.firstRouter (s : State) (t : Txn) : Nat := min ((s.routeOf t).headD 0) 13

/-- The place of an element in a list. -/
def indexIn (r : Nat) (l : List Nat) : Nat := l.findIdx (· == r)
/-- The input port by which a transaction comes to a router of its route, and the output port by which it leaves (R42 condition 2). -/
def State.inputAt (s : State) (t : Txn) (r : Nat) : Nat :=
  match indexIn r (s.routeOf t) with
  | 0 => if s.foreign t then (if t.dom.isSome then 23 else switchPort (s.inPort t)) else epPort t.src
  | n + 1 => portTo r ((s.routeOf t).getD n 0)
def State.outputAt (s : State) (t : Txn) (r : Nat) : Nat :=
  match (s.routeOf t)[indexIn r (s.routeOf t) + 1]? with
  | some d => portTo r d
  | none => if s.outward t then (if t.dom.isSome then 23 else switchPort (s.outPort t)) else epPort t.dst

/-! ### Slot tables in force (R27, R28) -/

/-- A slot table's default entry: best-effort on every output (R27). -/
def slotDefault : BitVec 256 := BitVec.ofNat 256 ((List.range 32).foldl (fun x p => x + 0x3E * 2 ^ (6 * p)) 0)
/-- A slot-table entry with a reserved code (R27 Table 2). -/
def badEntry (x : Nat) : Bool := (List.range 32).any fun p => decide (0x20 ≤ bits x (6 * p + 5) (6 * p)) && decide (bits x (6 * p + 5) (6 * p) < 0x3E)
/-- Entries go into a router's inactive bank; with a tick its banks are to swap at the first slot 0 after it (R31). -/
def State.writeSlots (s : State) (r : Nat) (es : List (Nat × Nat)) (tick : Option Nat) : State :=
  s.updRouter r fun x =>
    let bank := if x.actBank then 0 else 256
    { x with
      slots := es.foldl (fun m e => SMap.set slotDefault m (bank + e.1) (BitVec.ofNat 256 e.2)) x.slots,
      swapTick := match tick with
        | some t => some t
        | none => x.swapTick }
/-- The entries of the active bank that differ from it. -/
def Router.active (x : Router) : List Nat :=
  (x.slots.filter fun e => (e.1 / 256 == 1) == x.actBank).map fun e => e.2.toNat
/-- OUT_p of an entry. -/
def outCode (e p : Nat) : Nat := bits e (6 * p + 5) (6 * p)
/-- A port at half rate acts as best-effort in every slot (R24). -/
def State.halfPort (s : State) (r p : Nat) : Bool := decide (12 ≤ r) && decide (p < 9) && (s.port (9 * (r - 12) + p)).half
/-- An output carries best-effort traffic in some slot: it is not idle in all 256 (R28). -/
def State.openOut (s : State) (r p : Nat) : Bool :=
  s.halfPort r p || decide (((s.router r).active.filter fun e => outCode e p == 0x3F).length < 256)
/-- Every output on a transaction's way carries best-effort traffic. -/
def State.openWay (s : State) (t : Txn) : Bool := (s.routeOf t).all fun r => s.openOut r (s.outputAt t r)

/-- The outputs that one slot or another maps to input `i` of router `r`, slot by slot (R28). -/
def State.slotGroups (s : State) (r i : Nat) : List (List Nat) :=
  (((s.router r).active.map fun e => (List.range 32).filter fun p => outCode e p == i && portOk r i && !s.halfPort r p).filter
    fun g => !g.isEmpty).eraseDups

/-! ### Circuits (R28-R30) -/

/-- The inputs of routers that flits reach from given ones, by the slot tables. -/
def State.circInputs (s : State) : Nat → List (Nat × Nat) → List (Nat × Nat)
  | 0, l => l
  | n + 1, l => s.circInputs n (l ++ (l.flatMap fun x => (s.slotGroups x.1 x.2).flatten.filterMap fun p =>
      (portDie x.1 p).map fun d => (d, portTo d x.1))).eraseDups
/-- Where a transaction enters its first router: the router and the input port. -/
def State.entryOf (s : State) (t : Txn) : Nat × Nat := (s.firstRouter t, s.inputAt t (s.firstRouter t))
/-- The circuit reaches the target of a transaction: a port behind which it lies, or for another package a link (R30). -/
def State.circReaches (s : State) (t : Txn) : Bool :=
  (s.circInputs 14 [s.entryOf t]).any fun x => (s.slotGroups x.1 x.2).flatten.any fun p =>
    if s.outward t then decide (12 ≤ x.1) && decide (p < 9) else x.1 == t.dst.die && portEp t.dst.pkg x.1 p t.dst.ep == some t.dst
/-- A transaction of a stream that a circuit of its source carries to its target travels on it; every other is best-effort (R30). -/
def State.onCircuit (s : State) (t : Txn) : Bool := s.circuits.any (fun c => c.1 == t.src && bitOf c.2 t.stream) && s.circReaches t

/-- The place on the wire of a flit that waits on a circuit at an input of a router. -/
def circPlace (r i : Nat) : Nat := 1000 + 32 * r + i
/-- Flits that wait in the circuit buffer of an input, which holds 64 (R29). -/
def State.circFlits (s : State) (place : Nat) : Nat := ((s.wire.filter fun w => w.1 == place).map fun w => Txn.flits w.2).foldl (· + ·) 0
def State.circRoom (s : State) (place : Nat) (t : Txn) : Bool := decide (s.circFlits place + Txn.flits t ≤ 64)

/-- A copy that reaches an endpoint other than the header's target performs there under the same check (log 78). -/
def copyFor (t : Txn) (e : Ep) : Txn := if e = t.dst then t else if Txn.crcOk t then Txn.withCrc { t with dst := e } else { t with dst := e }
/-- What a transaction on a circuit becomes through one output: it waits at the next router, leaves the package, or has arrived. -/
def State.circOut (s : State) (r : Nat) (t : Txn) (p : Nat) : List (Nat × Txn) × List Out :=
  match portDie r p with
  | some d => ([(circPlace d (portTo d r), t)], [])
  | none =>
    if 12 ≤ r ∧ p < 9 then ([], [.txn t])
    else match portEp s.pkg.pkgId r p t.dst.ep with
      | some e => ([(999, copyFor t e)], [])
      | none => ([], [])
/-- The first transaction that waits at a place. -/
def firstAt (place : Nat) (l : List (Nat × Txn)) : Option Txn := (l.find? fun w => w.1 == place).map (·.2)
/-- Put others in the place of the first occurrence of an element. -/
def replaceWire (x : Nat × Txn) (ys : List (Nat × Txn)) : List (Nat × Txn) → List (Nat × Txn)
  | [] => []
  | y :: r => if y = x then ys ++ r else y :: replaceWire x ys r
/-- In a slot that maps outputs to the input where a transaction waits first, it is sent to each of them, if every next buffer has room
(R28, R29). -/
def State.circSend (s : State) (r i : Nat) (t : Txn) (g : List Nat) : State :=
  let xs : List (List (Nat × Txn) × List Out) := g.map (s.circOut r t)
  let ys : List (Nat × Txn) := xs.flatMap (·.1)
  if firstAt (circPlace r i) s.wire = some t ∧ ys.all (fun y => decide (y.1 < 1000) || s.circRoom y.1 t) then
    { s with wire := replaceWire (circPlace r i, t) ys s.wire, out := s.out ++ xs.flatMap (·.2) }
  else s
/-- A transaction that a circuit carries is injected at its source once its first buffer has room (R29). -/
def State.circInject (s : State) (t : Txn) : State :=
  let x := s.entryOf t
  let place := circPlace x.1 x.2
  if s.circRoom place t then { s with wire := replaceWire (0, t) [(place, t)] s.wire } else s

end Sys2Proof.Machine
end

