-- ==== Sys2Proof/Machine/Device.lean ====
section
/-! DEFINITION. What the package's own agents do to memory: requests that they send (R36, R38), the checkpoint copy of a chunk that a
write waits for (R150, R213-R216), and the accesses of schedulers and stream cores (R83, R84, R106, R107, R117). -/

namespace Sys2Proof.Machine

/-- Record a request until its answer (R167). -/
def State.addReq (s : State) (r : Req) : State := { s with reqs := s.reqs ++ [r] }

/-- Send a request and remember for whom it is. -/
def State.request (s : State) (t : Txn) (r : Req) : State :=
  let id := s.nextId
  let x := { s with nextId := id + 1 }.sendReq t
  x.1.addReq { r with id := id, tag := x.2, stream := t.stream, addr := t.addr }

/-! ### Checkpoint copies (R150, R213-R216) -/

/-- A chunk that a checkpoint has yet to copy holds the address: a write waits (R150, R216). -/
def State.snapHold (s : State) (ptag va leaf : Nat) : Bool :=
  pteSnap leaf && s.ckpts.any fun c => c.ptag == ptag && c.chunks.contains (va / 65536) && !c.copied.contains (va / 65536)

/-- Where an owned chunk, the `j`-th of its replica, lies in a region (R214 Table 5). -/
def chunkOff (gen nchunk nrep j : Nat) : Nat :=
  0x10000 + (if gen % 2 = 0 then 0 else (nchunk + nrep - 1) / nrep * 65536) + j * 65536

/-- The leaf, with its entry's address, that maps a chunk to HBM of this package (R213). -/
def State.chunkLeaf (s : State) (ptag page : Nat) : Option (Nat × Nat × Nat) :=
  match s.walk ptag (page * 65536) with
  | .ok (lvl, at_, leaf) => if pteType leaf = 0 then some (lvl, at_, leaf) else none
  | .error _ => none
/-- The physical address of a chunk. -/
def State.chunkPa (s : State) (ptag page : Nat) : Option Nat :=
  (s.chunkLeaf ptag page).map fun x => pteAddr x.2.2 + page * 65536 % pageSize x.1

/-- Every die's dirty lines that hold `n` bytes perform. -/
def State.flushAll (s : State) (pa n : Nat) : State := [0, 1, 2, 3].foldl (fun (s : State) d => s.flushLines d pa n) s
/-- A device write that goes after every dirty copy. -/
def State.devWrite (s : State) (pa : Nat) (bs : List Byte) : State := (s.flushAll pa bs.length).hbmWrite pa bs

/-- Set or clear SNAP in the leaf of a chunk and in every TLB entry that covers it (R150, R215). -/
def State.setSnap (s : State) (ptag page : Nat) (on : Bool) : State :=
  match s.chunkLeaf ptag page with
  | none => s
  | some (lvl, at_, leaf) =>
    let w := leaf - (if pteSnap leaf then 32 else 0) + (if on then 32 else 0)
    let base := page * 65536 / pageSize lvl * pageSize lvl
    let renew := fun (e : Tlb) => if e.ptag = ptag ∧ e.base = base ∧ e.size = pageSize lvl then { e with leaf := w } else e
    { s.hbmWrite at_ (leBytes 8 w) with
      clusters := s.clusters.map fun (x : Nat × Cluster) => (x.1, { x.2 with tlb := x.2.tlb.map renew }),
      xlc := s.xlc.map fun (x : Nat × List Tlb) => (x.1, x.2.map renew) }

/-- The CRC-32C register of a chunk from 0 (R214). -/
def chunkCrc (bs : List Byte) : Nat := bs.foldl crcByte 0

/-- Change one checkpoint. -/
def State.updCkpt (s : State) (id : Nat) (f : Ckpt → Ckpt) : State :=
  { s with ckpts := s.ckpts.map fun (c : Ckpt) => if c.id = id then f c else c }

/-- STOREs of the package's checkpoint engine to the buddy, 2 KiB each. -/
def State.ckSend (s : State) (c : Ckpt) (op off : Nat) (bs : List Byte) : State :=
  let n := (bs.length + 2047) / 2048
  (List.range n).foldl (fun s j =>
    let pa := c.region + off + 2048 * j
    s.request { ty := tyStore, ptag := c.ptag, src := s.l2Ep c.die, dst := llcEp c.bpkg pa, addr := pa,
                payload := (bs.drop (2048 * j)).take 2048 }
      { id := 0, core := 0, ctx := 0, unit := 24, op := op, tag := 0, stream := 0, key := some c.id })
    (s.updCkpt c.id fun c => { c with sending := c.sending + n })

/-- The chunk is taken, its writes leave, and SNAP goes with the last chunk of its page (R150, R215 step 5). -/
def State.copyChunk (s : State) (c : Ckpt) (page : Nat) : State :=
  match s.chunkPa c.ptag page, s.chunkLeaf c.ptag page with
  | some pa, some (lvl, _, _) =>
    let s := s.flushAll pa 65536
    let bs := s.hbmRead pa 65536
    let j := c.chunks.findIdx (· == page)
    let s := (s.ckSend c 1 (chunkOff c.gen c.nchunk c.nrep j) bs).updCkpt c.id fun c => { c with
      copied := page :: c.copied, crc := (page, chunkCrc bs) :: c.crc }
    let same := fun x => x * 65536 / pageSize lvl == page * 65536 / pageSize lvl
    if c.chunks.all fun x => !same x || x == page || c.copied.contains x then s.setSnap c.ptag page false else s
  | _, _ => s.updCkpt c.id fun c => { c with copied := page :: c.copied, failed := true }

/-- A write of an engine, an NMA unit, a scheduler or the host to a chunk that is not yet copied waits while the checkpoint engine takes
that chunk ahead of its turn (R150, R216); the copy and the write are one step here. -/
def State.copyAhead (s : State) (ptag va : Nat) : State :=
  let page := va / 65536
  if s.ckpts.isEmpty then s
  else match s.chunkLeaf ptag page with
  | some (_, _, leaf) =>
    if pteSnap leaf then
      (s.ckpts.filter fun c => c.ptag == ptag && c.chunks.contains page && !c.copied.contains page).foldl (fun s c => s.copyChunk c page) s
    else s
  | none => s

/-! ### Privileged accesses of the package's own agents (R83, R84, R106, R107, R117) -/

/-- The aligned 64 KiB pieces of a range. -/
def pageRuns (va n : Nat) : List (Nat × Nat) :=
  (List.range ((va % 65536 + n + 65535) / 65536)).map fun j =>
    let a := if j = 0 then va else (va / 65536 + j) * 65536
    (a, min ((va / 65536 + j + 1) * 65536) (va + n) - a)

/-- Whether a scratchpad belongs to a partition (R39). -/
def State.spOk (s : State) (ptag q : Nat) : Bool := s.ptagOf q == ptag

/-- A write of a scheduler or stream core at a target: it performs at the home, or leaves for it. One that the page owner or the
scratchpad's partition forbids is answered PERM and has no effect (R39, R147). -/
def State.sysPut (s : State) (die ptag : Nat) (t : Tgt) (bs : List Byte) : State :=
  match t with
  | .sp q off => if s.spOk ptag q then s.spWrite q off bs else s
  | .hbm pa _ => if s.ownerOk ptag pa then (s.toHome die pa bs.length).hbmWrite pa bs else s
  | .remote pkg pa _ =>
    (s.sendReq { ty := tyStore, ptag := ptag, src := s.l2Ep die, dst := llcEp pkg pa, addr := pa, payload := bs }).1
  | .host pa _ _ => s.hostWrite ptag pa bs false
  | .mmio _ => s

/-- Whether a range is mapped, owned and writable for a partition (R98). -/
def State.sysWritable (s : State) (ptag va n : Nat) : Bool :=
  (pageRuns va n).all fun r => match s.xlWalk ptag r.1 accStore with
    | .ok (.hbm pa _) _ _ => s.ownerOk ptag pa
    | .ok (.sp q _) _ _ => s.spOk ptag q
    | .ok _ _ _ => true
    | _ => false
/-- The cause of the fault that a write of a range meets first, if it meets one (R145, R147). -/
def State.sysWriteCause (s : State) (ptag va n : Nat) : Option Nat :=
  (pageRuns va n).findSome? fun r => match s.xlWalk ptag r.1 accStore with
    | .ok (.hbm pa _) _ _ => if s.ownerOk ptag pa then none else some 5
    | .ok (.sp q _) _ _ => if s.spOk ptag q then none else some 5
    | .fault c _ => some c
    | _ => none
/-- Write a range in address order; a piece that is not mapped writable is left. -/
def State.sysWrite (s : State) (die ptag va : Nat) (bs : List Byte) : State :=
  (pageRuns va bs.length).foldl (fun s r => match s.xlWalk ptag r.1 accStore with
    | .ok t _ _ => (s.copyAhead ptag r.1).sysPut die ptag t ((bs.drop (r.1 - va)).take r.2)
    | _ => s) s
/-- Read bytes of one page that the package holds: HBM or a scratchpad. -/
def State.sysRead1 (s : State) (die ptag va n : Nat) : Option (List Byte) :=
  match s.xlWalk ptag va accLoad with
  | .ok (.hbm pa _) _ _ => if s.ownerOk ptag pa then some (s.viewRead die pa n) else none
  | .ok (.sp q off) _ _ => if s.spOk ptag q then some (s.spRead q off n) else none
  | _ => none
def State.sysRead (s : State) (die ptag va n : Nat) : Option (List Byte) :=
  (pageRuns va n).foldl (fun a r => match a, s.sysRead1 die ptag r.1 r.2 with
    | some x, some y => some (x ++ y)
    | _, _ => none) (some [])
/-- A 64-bit word, if it can be read. -/
def State.sysWord (s : State) (die ptag va : Nat) : Option Nat := (s.sysRead1 die ptag va 8).map leNat

end Sys2Proof.Machine
end

