-- ==== Sys2Proof/Machine/Sched.lean ====
section
/-! DEFINITION. The scheduler's data: launch records, points, continuation records, ready queues, completion (R96-R118). -/

namespace Sys2Proof.Machine

/-- Word `n` of a launch record, as a number (R97). -/
def Launch.w (l : Launch) (n : Nat) : Nat := (l.words.getD n 0).toNat
/-- Fields of the launch record (R97 Table 1). -/
def Launch.entry (l : Launch) (k : Nat) : Nat := bits (l.w k) 47 0
def Launch.nkern (l : Launch) : Nat := bits (l.w 0) 49 48
def Launch.ndim (l : Launch) : Nat := bits (l.w 0) 51 50
def Launch.tokens (l : Launch) : Nat := bits (l.w 0) 55 52
def Launch.pclass (l : Launch) : Nat := bits (l.w 0) 57 56
def Launch.ndep (l : Launch) : Nat := bits (l.w 0) 60 58
def Launch.timed (l : Launch) : Bool := bitOf (l.w 0) 61
def Launch.hasdl (l : Launch) : Bool := bitOf (l.w 0) 62
def Launch.irq (l : Launch) : Bool := bitOf (l.w 0) 63
def Launch.extx (l : Launch) : Nat := bits (l.w 3) 15 0 + 1
def Launch.exty (l : Launch) : Nat := bits (l.w 3) 31 16 + 1
def Launch.extz (l : Launch) : Nat := bits (l.w 3) 47 32 + 1
def Launch.predlid (l : Launch) : Nat := bits (l.w 5) 15 0
def Launch.clset (l : Launch) : Nat := bits (l.w 5) 35 16
def Launch.est (l : Launch) : Nat := bits (l.w 5) 59 36
def Launch.release (l : Launch) : Nat := l.w 6
def Launch.deadline (l : Launch) : Nat := l.w 7
def Launch.compaddr (l : Launch) : Nat := bits (l.w 8) 50 0 * 64
def Launch.pipetab (l : Launch) : Nat := bits (l.w 9) 50 0 * 64
def Launch.npipe (l : Launch) : Nat := bits (l.w 9) 55 51
def Launch.lid (l : Launch) : Nat := bits (l.w 14) 15 0
def Launch.nframe (l : Launch) : Nat := bits (l.w 14) 31 16
def Launch.framesz (l : Launch) : Nat := bits (l.w 14) 47 32
def Launch.irqvec (l : Launch) : Nat := bits (l.w 14) 53 48
def Launch.area (l : Launch) : Nat := bits (l.w 15) 50 0 * 64
/-- Points, rows and columns (R97, R99). -/
def Launch.npoints (l : Launch) : Nat := if l.zero then 0 else l.extx * l.exty * l.extz
def Launch.nrow (l : Launch) : Nat := if 2 ≤ l.ndim then l.extx else 1
def Launch.ncol (l : Launch) : Nat := l.npoints / l.nrow
def Launch.rowOf (l : Launch) (x : Nat) : Nat := if 2 ≤ l.ndim then x else 0
def Launch.colOf (l : Launch) (x y z : Nat) : Nat :=
  if 2 ≤ l.ndim then y * l.extz + z else if l.ndim = 1 then x else 0
/-- A point's place in lexicographic order (R99). -/
def Launch.ord (l : Launch) (x y z : Nat) : Nat := l.rowOf x * l.ncol + l.colOf x y z
/-- The coordinates of a place. -/
def Launch.coords (l : Launch) (o : Nat) : Nat × Nat × Nat :=
  (o / (l.exty * l.extz), o / l.extz % l.exty, o % l.extz)

/-- BMODE of vector `j`: FROM_LAUNCH. -/
def Launch.fromLaunch (l : Launch) (j : Nat) : Bool := bitOf (l.w 4) (60 + j)

/-- The scope of a launch: 2 die, 3 package (R108). -/
def Launch.scope (l : Launch) : Nat :=
  let dies := (List.range 4).filter fun d => bits l.clset (5 * d + 4) (5 * d) != 0
  if dies.length ≤ 1 ∧ !((List.range l.ndep).any l.fromLaunch) then 2 else 3

/-- Raise COUNT of a row over the out-of-order entries that follow it (R106 step 1). -/
def absorb (row ncol : Nat) : Nat → Nat → List Nat → Nat × List Nat
  | 0, c, ooo => (c, ooo)
  | n + 1, c, ooo =>
    if ooo.contains (row * ncol + c) then absorb row ncol n (c + 1) (ooo.filter (· != row * ncol + c)) else (c, ooo)

/-- The launch's key on its die. -/
def lkey (k : LKey) : Nat := k.ptag * 65536 + k.lid
def State.launch (s : State) (k : LKey) : Option Launch := SMap.find (s.die k.die).launches (lkey k)
def State.updLaunch (s : State) (k : LKey) (f : Launch → Launch) : State :=
  match s.launch k with
  | some l => s.updDie k.die fun d => { d with launches := SMap.put d.launches (lkey k) (f l) }
  | none => s
def State.delLaunch (s : State) (k : LKey) : State :=
  s.updDie k.die fun d => { d with launches := SMap.del d.launches (lkey k) }

/-! ### The staircase (R106) -/

/-- A row that the tracker keeps on chip. -/
def Launch.onChip (l : Launch) (row : Nat) : Bool := decide (l.base ≤ row) && decide (row < l.base + 4096)
/-- COUNT of a row: on chip, or read from the work area; one that cannot be read is a free value (log 9). -/
def State.rowCount (s : State) (k : LKey) (l : Launch) (row : Nat) : Nat :=
  if l.onChip row then SMap.get 0 l.counts row
  else (s.sysWord k.die k.ptag (l.area + 64 + 8 * row)).getD (Config.freeWord (2 ^ 21 + s.free)).toNat
/-- COUNT of rows from one on is written into the work area. -/
def State.writeCounts (s : State) (k : LKey) (l : Launch) (row : Nat) (cs : List Nat) : State :=
  s.sysWrite k.die k.ptag (l.area + 64 + 8 * row) (cs.flatMap (leBytes 8))
/-- COUNT of a row changes where it is kept. -/
def State.setCount (s : State) (k : LKey) (l : Launch) (row n : Nat) : State :=
  if l.onChip row then s.updLaunch k fun l => { l with counts := SMap.set 0 l.counts row n } else s.writeCounts k l row [n]
/-- The rows that a new launch has past its window hold 0 (log 80). -/
def State.zeroRows (s : State) (k : LKey) (l : Launch) : State :=
  if 4096 < l.nrow then s.writeCounts k l 4096 (List.replicate (l.nrow - 4096) 0) else s

/-- Whether the point at a place is complete (R106). -/
def State.isDone (s : State) (k : LKey) (l : Launch) (o : Nat) : Bool :=
  decide (o % l.ncol < s.rowCount k l (o / l.ncol)) || l.ooo.contains o

/-- BASEROW moves over the complete rows: one that leaves the window goes to the work area, one that enters comes from it (R106
step 3). -/
def State.baseUp (s : State) (k : LKey) : Nat → State
  | 0 => s
  | n + 1 => match s.launch k with
    | some l =>
      if l.base < l.nrow ∧ SMap.get 0 l.counts l.base = l.ncol then
        let next := if l.base + 4096 < l.nrow then SMap.set 0 l.counts (l.base + 4096) (s.rowCount k l (l.base + 4096)) else l.counts
        ((s.writeCounts k l l.base [l.ncol]).updLaunch k fun l => { l with counts := SMap.del next l.base, base := l.base + 1 }).baseUp k n
      else s
    | none => s

/-- The point at a place of a launch completes (R106). -/
def State.complete (s : State) (k : LKey) (o : Nat) : State :=
  match s.launch k with
  | none => s
  | some l =>
    let row := o / l.ncol
    let s :=
      if o % l.ncol = s.rowCount k l row then
        let r := absorb row l.ncol l.ooo.length (o % l.ncol + 1) l.ooo
        (s.setCount k l row r.1).updLaunch k fun l => { l with ooo := r.2 }
      else s.updLaunch k fun l => { l with ooo := l.ooo ++ [o] }
    (s.updLaunch k fun l => { l with
      reserved := l.reserved.filter (· != o), done := l.done + 1, fired := l.fired.filter (· != o), ended := l.ended.filter (·.1 != o),
      frames := l.frames.filter (·.2 != o) }).baseUp k l.nrow

/-- The scope at which the points of a launch end: a launch that another is chained to has package scope too (R108). -/
def State.scopeOf (s : State) (k : LKey) : Nat :=
  match s.launch k with
  | none => 2
  | some l =>
    let d := s.die k.die
    if (d.launches.any fun (x : Nat × Launch) => x.2.pred == some k) || (d.pending.any fun (x : LKey × Launch) => x.2.pred == some k) then 3 else l.scope

def sat32 (n : Nat) : Nat := min n 0xFFFFFFFF

/-- A fault is logged against a launch (R118, R189): NFAULT, and FCAUSE and FPOINT for the first. -/
def State.logFault (s : State) (k : LKey) (cause x y z : Nat) : State :=
  (s.updLaunch k fun l => { l with
    nfault := sat32 (l.nfault + 1),
    fcause := if l.nfault = 0 then cause else l.fcause,
    fpoint := if l.nfault = 0 then x + y * 2 ^ 16 + z * 2 ^ 32 else l.fpoint }).log (.launch k.ptag k.lid cause)

/-- A non-returning operation of a launch is dropped (R117). -/
def State.logDrop (s : State) (k : LKey) : State :=
  (s.updLaunch k fun l => { l with ndrop := sat32 (l.ndrop + 1) }).log (.drop k.ptag k.lid)

/-- A CR as the scheduler holds it, from its eight words (R102). -/
def crOfWords (ptag die image : Nat) (task : Bool) (ws : List Nat) : Cr :=
  let w := fun n => ws.getD n 0
  { pc := bits (w 0) 47 0, upc := bits (w 0) 59 48, flags := bits (w 0) 63 60, lid := bits (w 1) 15 0, x := bits (w 1) 31 16,
    y := bits (w 1) 47 32, z := bits (w 1) 63 48, wait := bits (w 2) 31 0, prio := bits (w 2) 35 32, state := bits (w 2) 39 36,
    aff := bits (w 2) 47 40, gang := bits (w 2) 63 48, frame := w 3, args := (ws.drop 4).map (BitVec.ofNat 64), ptag := ptag,
    die := die, task := task, entry := bits (w 0) 47 0, image := image }
/-- Its eight words (R102). -/
def Cr.toWords (c : Cr) : List Nat :=
  [c.pc + c.upc * 2 ^ 48 + c.flags * 2 ^ 60, c.lid + c.x * 2 ^ 16 + c.y * 2 ^ 32 + c.z * 2 ^ 48,
   c.wait + c.prio * 2 ^ 32 + c.state * 2 ^ 36 + c.aff * 2 ^ 40 + c.gang * 2 ^ 48, c.frame]
  ++ (List.range 4).map fun j => (c.args.getD j 0).toNat

/-- Ready-queue class of a priority (R102 Table 4). -/
def crClass (c : Cr) : Nat := c.prio / 4

/-- The lowest cluster of a set (R103). -/
def lowestCluster (set : Nat) : Nat := ((List.range 20).find? (bitOf set)).getD 0

/-- A CR with a reserved state or flag code, or a reserved affinity (R102 Table 4). -/
def Cr.reserved (c : Cr) : Bool :=
  decide (5 ≤ c.state) || c.flags % 4 == 3 || (decide (20 ≤ c.aff) && c.aff != 0xFF)

/-- A CR joins the ready queue of a cluster; past 256 entries it joins the overflow list (R104). -/
def State.enqueueCr (s : State) (cl : Nat) (c : Cr) : State :=
  s.updCluster cl fun x =>
    let r : Ready := { cr := c, cls := crClass c, since := s.pkg.ticks }
    if x.ready.length < 256 then { x with ready := x.ready ++ [r] } else { x with overflow := x.overflow ++ [r] }

/-- An entry has left: an overflow entry moves in, and its wait in its class begins now (R104). -/
def Cluster.refill (now : Nat) (c : Cluster) : Cluster :=
  match c.overflow with
  | [] => c
  | r :: t => if c.ready.length < 256 then { c with ready := c.ready ++ [{ r with since := now }], overflow := t } else c

/-- Unbind the pipes of a gang (R110, R364). -/
def State.unbindPipes (s : State) (cl gang : Nat) (l : LKey) : State :=
  s.updCluster cl fun c => { c with pipes := c.pipes.filter fun x => !(x.2.gang == gang && x.2.l == l) }

/-- The cores whose context 0 runs a kernel of the same gang point (R111). -/
def State.gangCores (s : State) (k : Nat) : List Nat :=
  match (s.core k).point with
  | none => [k]
  | some p => (s.cores.filter fun (x : Nat × Core) => match x.2.point with
      | some q => q.l == p.l && q.gang == p.gang && q.x == p.x && q.y == p.y && q.z == p.z && q.task == p.task
          && (x.1 == k || !p.task)
      | none => false).map (·.1)

/-- The requests of context 0 of a core whose point has gone: an answer to a non-returning one still counts for its launch
(R115, R117), under a core number that no core has; the answer to any other is discarded. A write-back of the L2 is the die's. -/
def State.orphan (s : State) (k : Nat) : State :=
  { s with reqs := s.reqs.filterMap fun (r : Req) =>
      if r.core = k ∧ r.ctx = 0 then (if r.back then some { r with core := l2Core (dieOf k) } else if r.nr then some { r with core := goneCore, unit := 23, key := none, arg := BitVec.ofNat 64 k } else none) else some r }

/-- The core is free: no point, context 0 idle, its requests to suspend or freeze void (R108, R131). -/
def State.freeCore (s : State) (k : Nat) : State :=
  (s.orphan k).updCore k fun c => { c with
    point := none, suspReq := false, freezeReq := false, burst := false,
    cx0 := { c.cx0 with run := .idle, pause := .none, suspReq := false, flights := [], raise := [], rdvPass := false,
                        hold := none, skip := false, noBrk := false, fenced := [] } }

/-- A kernel ends (R108, R373): in a point its last kernel completes the point; in a task it ends the task. -/
def State.kernelEnd (s : State) (k : Nat) : State :=
  match (s.core k).point with
  | none => s.freeCore k
  | some p =>
    let s := s.freeCore k
    if p.task then s.updLaunch p.l fun l => { l with tasks := l.tasks - 1 }
    else match s.launch p.l with
      | none => s
      | some l =>
        let o := l.ord p.x p.y p.z
        if (l.ended.filter (·.1 == o)).length + 1 = l.nkern then
          (s.complete p.l o).unbindPipes (clusterOf k) p.gang p.l
        else s.updLaunch p.l fun l => { l with ended := l.ended ++ [(o, p.kidx)] }

end Sys2Proof.Machine
end

