-- ==== Sys2Proof/Machine/Ops.lean ====
section
/-! DEFINITION. The operations that the meanings share: results and joins (R123-R125), stores and loads of a context
(R153-R157), segments (R200-R204), taking a trap and returning from one (R179-R191). -/

namespace Sys2Proof.Machine

/-! ### Results -/

/-- The lend code of the slot in issue (R261). -/
def State.lendNow (s : State) : Nat := lendCode s.bnd.words s.bnd.slot

/-- Put a result in flight for context `i` of core `k` (R124). -/
def State.pushFlight (s : State) (k i : Nat) (f : Flight) : State :=
  s.updCx k i fun c => { c with flights := c.flights ++ [{ f with seq := c.seq }], seq := c.seq + 1 }

/-- A fixed-latency result of the slot in issue: bypass register `b` of unit `u` after `lat` cycles, with the slot's
lend (R124). -/
def State.result (s : State) (u : FUnit) (b lat : Nat) (v : Val) : State :=
  s.pushFlight s.cur s.curCx { unit := u.id, byp := some b, val := v, remain := lat, lend := s.lendNow, slot := s.bnd.slot }
/-- As `result`, without a lend: the value a table names for b1 (R277). -/
def State.result1 (s : State) (u : FUnit) (b lat : Nat) (v : Val) : State :=
  s.pushFlight s.cur s.curCx { unit := u.id, byp := some b, val := v, remain := lat, slot := s.bnd.slot }
/-- A register write that ranks as a lend and is visible in the next cycle (R295). -/
def State.lendWrite (s : State) (code : Nat) (v : Val) : State :=
  s.pushFlight s.cur s.curCx { unit := 0, byp := none, val := v, remain := 1, lend := code, slot := s.bnd.slot }

/-- A queued operation will deliver bypass register `b` of unit `u` (R125). -/
def State.expect (s : State) (k i u b id lend : Nat) : State :=
  s.setJoinsAt k i u b (s.joinsAt k i u b ++ [{ id := id, lend := lend }])
/-- What has come of a queued result that was issued before the core's open segment; a rewind gives it again (R203). -/
def State.noteResult (s : State) (k : Nat) (r : QRes) : State :=
  match SMap.find s.segs k with
  | some g => if r.id < g.startId then { s with segs := SMap.put s.segs k { g with results := r :: g.results } } else s
  | none => s
/-- A queued result changes by `f`. -/
def State.updResult (s : State) (k i u b id : Nat) (f : QRes → QRes) : State :=
  let js := s.joinsAt k i u b
  let s := s.setJoinsAt k i u b (js.map fun r => if r.id = id then f r else r)
  match js.find? fun r => r.id == id with
  | some r => s.noteResult k (f r)
  | none => s
/-- A queued operation completes: its result waits for a join (R125). -/
def State.deliver (s : State) (k i u b id : Nat) (v : Val) (fault : Option TrapInfo := none) : State :=
  s.updResult k i u b id fun r => { r with done := true, val := v, fault := fault }

/-- Write a value to the register a lend code names, under the width rule (R261 Table 3, R271). -/
def State.writeLend (s : State) (k i code : Nat) (v : Val) : State :=
  if code < 0x40 then s.updCx k i fun c => c.setS (finOf 64 code) (valWord v)
  else if code < 0x80 then s.updCore k fun c => c.setV (finOf 64 (code - 0x40)) (v.setWidth 1024)
  else if code < 0x90 then s.updCore k fun c => c.setM (finOf 16 (code - 0x80)) v
  else if code < 0xA0 then s.updCx k i fun c => c.setK (finOf 16 (code - 0x90)) (valWord v)
  else if code < 0xA8 then s.updCx k i fun c => c.setG (finOf 8 (code - 0xA0)) (v.getLsbD 0)
  else if code < 0xB0 then s
  else if code < 0xC0 then s.updCx k i fun c => c.setA (finOf 16 (code - 0xB0)) (valWord v)
  else if code < 0xC4 then s.updCx k i fun c => c.setLc (finOf 4 (code - 0xC0)) (v.setWidth 32)
  else s

/-- One result lands: its bypass register and its lend (R124). -/
def State.land (s : State) (k i : Nat) (f : Flight) : State :=
  let s := match f.byp with
    | some b => s.setBypAt k i f.unit b f.val
    | none => s
  s.writeLend k i f.lend f.val

/-! ### Stores of a context -/

/-- The point's launch that an operation of a context counts for (R117). -/
def State.launchOf (s : State) (k i : Nat) : Option LKey :=
  if i = 0 then (s.core k).point.map (·.l) else none

/-- A store that was refused: FENCE reports it (R181, R356). -/
def State.addFailed (s : State) (k i status addr stream : Nat) : State :=
  s.updCx k i fun c => { c with fenced := c.fenced ++ [⟨status, addr, stream⟩] }

/-- Send a STORE transaction for a context (R36) and remember it until it is answered; `wc` marks one that leaves the write-combining
buffer. Its payload is the stored bytes (log 77). -/
def State.sendStore (s : State) (k i ptag : Nat) (dst : Ep) (addr loc : Nat) (bs : List Byte) (stream op : Nat)
    (nt : Bool) (wc : Bool := false) : State :=
  s.request { ty := tyStore, priv := s.privileged k, stream := stream, ptag := ptag, src := s.epOf k, dst := dst,
              subop := if nt then 1 else 0, addr := addr, payload := bs }
    { id := 0, core := k, ctx := i, launch := s.launchOf k i, unit := 8, op := op, tag := 0, stream := stream,
      loc := loc, size := bs.length, nt := nt, nr := true, wc := wc }

/-- Cut bytes in address order into runs of adjacent ones with the same owner: first address, owner, bytes. -/
def runsBy {α β : Type} [DecidableEq β] (own : α → β) (val : α → Byte) : List (Nat × α) → List (Nat × β × List Byte)
  | [] => []
  | (a, x) :: t =>
    match runsBy own val t with
    | (a', o, bs) :: r => if a' = a + 1 ∧ o = own x then (a, o, val x :: bs) :: r else (a, own x, [val x]) :: (a', o, bs) :: r
    | [] => [(a, own x, [val x])]

/-! ### The write-combining buffer (R157) -/

/-- A line leaves the write-combining buffer, each run of bytes for the context and in the stream that stored it (R157). -/
def State.wcSend (s : State) (k ptag : Nat) (line : Nat × SMap WcByte) : State :=
  (runsBy (fun b => (b.ctx, b.stream)) WcByte.val line.2).foldl (fun s r =>
    s.sendStore k r.2.1.1 ptag s.hostEp r.1 (2 ^ 62 + r.1) r.2.2 r.2.1.2 0 false true) s
/-- The lines that `p` picks leave, oldest first. -/
def State.wcLeave (s : State) (k ptag : Nat) (p : Nat → Bool) : State :=
  let buf := (s.core k).wcb
  (buf.filter fun (x : Nat × SMap WcByte) => p x.1).foldl (fun s l => s.wcSend k ptag l)
    (s.updCore k fun c => { c with wcb := buf.filter fun (x : Nat × SMap WcByte) => !p x.1 })
/-- Empty a core's write-combining buffer: a system-scope drain or release, or a trap (R157, R176). -/
def State.wcFlush (s : State) (k ptag : Nat) : State := s.wcLeave k ptag fun _ => true
/-- Lines that hold bytes of a location leave before another access to it (R164). -/
def State.wcYield (s : State) (k ptag pa n : Nat) : State := s.wcLeave k ptag fun l => decide (pa / 64 ≤ l) && decide (l ≤ (pa + n - 1) / 64)

/-- A HOST store of MATTR 2 (R157): it merges into its 64-byte line; a full line, or the oldest when a fifth is
needed, leaves. -/
def State.wcStore (s : State) (k i ptag stream pa : Nat) : List Byte → State
  | [] => s
  | b :: t =>
    let line := pa / 64
    let buf := (s.core k).wcb
    let w : WcByte := { val := b, ctx := i, stream := stream }
    let s := match buf.find? (·.1 == line) with
      | some l =>
        let l' := (line, SMap.put l.2 pa w)
        let s := s.updCore k fun c => { c with wcb := buf.map fun (x : Nat × SMap WcByte) => if x.1 = line then l' else x }
        if l'.2.length = 64 then s.wcLeave k ptag (· == line) else s
      | none =>
        let s := match buf with
          | o :: _ => if 4 ≤ buf.length then s.wcLeave k ptag (· == o.1) else s
          | [] => s
        s.updCore k fun c => { c with wcb := c.wcb ++ [(line, [(pa, w)])] }
    s.wcStore k i ptag stream (pa + 1) t

/-! ### REMOTE lines of an L2 (R155) -/

/-- REMOTE bytes of a partition that a die's L2 holds dirty. -/
def State.remoteDirty (s : State) (die ptag : Nat) : List (Nat × L2Byte) :=
  (s.die die).l2.filter fun x => decide (2 ^ 52 ≤ x.1) && x.2.ptag == ptag
/-- Dirty REMOTE bytes of the lines that `n` bytes touch. -/
def State.remoteIn (s : State) (die key n : Nat) : List (Nat × L2Byte) :=
  (s.die die).l2.filter fun x => decide (2 ^ 52 ≤ x.1) && decide (key / 128 ≤ x.1 / 128) && decide (x.1 / 128 ≤ (key + n - 1) / 128)
/-- The die of a write-back, whose issuer is no core where no core is known to have stored its bytes. -/
def backDie (r : Req) : Nat := if l2Core 0 ≤ r.core then r.core - l2Core 0 else dieOf r.core
/-- Write-backs of a die that are not answered. -/
def State.backsOut (s : State) (die : Nat) : Bool := s.reqs.any fun r => r.back && backDie r == die
/-- Write-backs of a die to the lines that `n` bytes touch that are not answered. -/
def State.backsOn (s : State) (die key n : Nat) : Bool :=
  s.reqs.any fun r => r.back && backDie r == die && decide (key / 128 ≤ (r.loc + r.size - 1) / 128) && decide (r.loc / 128 ≤ (key + n - 1) / 128)
/-- Dirty REMOTE bytes leave a die's L2 as STOREs of the L2 (R155); each is remembered for the context that stored it. First-level
caches may keep what they showed (R154). -/
def State.remoteBack (s : State) (die : Nat) (bs : List (Nat × L2Byte)) : State :=
  let s := { s with cores := bs.foldl (fun (m : SMap Core) (x : Nat × L2Byte) => noteCores die x.1 x.2.val m) s.cores }.updDie
    die fun d => { d with l2 := d.l2.filter fun (x : Nat × L2Byte) => !(bs.any fun y => y.1 == x.1) }
  let sent := (runsBy (fun b => (b.src, b.ptag)) L2Byte.val bs).foldl (fun s r =>
    let w := r.2.1.1.getD (l2Core die, 0, 0)
    s.request { ty := tyStore, ptag := r.2.1.2, src := s.l2Ep die, dst := llcEp (keyPkg r.1) (keyPa r.1), addr := keyPa r.1, payload := r.2.2,
                poison := poisoned s.hbmPoison r.1 r.2.2.length }
      { id := 0, core := w.1, ctx := w.2.1, unit := 8, op := 0, tag := 0, stream := w.2.2, loc := r.1, size := r.2.2.length, nr := true,
        back := true }) s
  { sent with hbmPoison := sent.hbmPoison.filter fun u => !(bs.any fun x => x.1 / 16 == u) }
/-- An access of a die goes past its L2 to REMOTE bytes: dirty bytes of its lines leave first, and the L2 keeps none of them (R164). -/
def State.l2Bypass (s : State) (die key n : Nat) : State :=
  let s := (s.remoteBack die (s.remoteIn die key n)).evictRun die key n
  { s with reqs := s.reqs.map fun (r : Req) => if r.fill ≠ 0 ∧ sameLine r.loc key then { r with fill := 0 } else r }

/-! ### Where a store goes -/

/-- Whether core `q`'s scratchpad is core `k`'s own or a peer's of its cluster (R153). -/
def nearSp (k q : Nat) : Bool := decide (k < 160) && clusterOf k == clusterOf q

/-- Whether a target lies in the issuing core's own scratchpad, its local memory (R162). -/
def State.localTgt (s : State) (k : Nat) (t : Tgt) : Bool :=
  match t with
  | .sp q _ => decide (k < 160) && q == s.logical k
  | _ => false

/-- A store of a context performs in its own scratchpad, or leaves for the die's L2, the point of coherence, a peer or the
host (R153, R155-R157, R162, R165). A REMOTE byte is known to the L2 by its key. -/
def State.storeTgt (s : State) (k i ptag : Nat) (t : Tgt) (bs : List Byte) (stream op : Nat) (nt : Bool) : State :=
  let n := bs.length
  match t with
  | .sp q off =>
    if s.localTgt k t then s.spWrite q off bs (.cx k i)
    else s.sendStore k i ptag ⟨s.pkg.pkgId, q / 40, q % 40⟩ off (tgtKey t) bs stream op nt
  | .hbm pa m =>
    (s.dropL1 k pa n).sendStore k i ptag
      (if m = 0 ∧ !nt then s.l2Ep (dieOf k) else llcEp s.pkg.pkgId pa) pa (tgtKey t) bs stream op nt
  | .remote pkg pa m =>
    let s := s.dropL1 k (remoteKey pkg pa) n
    if m = 0 ∧ !nt then s.sendStore k i ptag (s.l2Ep (dieOf k)) (remoteKey pkg pa) (tgtKey t) bs stream op nt
    else (s.l2Bypass (dieOf k) (remoteKey pkg pa) n).sendStore k i ptag (llcEp pkg pa) pa (tgtKey t) bs stream op nt
  | .host pa _ m =>
    if m = 2 ∧ !nt then s.wcStore k i ptag stream pa bs
    else (s.wcYield k ptag pa n).sendStore k i ptag s.hostEp pa (tgtKey t) bs stream op nt
  | .mmio pa => s.sendStore k i ptag s.smcEp pa (tgtKey t) bs stream op nt

/-! ### What a drain waits for (R167, R168, R176) -/

/-- A write of a context that has not performed touches bytes of a location (R164). -/
def State.writeOut (s : State) (k i loc n : Nat) : Bool :=
  s.reqs.any fun r => r.core == k && r.ctx == i && (r.nr || r.unit == 15) && !r.back
    && decide (r.loc < loc + n) && decide (loc < r.loc + r.size)
def State.writePending (s : State) (loc n : Nat) : Bool := s.writeOut s.cur s.curCx loc n

/-- Requests of a context that a drain with a mask covers and that have not performed, and late loads; from package scope on the
write-backs of the die. -/
def State.covered (s : State) (k i scope mask : Nat) : Bool :=
  (s.reqs.any fun r => r.core == k && r.ctx == i && !r.back && (bitOf mask r.stream || (scope == 5 && r.nt)))
  || (decide (3 ≤ scope) && s.backsOut (dieOf k)) || (s.cx k i).flights.any fun f => f.unit == 8 && f.late

/-- Whether something of a drain's work is left: requests, the write-combining buffer at system scope, REMOTE dirty lines from package
scope on. -/
def State.unsettled (s : State) (k i scope mask : Nat) : Bool :=
  s.covered k i scope mask || (scope == 5 && !(s.core k).wcb.isEmpty)
  || (decide (3 ≤ scope) && !(s.remoteDirty (dieOf k) (s.ptagOf k)).isEmpty)
/-- What leaves at once for a drain that waits: the write-combining buffer, then REMOTE dirty lines. -/
def State.pushOut (s : State) (k scope : Nat) : State :=
  let dirty := s.remoteDirty (dieOf k) (s.ptagOf k)
  if scope = 5 ∧ !(s.core k).wcb.isEmpty then s.wcFlush k (s.ptagOf k)
  else if 3 ≤ scope ∧ !dirty.isEmpty then s.remoteBack (dieOf k) dirty else s
/-- The local lines of the core's partition are written back, from package scope on (R155). -/
def State.backLocal (s : State) (k scope : Nat) : State :=
  if 3 ≤ scope then s.writeBack (dieOf k) fun x => x.2.ptag == s.ptagOf k else s

/-! ### Segments -/

/-- Commit the open segment of a core, if context `i` owns it: its stores perform in program order (R201, R178). -/
def State.commitSeg (s : State) (k i : Nat) : State :=
  match SMap.find s.segs k with
  | none => s
  | some g =>
    if g.ctx ≠ i then s
    else g.stores.foldl (fun s x => s.storeTgt k i (s.ptagOf k) x.tgt x.bytes x.stream x.op x.nt)
      { s with segs := SMap.del s.segs k }

/-- The queued results that a rewind leaves: those at the entry, with what has come of them since (R203). -/
def redoResults (new : List QRes) (m : SMap (List QRes)) : SMap (List QRes) :=
  m.map fun x => (x.1, x.2.map fun r => (new.find? fun q => q.id == r.id).getD r)
/-- Results of other contexts that were issued since the entry, by bypass register. -/
def laterResults (g : Seg) (now : SMap (List QRes)) : SMap (List QRes) :=
  now.filterMap fun x =>
    let l := x.2.filter fun r => decide (g.startId ≤ r.id) && !g.mxHeld.contains r.id
    if l.isEmpty then none else some (x.1, l)
/-- Results of the core's shared units at a rewind. -/
def Seg.sharedJoins (g : Seg) (now : SMap (List QRes)) : SMap (List QRes) :=
  (laterResults g now).foldl (fun m x => SMap.put m x.1 (SMap.get [] m x.1 ++ x.2)) (redoResults g.results g.joins)
/-- The context that a rewind goes back to: its entry state, results in flight that were triggered before it with their data where it
has come, the queue of its system unit as it is (R203). -/
def Seg.entryCx (g : Seg) (now : Cx) : Cx :=
  { g.entry with
    desync := true, fenced := now.fenced, suspReq := now.suspReq, sysq := now.sysq, joins := redoResults g.results g.entry.joins,
    flights := g.entry.flights.map fun f => match g.arrived.find? fun x => x.seq == f.seq with
      | some x => { x with remain := f.remain }
      | none => f }
/-- Rewind a core to its segment entry (R203): registers, ports, queued results and the entry state come back, the store
buffer, held operations and the loads of the pass go, and the group meets again at the next RDV bundle (R135). -/
def State.rewindSeg (s : State) (k : Nat) : State :=
  match SMap.find s.segs k with
  | none => s
  | some g =>
    let s := s.updCore k fun c => { c.setCx g.ctx (g.entryCx (s.cx k g.ctx)) with
      v := if g.ctx = 0 then g.v else c.v, m := if g.ctx = 0 then g.m else c.m,
      ft := if g.ctx = 0 then g.ft else c.ft, ct := if g.ctx = 0 then g.ct else c.ct,
      ports := if g.ctx = 0 then g.ports else c.ports, byp := if g.ctx = 0 then g.byp else c.byp,
      joins := if g.ctx = 0 then g.sharedJoins c.joins else c.joins,
      mxq := c.mxq.filter fun q => !g.mxHeld.contains q.id, gq := c.gq.filter fun q => !g.mxHeld.contains q.id }
    { s with
      segs := SMap.put s.segs k { g with stores := [], journal := [], bundles := 0, retry := true, mxHeld := [] },
      reqs := s.reqs.filter fun r => !(r.core == k && r.ctx == g.ctx && r.unit == 8 && r.key.isSome && decide (g.startId ≤ r.id)) }

/-! ### Fencing and machine checks -/

/-- Whether a core belongs to a partition's clusters or runs its stream (R82). -/
def State.inPart (s : State) (p k : Nat) : Bool :=
  if k < 160 then (s.part p).clmask.getLsbD (clusterOf k)
  else match s.stream k with
    | some t => t.part == p
    | none => false

def freezeCx (c : Cx) : Cx := if c.run = .idle then c else { c with run := .frozen }

/-- Step 1 of R87: stream slots stop, cores freeze, store buffers go, pairing and combine entries of the partition are
discarded (R48), and its inbound requests are answered PERM from here on. -/
def State.fence (s : State) (p : Nat) : State :=
  let s := { s with
    cores := s.cores.map fun (x : Nat × Core) =>
      if s.inPart p x.1 then
        (x.1, { x.2 with cx0 := freezeCx x.2.cx0, cx1 := freezeCx x.2.cx1, cx2 := freezeCx x.2.cx2, cx3 := freezeCx x.2.cx3 })
      else x,
    segs := s.segs.filter fun (x : Nat × Seg) => !s.inPart p x.1,
    dies := s.dies.map fun (x : Nat × Die) => (x.1, { x.2 with
      streams := x.2.streams.map fun (t : Strm) => if t.part = p then { t with stopped := true } else t }),
    routers := s.routers.map fun (x : Nat × Router) => (x.1, { x.2 with
      held := x.2.held.filter fun (h : Txn × Nat) => h.1.ptag != p, combine := x.2.combine.filter fun (h : Nat × Txn × List Constituent) => h.2.1.ptag != p }) }
  s.updPart p fun x => { x with fenced := true }

/-- A partition machine check (R191). -/
def State.machineCheck (s : State) (p k cause : Nat) : State :=
  let s := (s.fence p).updPart p fun x => { x with mchk := true }
  ((s.log (.mchk p k cause)).msix p 2).2

/-! ### Taking a trap -/

/-- A field of a frame or image: offset, size in bytes, value. -/
abbrev FrameField := Nat × Nat × Nat

/-- Insert a flight by due cycle and then by slot, before those that issued later (R186). -/
def insFlight (f : Flight) : List Flight → List Flight
  | [] => [f]
  | g :: t => if f.remain < g.remain || (f.remain == g.remain && decide (f.slot ≤ g.slot)) then f :: g :: t else g :: insFlight f t

/-- The results in flight that a frame lists, in its order (R186). -/
def Cx.listed (c : Cx) : List Flight := (c.flights.filter fun f => f.byp.isSome).foldr insFlight []

/-- Where a saved value of a shared unit lies in the frame (R186): VU, MU or CB slots. -/
def savedAt (unit slot : Nat) : Option (Nat × Nat) :=
  if unit = 9 then some (0x900 + 0x80 * slot, 128)
  else if unit = 10 then some (0x2500 + 0x100 * slot, 256)
  else if unit = 14 then some (0x3D00 + 8 * slot, 8) else none

/-- Table entries and saved values of the listed results; `nv`, `nm`, `nc` count the slots of VU, MU and CB used. -/
def inflightFields : Nat → Nat → Nat → Nat → List Flight → List FrameField
  | _, _, _, _, [] => []
  | e, nv, nm, nc, f :: t =>
    let slot := if f.unit = 9 then nv else if f.unit = 10 then nm else if f.unit = 14 then nc else 0
    let saved := savedAt f.unit slot
    let entry := f.unit + f.byp.getD 0 * 2 ^ 5 + (if saved.isSome then 2 ^ 7 else 0) + f.remain % 256 * 2 ^ 8
      + (if f.lend = 0xFF then 0 else f.lend * 2 ^ 16 + 2 ^ 24) + slot * 2 ^ 25
    (0x500 + 8 * e, 8, entry)
      :: (match saved with
          | some (o, n) => [(o, n, f.val.toNat % 2 ^ (8 * n))]
          | none => [])
      ++ inflightFields (e + 1) (if f.unit = 9 then nv + 1 else nv) (if f.unit = 10 then nm + 1 else nm)
          (if f.unit = 14 then nc + 1 else nc) t

/-- A loop word of the frame (R185). -/
def loopWord (pc u : Nat) (act : Bool) : Nat := pc + u * 2 ^ 48 + (if act then 2 ^ 63 else 0)

/-- The registers of a file that are not 0, as fields: `n` registers of `w` bytes from an offset. -/
def regFields (off w n : Nat) (get : Nat → Nat) : List FrameField :=
  (List.range n).filterMap fun j => if get j = 0 then none else some (off + w * j, w, get j)

/-- The context image and in-flight table in trap-frame form (R185 words 1-15, R186). -/
def Cx.imageFields (c : Cx) : List FrameField :=
  [(8, 8, c.pc + c.upc * 2 ^ 48), (16, 8, c.vcc), (24, 4, c.repLeft), (28, 4, c.repDone), (32, 8, c.rqkey.toNat),
   (40, 8, c.rqpos.toNat),
   (48, 8, match c.pend with
     | some p => p.pc + p.upc * 2 ^ 48 + p.left * 2 ^ 60 + 2 ^ 63
     | none => 0),
   (56, 8, c.wd)]
  ++ ((List.range 4).flatMap fun n =>
      [(64 + 16 * n, 8, loopWord (c.loop n).startPc (c.loop n).startU (c.loop n).active),
       (72 + 16 * n, 8, loopWord (c.loop n).endPc (c.loop n).endU (c.loop n).active)])
  ++ regFields 0x100 8 64 (fun j => (c.getS (finOf 64 j)).toNat) ++ regFields 0x300 8 16 (fun j => (c.getK (finOf 16 j)).toNat)
  ++ regFields 0x380 8 16 (fun j => (c.getA (finOf 16 j)).toNat) ++ regFields 0x400 8 4 (fun j => (c.getLc (finOf 4 j)).toNat)
  ++ regFields 0x420 4 16 (fun j => (c.getCb (finOf 16 j)).toNat)
  ++ [(0x460, 1, (List.range 8).foldl (fun n j => n + (if c.getG (finOf 8 j) then 2 ^ j else 0)) 0)]
  ++ inflightFields 0 0 0 0 c.listed

/-- Header word 0 and D0-D7 (R185). -/
def trapFields (c : Cx) (i : Nat) (t : TrapInfo) : List FrameField :=
  (0, 4, t.cause + t.slot * 2 ^ 8 + i * 2 ^ 10 + c.listed.length * 2 ^ 24)
    :: ((List.range 8).map fun n => (128 + 8 * n, 8, (t.d.getD n 0).toNat))

/-- Write a frame or image of `n` bytes at a physical address, zero but for the fields, so that the own die and core see it (R179
step 4). -/
def State.writeImage (s : State) (k pa n : Nat) (fs : List FrameField) : State :=
  let s := s.writeBack (dieOf k) fun x => decide (pa ≤ x.1) && decide (x.1 < pa + n)
  let s := (fs.foldl (fun s f => s.hbmWrite (pa + f.1) (leBytes f.2.1 f.2.2)) (s.hbmZero pa n)).evictWithin (dieOf k) pa n
  s.updCore k fun c => { c with l1 := c.l1.dropWithin pa n }

/-- The handler installed for a cause on a core's cluster (R190), or on a stream core's own context 3 (R195). -/
def State.handler (s : State) (k cause : Nat) : Option Handler := SMap.find (s.cluster (clusterOf k)).handlers cause

/-- The frame's address (R185). -/
def frameVa (k : Nat) (h : Handler) : Nat := if k < 160 then h.dbase + 0x4000 * (k % 8) else h.dbase

/-- The physical address behind a handler's data address (R149: pinned, so found), in a page that the partition owns (R147). -/
def State.pinnedPa (s : State) (k va : Nat) : Option Nat :=
  match s.translateNow k (s.ptagOf k) va accStore with
  | .ok (.hbm pa _) _ _ => if s.ownerOk (s.ptagOf k) pa then some pa else none
  | _ => none

/-- The function whose vectors a core sends: 16 is the PF of a PF stream. -/
def State.irqPart (s : State) (k : Nat) : Nat := match s.stream k with
  | some t => if isStream k then t.part else s.ptagOf k
  | none => s.ptagOf k
/-- Host-bound writes of a core that are not answered (R86). -/
def State.hostWrites (s : State) (k : Nat) : Bool :=
  s.reqs.any fun r => (r.core == k || (r.core == goneCore && r.arg == BitVec.ofNat 64 k)) && decide (2 ^ 62 ≤ r.loc)
    && (r.nr || (decide (11 ≤ r.unit) && r.op == 2))
/-- A trap's vector, after every host-bound write that its core issued before (R86, R189). -/
def State.coreIrq (s : State) (k vec : Nat) : State :=
  if s.hostWrites k then s.updCore k fun c => { c with irqs := c.irqs ++ [(s.irqPart k, vec)] } else (s.msix (s.irqPart k) vec).2
/-- Vectors that waited go once the writes before them are answered. -/
def State.sendIrqs (s : State) : State :=
  (s.cores.filter fun (x : Nat × Core) => !x.2.irqs.isEmpty && !s.hostWrites x.1).foldl (fun (s : State) (x : Nat × Core) =>
    x.2.irqs.foldl (fun s v => (s.msix v.1 v.2).2) (s.updCore x.1 fun c => { c with irqs := [] })) s

/-- A stream stops with a code in SSTAT and vector 0 of its function (R84, R195). -/
def State.stopStream (s : State) (k code : Nat) : State :=
  let s := s.updStream k fun x => { x with stopped := true, parked := false, sstat := code }
  let s := match s.stream k with
    | some x => s.sysWrite (dieOf k) (s.ptagOf k) (x.scb + 32) (leBytes 8 code)
    | none => s
  s.coreIrq k 0

/-- Park a group for want of a handler (R189); on a stream core the stream stops (R195). -/
def State.park (s : State) (k i : Nat) (t : TrapInfo) : State :=
  let s := s.updCx k i fun c => { c with run := .parked t, pause := .none }
  if isStream k then (s.stopStream k (0x80 + t.cause)).log (.trap (s.ptagOf k) k i (0x80 + t.cause))
  else
    let s := match (s.core k).point with
      | some p => if i = 0 then s.logFault p.l t.cause p.x p.y p.z else s
      | none => s
    (s.log (.trap (s.ptagOf k) k i t.cause)).coreIrq k 1

/-- Context 3 starts at a handler's entry (R184). A frame that cannot be written is a machine check, as any trap of context 3 is (R191;
log 79). -/
def State.startHandler (s : State) (k i : Nat) (t : TrapInfo) (h : Handler) : State :=
  let va := frameVa k h
  let c := s.cx k i
  match s.pinnedPa k va with
  | none => (s.updCx k 3 fun c => { c with run := .frozen }).machineCheck (s.ptagOf k) k t.cause
  | some pa =>
  let s := (s.copyAhead (s.ptagOf k) va).writeImage k pa 0x4000 (trapFields c i t ++ c.imageFields)
  let s := s.updCx k i fun c => { c with run := .trapped, pause := .none }
  s.setCx k 3 { run := .running, pc := h.entry / 16, rqkey := (s.part (s.ptagOf k)).rngseed, rqpos := BitVec.ofNat 64 (7 * 2 ^ 56),
                arg := SMap.set 0 (SMap.set 0 (SMap.set 0 [] 0 (BitVec.ofNat 64 va)) 1 (BitVec.ofNat 64 t.cause)) 2
                  (BitVec.ofNat 64 ((if k < 160 then k % 40 else 40) * 256 + i)),
                frame := va, trapCtx := i, trapCause := t.cause, sysq := (s.cx k 3).sysq }

/-- The first fault of a queued result goes, since its trap reports it: the result of a barrier waits on (R379), any other is
gone (R183, R356). -/
def dropFault : List QRes → List QRes
  | [] => []
  | r :: t =>
    match r.fault with
    | some f => if f.cause = 0x0A then { r with fault := none } :: t else t
    | none => r :: dropFault t
def State.takeHeld (s : State) (k i : Nat) (t : TrapInfo) : State :=
  match t.held with
  | some key => s.setJoinsAt k i (key / 4) (key % 4) (dropFault (s.joinsAt k i (key / 4) (key % 4)))
  | none => s

/-- Word 1 of the barrier that a BARFAULT reports (R377, R379). -/
def barWord1 (t : TrapInfo) : Word :=
  BitVec.ofNat 64 ((t.d.getD 1 0).toNat % 2 ^ 16 + (t.d.getD 2 0).toNat % 2 ^ 32 * 2 ^ 16 + (t.d.getD 3 0).toNat % 2 ^ 16 * 2 ^ 48)
/-- The BARFAULT of a barrier's word 1 (R379). -/
def barTrap (va w1 : Nat) : TrapInfo :=
  { cause := 0x0A, d := [BitVec.ofNat 64 va, BitVec.ofNat 64 (w1 % 2 ^ 16), BitVec.ofNat 64 (bits w1 47 16),
                         BitVec.ofNat 64 (bits w1 63 56 * 256 + bits w1 55 48)] }

/-- A trap of a context goes to its handler: context 3 starts; with context 3 busy the trap waits; with no handler the group parks
(R179, R189). -/
def State.enterTrap (s : State) (k i : Nat) (t : TrapInfo) : State :=
  match s.handler k t.cause with
  | none => s.park k i t
  | some h =>
    if (s.cx k 3).run ≠ .idle then s.updCx k i fun c => { c with run := .trapPending t, pause := .none }
    else s.startHandler k i t h

/-- Taking a trap, the one shared operation (R179-R191): the segment commits, and the frame is written and context 3 starts, or what
`enterTrap` does else; in context 3 it is a machine check. -/
def State.takeTrap (s : State) (k i : Nat) (t : TrapInfo) : State :=
  let p := s.ptagOf k
  if i = 3 then (s.updCx k 3 fun c => { c with run := .frozen }).machineCheck p k t.cause
  else
    let s := (s.takeHeld k i t).commitSeg k i
    let s := s.updCx k i fun c => { c with xok := [], fenced := c.fenced.filter fun f => !bitOf t.clear f.stream }
    let s := if t.cause = 0x0A ∧ t.held = none then s.updCx k i fun c => { c with barSeen := barWord1 t :: c.barSeen } else s
    (s.wcFlush k p).enterTrap k i t

/-! ### Ending a context, and returning from a trap -/

/-- An activation ends: its queue entry is freed and its PUTH is answered OK (R130, R387). -/
def State.endActivation (s : State) (k i : Nat) : State :=
  let acts := (s.core k).acts
  let s := match acts.find? (·.running == some i) with
    | some a => s.answer a.txn stOk
    | none => s
  let s := s.updCore k fun c => { c with acts := acts.filter (·.running != some i), burst := c.cx0.run != .idle }
  s.updCx k i fun c => { c with run := .idle, pause := .none, flights := [], raise := [] }

/-- Context 0's wait at a suspension point ends when no handler runs on the core (R131, R133). -/
def State.wakeZero (s : State) (k : Nat) : State :=
  if (s.cx k 0).pause = .handlers ∧ (s.cx k 1).run = .idle ∧ (s.cx k 2).run = .idle then
    s.updCx k 0 fun c => { c with pause := .none }
  else s

/-- Whether the four engine queues of a core are empty (R389). -/
def Core.queuesEmpty (c : Core) : Bool := c.mxq.isEmpty && c.gq.isEmpty && c.atq.isEmpty && c.cpq.isEmpty

/-- Accesses of the point that its release waits for: all but non-returning atomics, and the die's write-backs at package scope (R108). -/
def State.endWaits (s : State) (k scope : Nat) : Bool :=
  (s.reqs.any fun r => r.core == k && r.ctx == 0 && !r.back && !(r.unit == 15 && r.op == 8))
  || (decide (3 ≤ scope) && s.backsOut (dieOf k)) || (s.cx k 0).flights.any fun f => f.unit == 8 && f.late
/-- The scope at which a core's point ends (R108). -/
def State.endScope (s : State) (k : Nat) : Nat := match (s.core k).point with
  | some p => s.scopeOf p.l
  | none => 2
/-- What a context that a trap return ended still has to do (R108, R187, R387): the point's queues empty and its release, or the drain of
a handler's return; then it ends. -/
def State.endStep (s : State) (k i : Nat) : State :=
  if (s.part (s.ptagOf k)).fenced then s
  else if i = 0 then
    let scope := s.endScope k
    if !(s.core k).queuesEmpty ∨ s.endWaits k scope then s
    else if 3 ≤ scope ∧ !(s.remoteDirty (dieOf k) (s.ptagOf k)).isEmpty then s.pushOut k scope
    else (s.backLocal k scope).kernelEnd k
  else if s.covered k i 3 0xFFFF then s
  else if s.unsettled k i 3 0xFFFF then s.pushOut k 3
  else (((s.backLocal k 3).evictAll (dieOf k)).endActivation k i).wakeZero k

/-- Discard the faulted entries of a queue: those left, and the causes discarded (R187 END, R332). -/
def dropFaulted (q : List QEntry) : List QEntry × List Nat :=
  (q.filter fun e => e.fault.isNone, q.filterMap fun e => e.fault.map (·.cause))
/-- Discard the faulted results that no join has read. -/
def dropFaultedRes (m : SMap (List QRes)) : SMap (List QRes) × List Nat :=
  (m.map fun x => (x.1, x.2.filter fun r => r.fault.isNone), m.flatMap fun x => x.2.filterMap fun r => r.fault.map (·.cause))

/-- The faults that a member's queues hold go, and each is logged against the launch (R187). -/
def State.dropMember (s : State) (k : Nat) : State :=
  let c := s.core k
  let m := dropFaulted c.mxq
  let g := dropFaulted c.gq
  let a := dropFaulted c.atq
  let q := dropFaulted c.cpq
  let j := dropFaultedRes c.joins
  let x := dropFaultedRes c.cx0.joins
  let s := s.updCore k fun c => { c with
    mxq := m.1, gq := g.1, atq := a.1, cpq := q.1, joins := j.1, cx0 := { c.cx0 with joins := x.1 } }
  match c.point with
  | some p => (m.2 ++ g.2 ++ a.2 ++ q.2 ++ j.2 ++ x.2).foldl (fun (s : State) n => s.logFault p.l n p.x p.y p.z) s
  | none => s
/-- The END return of context 0 (R187): the group's faulted entries go, results in flight and refused operations with them, and the
point ends once the rest is done. -/
def State.endZero (s : State) (k : Nat) : State :=
  let fenced := (s.cx k 0).fenced
  let s := (s.gangCores k).foldl State.dropMember s
  let s := match (s.core k).point with
    | some p => fenced.foldl (fun (s : State) _ => s.logDrop p.l) s
    | none => s
  s.updCx k 0 fun x => { x with run := .frozen, pause := .ending, flights := [], raise := [], fenced := [] }

/-- A context ends as if it had executed point end or handler return (R187 END). A stream core's context 0 stops. -/
def State.endCx (s : State) (k i : Nat) : State :=
  if isStream k then s.updCx k i fun c => { c with run := .idle, pause := .none }
  else if i = 0 then s.endZero k
  else s.updCx k i fun c => { c with run := .frozen, pause := .ending, flights := [], raise := [], fenced := [] }

/-- The fabric endpoint and address of a barrier word or object that a copy entry remembers: scratchpad keys start at `spBase`. -/
def State.homeOf (s : State) (key : Nat) : Ep × Nat :=
  if spBase ≤ key then (⟨s.pkg.pkgId, (key - spBase) / 2 ^ 20 / 40, (key - spBase) / 2 ^ 20 % 40⟩, (key - spBase) % 2 ^ 20)
  else (llcEp (if key < 2 ^ 52 then s.pkg.pkgId else key / 2 ^ 52 - 1) (key % 2 ^ 52), key % 2 ^ 52)

/-- A 64-bit ATOMIC of the copy queue at a barrier word (R378, R379), for entry `id`. -/
def State.sendBarAtomic (s : State) (k id key op operand rop : Nat) : State :=
  let d := s.homeOf key
  let rid := s.nextId
  let r := { s with nextId := rid + 1 }.sendReq
    { ty := tyAtomic, stream := 0, ptag := s.ptagOf k, src := s.epOf k, dst := d.1, subop := op + 16, addr := d.2,
      payload := leBytes 8 operand }
  r.1.addReq { id := rid, core := k, ctx := 0, unit := 13, op := rop, tag := r.2, stream := 0, key := some id, addr := d.2, loc := key,
               size := 8 }

/-- A RETRY of the trap that reported a copy's fault restarts the copy; a bound one first clears FAULT (R361, R379). -/
def State.restartCopy (s : State) (k : Nat) : State :=
  match (s.core k).cpq with
  | e :: t =>
    if e.fault.isSome then
      let s := s.updCore k fun c => { c with cpq := { e with fault := none, sent := false } :: t }
      match e.boundPa with
      | some key => if e.sent then s.sendBarAtomic k e.id key 7 (2 ^ 64 - 1 - 2 ^ 60) 9 else s
      | none => s
    else s
  | [] => s

/-- A field of the frame as the handler left it. -/
def State.frameWord (s : State) (k pa off n : Nat) : Nat := leNat (s.viewRead (dieOf k) (pa + off) n)

/-- A result in flight as entry `e` of the table gives it (R186, R187 step 2): its unit, bypass register, cycles left and lend, and the
value where VALSAVED is set; what the entry does not hold is that of the result `f` which stayed in its unit. -/
def State.reloadOne (s : State) (k pa e : Nat) (f : Flight) : Flight :=
  let w := s.frameWord k pa (0x500 + 8 * e) 8
  { f with
    unit := bits w 4 0, byp := some (bits w 6 5), remain := bits w 15 8, lend := if bitOf w 24 then bits w 23 16 else 0xFF,
    val := if bitOf w 7 then (match savedAt (bits w 4 0) (bits w 31 25) with
        | some (o, n) => natVal (s.frameWord k pa o n)
        | none => f.val) else f.val }
/-- The results that the table lists, as many as NINF says. -/
def State.reload (s : State) (k pa : Nat) (fs : List Flight) : List Flight :=
  (List.range (min 128 (s.frameWord k pa 3 1))).map fun e => s.reloadOne k pa e (fs.getD e { unit := 0, byp := none, val := 0, remain := 0 })
/-- Insert a flight in issue order. -/
def bySeq (f : Flight) : List Flight → List Flight
  | [] => [f]
  | g :: t => if f.seq ≤ g.seq then f :: g :: t else g :: bySeq f t

/-- The values of a register file read from the frame, `n` registers of `w` bytes from an offset, without the zeros. -/
def State.frameRegs (s : State) (k pa off w n : Nat) : List (Nat × Nat) :=
  ((List.range n).map fun j => (j, s.frameWord k pa (off + w * j) w)).filter (·.2 != 0)

/-- The context image of a frame or freeze image put back into a context (R187 steps 1 and 2, R198). -/
def State.loadImage (s : State) (k pa : Nat) (c : Cx) : Cx :=
  let w := fun off n => s.frameWord k pa off n
  let pend := w 48 8
  { c with
    s := ((s.frameRegs k pa 0x100 8 64).filter (·.1 != 0)).map fun x => (x.1, BitVec.ofNat 64 x.2),
    k := (s.frameRegs k pa 0x300 8 16).map fun x => (x.1, BitVec.ofNat 64 x.2),
    a := (s.frameRegs k pa 0x380 8 16).map fun x => (x.1, BitVec.ofNat 64 x.2),
    lc := SMap.cells 0 0 ((List.range 4).map fun j => BitVec.ofNat 32 (w (0x400 + 8 * j) 8)),
    cb := (s.frameRegs k pa 0x420 4 16).map fun x => (x.1, BitVec.ofNat 32 x.2),
    g := SMap.cells false 0 ((List.range 8).map fun j => j != 0 && bitOf (w 0x460 1) j),
    rqkey := BitVec.ofNat 64 (w 32 8), rqpos := BitVec.ofNat 64 (w 40 8), repLeft := w 24 4, repDone := w 28 4,
    pend := if bitOf pend 63 then some ⟨bits pend 47 0, bits pend 59 48, bits pend 61 60⟩ else none,
    loops := SMap.cells {} 0 ((List.range 4).map fun n =>
      { startPc := bits (w (64 + 16 * n) 8) 47 0, startU := bits (w (64 + 16 * n) 8) 59 48,
        endPc := bits (w (72 + 16 * n) 8) 47 0, endU := bits (w (72 + 16 * n) 8) 59 48,
        active := bitOf (w (72 + 16 * n) 8) 63 }),
    wd := w 56 8, flights := (s.reload k pa c.listed ++ c.flights.filter fun f => f.byp.isNone).foldr bySeq [] }

/-- The trap pending behind context 3 goes to its handler now (R179). -/
def State.nextPending (s : State) (k : Nat) : State :=
  match (s.cx k 0).run, (s.cx k 1).run, (s.cx k 2).run with
  | .trapPending t, _, _ => s.enterTrap k 0 t
  | _, .trapPending t, _ => s.enterTrap k 1 t
  | _, _, .trapPending t => s.enterTrap k 2 t
  | _, _, _ => s

/-- A context stands in a trap, or parked for want of a handler (R179, R189). -/
def Cx.inTrap (c : Cx) : Bool := match c.run with
  | .trapped => true
  | .trapPending _ => true
  | .parked _ => true
  | _ => false
/-- Another member of a core's group is in a trap, so the group's VCC is paused (R133, R179). -/
def State.groupStopped (s : State) (k : Nat) : Bool := (s.gangCores k).any fun q => q != k && (s.cx q 0).inTrap

/-- The actions of RMODE (R187 step 3): 0 RETRY, 1 SKIP, 2 END. A member of a group that is still stopped waits for its last return; the
watchdog count starts again after its trap. -/
def State.resume (s : State) (k i cause rmode : Nat) : State :=
  let go := fun (c : Cx) => { c with
    run := .running, pause := if i == 0 && s.groupStopped k then .group else .none, hold := none, wd := if cause = 0x0C then 0 else c.wd }
  match rmode with
  | 0 =>
    let s := s.updCx k i fun c => { go c with noBrk := cause == 0x0D }
    if cause = 0x0A ∨ cause = 0x0B then s.restartCopy k else s
  | 1 => s.updCx k i fun c => { go c with skip := true }
  | _ => s.endCx k i

/-- The return from a trap (R187), with the frame at the address context 3 was entered with. -/
def State.trapReturn (s : State) (k : Nat) : State :=
  let c3 := s.cx k 3
  let i := c3.trapCtx
  match s.pinnedPa k c3.frame with
  | none => s.machineCheck (s.ptagOf k) k c3.trapCause
  | some pa =>
    let rmode := bits (s.frameWord k pa 0 4) 17 16
    if rmode = 3 then (s.updCx k 3 fun c => { c with run := .frozen }).machineCheck (s.ptagOf k) k c3.trapCause
    else
      let s := s.setCx k i (s.loadImage k pa (s.cx k i))
      let s := s.setCx k 3 { sysq := (s.cx k 3).sysq }
      (s.resume k i c3.trapCause rmode).nextPending k

/-! ### Raising a trap in a bundle -/

/-- Which of two causes of a bundle is reported (R180): BRK, ILLB, ILLT and ILLREG by slot, faults by slot, and the held
fault of a join last. -/
def trapRank (t : TrapInfo) : Nat :=
  (if t.cause = 0x0D then 0 else if t.cause = 0x02 then 1 else if t.cause = 0x01 ∨ t.cause = 0x03 then 2
   else if t.held.isSome then 4 else 3) * 8 + t.slot

/-- The bundle in issue raises a trap: it is noted with the bundle, and taken. An ILLB carries this bundle's words, an
ILLREG the repetition index (R181). -/
def State.raise (s : State) (t : TrapInfo) : State :=
  let ws := s.bnd.words
  let t := { t with
    slot := if t.held.isSome then 0 else s.bnd.slot,
    d := if t.cause = 2 then [t.d.headD 0, BitVec.ofNat 64 ((slotAt ws 0).toNat + (slotAt ws 1).toNat * 2 ^ 32),
            BitVec.ofNat 64 ((slotAt ws 2).toNat + (slotAt ws 3).toNat * 2 ^ 32)]
         else if t.cause = 3 then [t.d.headD 0, BitVec.ofNat 64 s.me.repDone] else t.d }
  { s.takeTrap s.cur s.curCx t with bnd := { s.bnd with trap := some t } }

/-- The bundle in issue must wait: the pause is noted, and nothing else happens (R133). -/
def State.wait (s : State) (p : Pause) : State := { s with bnd := { s.bnd with pause := p } }

/-- ILLB with a reason, and the bundle's words (R181). -/
def illb (ws : List Slot32) (slot reason : Nat) : TrapInfo :=
  { cause := 2, slot := slot,
    d := [BitVec.ofNat 64 reason, BitVec.ofNat 64 ((slotAt ws 0).toNat + (slotAt ws 1).toNat * 2 ^ 32),
          BitVec.ofNat 64 ((slotAt ws 2).toNat + (slotAt ws 3).toNat * 2 ^ 32)] }
/-- PERM with D0 and D1 (R181). -/
def permTrap (va code : Nat) : TrapInfo := { cause := 5, d := [BitVec.ofNat 64 va, BitVec.ofNat 64 code] }
/-- ALIGN with the address and the size (R181). -/
def alignTrap (va size : Nat) : TrapInfo := { cause := 6, d := [BitVec.ofNat 64 va, BitVec.ofNat 64 size] }
/-- XLATE with the address, level and reason, and kind of access (R181). -/
def xlateTrap (va d1 acc : Nat) : TrapInfo :=
  { cause := 4, d := [BitVec.ofNat 64 va, BitVec.ofNat 64 d1, BitVec.ofNat 64 acc] }
/-- UE by a poison mark (R181, R211): D1 2, the unit's physical address, the structure, the VA. -/
def ueTrap (pa struct va : Nat) : TrapInfo :=
  { cause := 0x0E, d := [BitVec.ofNat 64 (pa / 16 * 16), 2, BitVec.ofNat 64 struct, BitVec.ofNat 64 va] }
/-- ILLREG with an index and class (R181). -/
def illregTrap (idx cls : Nat) : TrapInfo := { cause := 3, d := [BitVec.ofNat 64 (idx % 256 + cls * 256)] }
/-- The trap of a translation fault (R145). -/
def xlTrap (va acc cause d1 : Nat) : TrapInfo := if cause = 4 then xlateTrap va d1 acc else permTrap va d1

end Sys2Proof.Machine
end

