-- ==== Sys2Proof/Machine/Operands.lean ====
section
/-! DEFINITION. Guards and sources (R264-R271, R139-R140), joining reads (R125), and what every transport does around
its own effect. -/

namespace Sys2Proof.Machine

/-! ### The random generator -/

def rndM : Word := 0xB7E35A91C46D2F0B
def rndC : List Word := [0x1F2E3D4C5B6A7988, 0x2C4E6A8B0D1F3E5D, 0x7A9BC8D5E6F10243]
def rndRound (k : Word) (x c : Word) : Word :=
  let y := (x ^^^ k ^^^ c) * rndM
  y ^^^ (y >>> 31)
/-- Word `j` of the vector at position `n` (R140). -/
def rndWord (k n : Word) (j : Nat) : Nat :=
  let x := rndC.foldl (rndRound k) (n * 32 + BitVec.ofNat 64 j)
  Nat.xor (x.toNat / 2 ^ 32) (x.toNat % 2 ^ 32)
/-- The vector at position `n` (R140). -/
def rndVec (k n : Word) : Val := natVal ((List.range 32).foldl (fun v j => v + rndWord k n j * 2 ^ (32 * j)) 0)
/-- Pop the next random vector (R139, R140). -/
def State.pop (s : State) : Val × State :=
  (rndVec s.me.rqkey s.me.rqpos, s.updMe fun c => { c with rqpos := c.rqpos + 1 })

/-! ### Reading a source -/

/-- What reading a source gives: a value and the state after it, a pause (R133), or the trap of a held fault (R183). -/
inductive SrcRes where
  | ok (v : Val) (s : State)
  | wait (p : Pause)
  | trap (t : TrapInfo)

/-- The fault at the head of the queue of a unit, which a join that waits behind it raises (R332, R362). -/
def Core.headFault (c : Core) (unit : Nat) : Option TrapInfo :=
  let head := fun (q : List QEntry) => q.head?.bind fun e => e.fault
  if unit = 11 then (head c.gq).or (head c.mxq) else if unit = 12 then head c.atq else if unit = 13 then head c.cpq else none

/-- The units that a queue mask names (R172). -/
def fenceBusy (c : Core) (mask : Nat) : Bool :=
  (bitOf mask 0 && !c.mxq.isEmpty) || (bitOf mask 1 && !c.gq.isEmpty) || (bitOf mask 2 && !c.atq.isEmpty)
  || (bitOf mask 3 && !c.cpq.isEmpty)
/-- The held fault that a fence over a mask meets: at the head of one of its queues (R183). -/
def fenceFault (c : Core) (mask : Nat) : Option TrapInfo :=
  let head := fun (on : Bool) (q : List QEntry) => if on then q.head?.bind (·.fault) else none
  (head (bitOf mask 0) c.mxq).or ((head (bitOf mask 1) c.gq).or ((head (bitOf mask 2) c.atq).or (head (bitOf mask 3) c.cpq)))

/-- A trap for the fault of a queue entry, raised at a join: SLOT 0, and the entry keeps it (R185, R332). -/
def queueTrap (t : TrapInfo) : TrapInfo := { t with held := some 1000 }

/-- A joining read (R125): wait while a queued operation is producing the result; raise a fault it holds; else take the
results into the bypass register with their lends and read it. Sources are read before the bundle's own triggers fire (R123), so what
those queue is none of the read's. -/
def State.joinRead (s : State) (u b : Nat) : SrcRes :=
  let all := s.joinsAt s.cur s.curCx u b
  let mine := fun (r : QRes) => match s.bnd.start with
    | some n => decide (r.id < n)
    | none => true
  let js := all.filter mine
  match js.findSome? fun r => r.fault with
  | some t => .trap { t with held := some (u * 4 + b) }
  | none =>
    if js.all (·.done) then
      match js.getLast? with
      | none => .ok (s.bypAt s.cur s.curCx u b) s
      | some r =>
        let s := (s.setBypAt s.cur s.curCx u b r.val).setJoinsAt s.cur s.curCx u b (all.filter fun r => !mine r)
        .ok r.val (js.foldl (fun s r => if r.lend = 0xFF then s else s.lendWrite r.lend r.val) s)
    else match s.myCore.headFault u with
      | some t => .trap (queueTrap t)
      | none => .wait (.join (u * 4 + b))

/-- A small register's value (R269). A ct table is read through the selector (R263). -/
def State.readSmall (s : State) (r : SReg) : Val :=
  match r with
  | .k i => wordVal (s.me.getK i)
  | .g i => boolVal (s.me.getG i)
  | .a i => wordVal (s.me.getA i)
  | .lc i => (s.me.getLc i).setWidth 2048
  | .cb i => (s.me.getCb i).setWidth 2048
  | .ft i => (s.myCore.getFt i).setWidth 2048
  | .ct i => (s.myCore.getCt i ((selCode s.bnd.words s.bnd.slot).getD 0)).setWidth 2048

/-- The point's coordinates, where context 0 runs one (R139). -/
def State.pointCoord (s : State) (f : Point → Nat) : Val :=
  if s.curCx = 0 ∨ s.curCx = 3 then
    match s.myCore.point with
    | some p => natVal (f p)
    | none => 0
  else 0

/-- A special source (R139 Table 7), other than rnd. -/
def State.readSpecial (s : State) (c : Special) : Val :=
  match c with
  | .rnd => 0
  | .lc i => (s.me.getLc i).setWidth 2048
  | .fc => natVal s.pkg.ticks
  | .vcc => natVal s.me.vcc
  | .ptx => s.pointCoord (·.x)
  | .pty => s.pointCoord (·.y)
  | .ptz => s.pointCoord (·.z)
  | .core => if s.cur < 160 then natVal (s.cur % 40) else 0
  | .clus => if s.cur < 160 then natVal (clusterOf s.cur) else 0
  | .ctx => natVal s.curCx
  | .arg i => wordVal (s.me.argv i.val)

/-- A register selector applied to a v register (R263 Table 4): a 64-bit element. -/
def selV (sel : Option Nat) (v : Vec) : Val :=
  match sel with
  | some x => if x = 0xFF then v.setWidth 2048 else natVal (bits v.toNat (64 * (x % 16) + 63) (64 * (x % 16)))
  | none => v.setWidth 2048
/-- A lane selector applied to an m register (R263 Table 4): the lane's 64-bit pair. -/
def selM (sel : Option Nat) (v : Val) : Val :=
  match sel with
  | some x => if x = 0xFF then v else natVal (bits v.toNat (64 * (x % 32) + 63) (64 * (x % 32)))
  | none => v

/-- Read a transport's source (R123, R267). `whole`: the destination takes all 2,048 bits of an MU bypass register
(R316). A csrw of RQKEY or RQPOS that is pending makes a read of rnd late (R385). -/
def State.readSrc (s : State) (whole : Bool) (src : Src) : SrcRes :=
  match src with
  | .s i => .ok (wordVal (s.me.getS i)) s
  | .v i => .ok (selV (selCode s.bnd.words s.bnd.slot) (s.myCore.getV i)) s
  | .m i => .ok (selM (selCode s.bnd.words s.bnd.slot) (s.myCore.getM i)) s
  | .small r => .ok (s.readSmall r) s
  | .byp u j i =>
    let cut := fun (v : Val) => if u = .mu && !whole then (v.setWidth 1024).setWidth 2048 else v
    if j then
      match s.joinRead u.id i.val with
      | .ok v s' => .ok (cut v) s'
      | r => r
    else .ok (cut (s.bypAt s.cur s.curCx u.id i.val)) s
  | .imm n => .ok (wordVal (immValue s.bnd.words s.bnd.slot n)) s
  | .special .rnd =>
    if s.me.sysq.any fun e => decide (5 ≤ e.op) && decide (e.op ≤ 7) && decide (e.a.toNat % 4096 ≤ 1) then .wait .sysEntry
    else .ok s.pop.1 s.pop.2
  | .special c => .ok (s.readSpecial c) s

/-! ### Acting -/

/-- The guard (R265), read as the context's registers stand at issue. -/
def State.guard (s : State) (g : Guard) : Bool := xor (s.me.getG g.gr) g.gn

/-- Whether a transport acts: its guard is true, and a seq transport of a repeated bundle is in the last repetition
(R123, R288). -/
def State.acts (s : State) (t : Tr) (seq : Bool) : Bool := s.guard t.g && (!seq || s.bnd.repSeq)

/-- What every transport does (R123): with a false guard, nothing; else it reads its source and has its effect on the
value, or the bundle waits, or the source's held fault is raised. -/
def State.acting (s : State) (t : Tr) (seq whole : Bool) (f : Val → State → State) : Host.Outcome State Fault Refusal :=
  if s.acts t seq then
    match s.readSrc whole t.src with
    | .ok v s' => .next (f v s')
    | .wait p => .next (s.wait p)
    | .trap ti => .next (s.raise ti)
  else .next s

/-- REGISTER_FILE_WRITE (R271): the value is fitted to the register when the bundle's cycle ends; the write is kept over
lends, and a higher slot's over a lower one's. -/
def execRegisterFileWrite (d : RegDst) (t : Tr) (s : State) : Host.Outcome State Fault Refusal :=
  s.acting t false (match d with | .m _ => true | _ => false) fun v s =>
    { s with bnd := { s.bnd with writes := s.bnd.writes ++ [(d, selCode s.bnd.words s.bnd.slot, v)] } }

/-- A register-file write becomes visible (R271); writes to s0 and g0 are discarded, ct is written at the selector's
entry (R263). -/
def State.applyWrite (s : State) (k i : Nat) (w : RegDst × Option Nat × Val) : State :=
  match w.1 with
  | .s r => s.updCx k i fun c => c.setS r (valWord w.2.2)
  | .v r => s.updCore k fun c => c.setV r (w.2.2.setWidth 1024)
  | .m r => s.updCore k fun c => c.setM r w.2.2
  | .small (.k r) => s.updCx k i fun c => c.setK r (valWord w.2.2)
  | .small (.g r) => s.updCx k i fun c => c.setG r (w.2.2.getLsbD 0)
  | .small (.a r) => s.updCx k i fun c => c.setA r (valWord w.2.2)
  | .small (.lc r) => s.updCx k i fun c => c.setLc r (w.2.2.setWidth 32)
  | .small (.cb r) => s.updCx k i fun c => c.setCb r (w.2.2.setWidth 32)
  | .small (.ft r) => s.updCore k fun c => c.setFt r (w.2.2.setWidth 16)
  | .small (.ct r) => s.updCore k fun c => c.setCt r (w.2.1.getD 0) (w.2.2.setWidth 32)

/-- OPERAND_PORT_WRITE (R123): the port holds the value until it is next written. -/
def execOperandPortWrite (u : FUnit) (p : Fin 4) (t : Tr) (s : State) : Host.Outcome State Fault Refusal :=
  s.acting t (u == .seq) (u == .mu) fun v s => s.setOpPort u p.val v

/-- Operands b = o1, c = o0, d = o2, e = o3 of a unit as words (R276, R331, R352, R382). -/
def State.opB (s : State) (u : FUnit) : Word := valWord (s.opPort u 1)
def State.opC (s : State) (u : FUnit) : Word := valWord (s.opPort u 0)
def State.opD (s : State) (u : FUnit) : Word := valWord (s.opPort u 2)
def State.opE (s : State) (u : FUnit) : Word := valWord (s.opPort u 3)

end Sys2Proof.Machine
end

