-- ==== Sys2Proof/Machine/Flags.lean ====
section
/-! DEFINITION. Conditions: carry, borrow, clamping and compares of the integer units (R293), in-bounds (R295), and the
bounded waits' test of a guard (R292). -/

namespace Sys2Proof.Machine

/-- Carry out of the unsigned sum (R293). -/
def carryOut (a b : Word) : Bool := decide (2 ^ 64 ≤ a.toNat + b.toNat)
/-- Borrow: a below b, unsigned (R293). -/
def borrowOut (a b : Word) : Bool := decide (a.toNat < b.toNat)
/-- An integer clamped to the signed 64-bit range (R293). -/
def clamp64 (x : Int) : Int := if x < -(2 ^ 63) then -(2 ^ 63) else if 2 ^ 63 - 1 < x then 2 ^ 63 - 1 else x
def clamped (x : Int) : Bool := decide (clamp64 x ≠ x)
/-- The compares of alu (R293). -/
def cmpEq (a b : Word) : Bool := decide (a = b)
def cmpNe (a b : Word) : Bool := !decide (a = b)
def cmpLt (a b : Word) : Bool := decide (a.toInt < b.toInt)
def cmpLe (a b : Word) : Bool := decide (a.toInt ≤ b.toInt)
def cmpLtu (a b : Word) : Bool := decide (a.toNat < b.toNat)
def cmpLeu (a b : Word) : Bool := decide (a.toNat ≤ b.toNat)
def cmpBit (a b : Word) : Bool := a.getLsbD (b.toNat % 64)
/-- A flag as a 64-bit result (R293). -/
def flagWord (x : Bool) : Word := if x then 1 else 0
/-- In-bounds of a generator (R295). -/
def inBounds (base limit x : Word) : Bool := limit = 0 || decide ((x - base).toNat < limit.toNat)
/-- The guard that sel, waitg and waitng read, by number. -/
def State.guardN (s : State) (n : Word) : Bool := s.me.getG (finOf 8 (n.toNat % 8))

end Sys2Proof.Machine
end

