-- ==== Sys2Proof/Machine/Agu.lean ====
section
/-! DEFINITION. The address unit (R295): four generators in the a registers; latency 1; no operation faults. -/

namespace Sys2Proof.Machine

/-- Generator n := c[1:0], and register j of its group (R295). -/
def State.aguN (s : State) : Nat := (s.opC .agu).toNat % 4
def State.aguReg (s : State) (j : Nat) : Word := s.me.getA (finOf 16 (4 * s.aguN + j))
/-- Lend code of register j of the generator (R261 Table 3): its writes rank as lends. -/
def State.aguCode (s : State) (j : Nat) : Nat := 0xB0 + 4 * s.aguN + j

/-- An address trigger: b0 := the address, b1 := whether it is in bounds. -/
def State.aguAddr (s : State) (t : Tr) (f : Word → State → Word) : Host.Outcome State Fault Refusal :=
  s.acting t false false fun v s =>
    let x := f (valWord v) s
    (s.result .agu 0 1 (wordVal x)).result1 .agu 1 1 (boolVal (inBounds (s.aguReg 0) (s.aguReg 3) x))

/-- AGU_SET (R295): a(4n) to a(4n + 3) := a, b, d, e; b0 := a. -/
def execAguSet (t : Tr) (s : State) : Host.Outcome State Fault Refusal :=
  s.acting t false false fun v s =>
    let s' := s.result .agu 0 1 (wordVal (valWord v))
    let s' := s'.lendWrite (s.aguCode 0) (wordVal (valWord v))
    let s' := s'.lendWrite (s.aguCode 1) (wordVal (s.opB .agu))
    let s' := s'.lendWrite (s.aguCode 2) (wordVal (s.opD .agu))
    s'.lendWrite (s.aguCode 3) (wordVal (s.opE .agu))

/-- AGU_LIN (R295): base + a * stride. -/
def execAguLin (t : Tr) (s : State) : Host.Outcome State Fault Refusal :=
  s.aguAddr t fun a s => s.aguReg 0 + a * s.aguReg 1

/-- AGU_TILE (R295): base + a * stride + b. -/
def execAguTile (t : Tr) (s : State) : Host.Outcome State Fault Refusal :=
  s.aguAddr t fun a s => s.aguReg 0 + a * s.aguReg 1 + s.opB .agu

/-- AGU_ARENA (R295): base + b * slot size + a * stride. -/
def execAguArena (t : Tr) (s : State) : Host.Outcome State Fault Refusal :=
  s.aguAddr t fun a s => s.aguReg 0 + s.opB .agu * s.aguReg 2 + a * s.aguReg 1

/-- AGU_CHK (R295): b0 := in bounds, b1 := a - base. -/
def execAguChk (t : Tr) (s : State) : Host.Outcome State Fault Refusal :=
  s.acting t false false fun v s =>
    (s.result .agu 0 1 (boolVal (inBounds (s.aguReg 0) (s.aguReg 3) (valWord v)))).result1 .agu 1 1
      (wordVal (valWord v - s.aguReg 0))

/-- AGU_STEP (R295): b0 and a(4n) := base + a. -/
def execAguStep (t : Tr) (s : State) : Host.Outcome State Fault Refusal :=
  s.acting t false false fun v s =>
    let x := wordVal (s.aguReg 0 + valWord v)
    (s.result .agu 0 1 x).lendWrite (s.aguCode 0) x

end Sys2Proof.Machine
end

