-- ==== Sys2Proof/Machine/Alu.lean ====
section
/-! DEFINITION. The integer units alu0 and alu1 (R293, R294): operands a (the trigger value), b = o1, c = o0; latency 1,
or 3 for the multiplies. -/

namespace Sys2Proof.Machine

/-- A trigger of alu with one result (R293). -/
def State.aluOp (s : State) (u : AluSel) (t : Tr) (lat : Nat) (f : Word → Word → Word → State → Word) :
    Host.Outcome State Fault Refusal :=
  s.acting t false false fun v s =>
    s.result u.unit 0 lat (wordVal (f (valWord v) (s.opB u.unit) (s.opC u.unit) s))

/-- A trigger of alu that also writes a flag to b1 (R293). -/
def State.aluOp2 (s : State) (u : AluSel) (t : Tr) (f : Word → Word → Word) (g : Word → Word → Bool) :
    Host.Outcome State Fault Refusal :=
  s.acting t false false fun v s =>
    (s.result u.unit 0 1 (wordVal (f (valWord v) (s.opB u.unit)))).result1 u.unit 1 1
      (boolVal (g (valWord v) (s.opB u.unit)))

/-- Bits [127:64] of a product (R293). -/
def mulHigh (a b : Int) : Word := BitVec.ofInt 64 (a * b / 2 ^ 64)
/-- The length in bits of a number. -/
def bitLen (n : Nat) : Nat := if n = 0 then 0 else Nat.log2 n + 1
/-- Trailing zeros among `n` bits. -/
def trailing (a : Word) : Nat → Nat
  | 0 => 0
  | n + 1 => if a.getLsbD (63 - n) then 63 - n else if n = 0 then 64 else trailing a n
/-- Set bits among the low `n`. -/
def popCount (a : Nat) : Nat → Nat
  | 0 => 0
  | n + 1 => a % 2 + popCount (a / 2) n
/-- pos := b[5:0] and len := min(b[14:8], 64) (R294). -/
def bfPos (b : Word) : Nat := b.toNat % 64
def bfLen (b : Word) : Nat := min (b.toNat / 256 % 128) 64
/-- The field of a, extended to 128 bits, at pos of len bits (R294). -/
def bfField (signed : Bool) (a : Word) (pos len : Nat) : Word :=
  let x : BitVec 128 := if signed then a.signExtend 128 else a.setWidth 128
  BitVec.ofNat 64 (x.toNat / 2 ^ pos % 2 ^ len)
/-- bfxs: the field sign-extended from bit len - 1; 0 for len = 0 (R294). -/
def bfSigned (a : Word) (pos len : Nat) : Word :=
  let f := (bfField true a pos len).toNat
  if len ≠ 0 ∧ 2 ^ (len - 1) ≤ f then BitVec.ofNat 64 (2 ^ 64 - 2 ^ len + f) else BitVec.ofNat 64 f
/-- bfi (R294). -/
def bfInsert (a c : Word) (pos len : Nat) : Word :=
  let m : Word := BitVec.ofNat 64 ((2 ^ len - 1) * 2 ^ pos)
  (c &&& ~~~m) ||| ((a <<< pos) &&& m)

/-- ALU_ADD (R293): a + b; b1 := the carry out. -/
def execAluAdd (u : AluSel) (t : Tr) (s : State) : Host.Outcome State Fault Refusal :=
  s.aluOp2 u t (fun a b => a + b) fun a b => carryOut a b

/-- ALU_SUB (R293): a - b; b1 := the borrow. -/
def execAluSub (u : AluSel) (t : Tr) (s : State) : Host.Outcome State Fault Refusal :=
  s.aluOp2 u t (fun a b => a - b) fun a b => borrowOut a b

/-- ALU_MUL (R293): bits [63:0] of a * b, latency 3. -/
def execAluMul (u : AluSel) (t : Tr) (s : State) : Host.Outcome State Fault Refusal :=
  s.aluOp u t 3 fun a b _ _ => a * b

/-- ALU_MULH (R293): bits [127:64] of the signed product, latency 3. -/
def execAluMulh (u : AluSel) (t : Tr) (s : State) : Host.Outcome State Fault Refusal :=
  s.aluOp u t 3 fun a b _ _ => mulHigh a.toInt b.toInt

/-- ALU_MULHU (R293): bits [127:64] of the unsigned product, latency 3. -/
def execAluMulhu (u : AluSel) (t : Tr) (s : State) : Host.Outcome State Fault Refusal :=
  s.aluOp u t 3 fun a b _ _ => mulHigh a.toNat b.toNat

/-- ALU_AND (R293): a & b. -/
def execAluAnd (u : AluSel) (t : Tr) (s : State) : Host.Outcome State Fault Refusal :=
  s.aluOp u t 1 fun a b _ _ => a &&& b

/-- ALU_OR (R293): a | b. -/
def execAluOr (u : AluSel) (t : Tr) (s : State) : Host.Outcome State Fault Refusal :=
  s.aluOp u t 1 fun a b _ _ => a ||| b

/-- ALU_XOR (R293): a ^ b. -/
def execAluXor (u : AluSel) (t : Tr) (s : State) : Host.Outcome State Fault Refusal :=
  s.aluOp u t 1 fun a b _ _ => a ^^^ b

/-- ALU_ANDN (R293): a & ~b. -/
def execAluAndn (u : AluSel) (t : Tr) (s : State) : Host.Outcome State Fault Refusal :=
  s.aluOp u t 1 fun a b _ _ => a &&& ~~~b

/-- ALU_SHL (R293): a shifted left by b[5:0]. -/
def execAluShl (u : AluSel) (t : Tr) (s : State) : Host.Outcome State Fault Refusal :=
  s.aluOp u t 1 fun a b _ _ => a <<< (b.toNat % 64)

/-- ALU_SHR (R293): a shifted right logically by b[5:0]. -/
def execAluShr (u : AluSel) (t : Tr) (s : State) : Host.Outcome State Fault Refusal :=
  s.aluOp u t 1 fun a b _ _ => a >>> (b.toNat % 64)

/-- ALU_SAR (R293): a shifted right arithmetically by b[5:0]. -/
def execAluSar (u : AluSel) (t : Tr) (s : State) : Host.Outcome State Fault Refusal :=
  s.aluOp u t 1 fun a b _ _ => a.sshiftRight (b.toNat % 64)

/-- ALU_ROL (R293): a rotated left by b[5:0]. -/
def execAluRol (u : AluSel) (t : Tr) (s : State) : Host.Outcome State Fault Refusal :=
  s.aluOp u t 1 fun a b _ _ => a.rotateLeft (b.toNat % 64)

/-- ALU_MIN (R293): signed minimum. -/
def execAluMin (u : AluSel) (t : Tr) (s : State) : Host.Outcome State Fault Refusal :=
  s.aluOp u t 1 fun a b _ _ => if cmpLt b a then b else a

/-- ALU_MAX (R293): signed maximum. -/
def execAluMax (u : AluSel) (t : Tr) (s : State) : Host.Outcome State Fault Refusal :=
  s.aluOp u t 1 fun a b _ _ => if cmpLt a b then b else a

/-- ALU_MINU (R293): unsigned minimum. -/
def execAluMinu (u : AluSel) (t : Tr) (s : State) : Host.Outcome State Fault Refusal :=
  s.aluOp u t 1 fun a b _ _ => if cmpLtu b a then b else a

/-- ALU_MAXU (R293): unsigned maximum. -/
def execAluMaxu (u : AluSel) (t : Tr) (s : State) : Host.Outcome State Fault Refusal :=
  s.aluOp u t 1 fun a b _ _ => if cmpLtu a b then b else a

/-- ALU_SEL (R293): a if g(c[2:0]) xor c[3] = 1, else b; the guard is read in the issue cycle. -/
def execAluSel (u : AluSel) (t : Tr) (s : State) : Host.Outcome State Fault Refusal :=
  s.aluOp u t 1 fun a b c s => if xor (s.guardN c) (c.getLsbD 3) then a else b

/-- ALU_BFX (R293): the field of a at b[5:0] of length b[14:8], zero-extended (R294). -/
def execAluBfx (u : AluSel) (t : Tr) (s : State) : Host.Outcome State Fault Refusal :=
  s.aluOp u t 1 fun a b _ _ => bfField false a (bfPos b) (bfLen b)

/-- ALU_BFXS (R293): as bfx, sign-extended (R294). -/
def execAluBfxs (u : AluSel) (t : Tr) (s : State) : Host.Outcome State Fault Refusal :=
  s.aluOp u t 1 fun a b _ _ => bfSigned a (bfPos b) (bfLen b)

/-- ALU_BFI (R293): a inserted into c at b[5:0] of length b[14:8] (R294). -/
def execAluBfi (u : AluSel) (t : Tr) (s : State) : Host.Outcome State Fault Refusal :=
  s.aluOp u t 1 fun a b c _ => bfInsert a c (bfPos b) (bfLen b)

/-- ALU_CLZ (R293): leading zeros of a; 64 for 0. -/
def execAluClz (u : AluSel) (t : Tr) (s : State) : Host.Outcome State Fault Refusal :=
  s.aluOp u t 1 fun a _ _ _ => BitVec.ofNat 64 (64 - bitLen a.toNat)

/-- ALU_CTZ (R293): trailing zeros of a; 64 for 0. -/
def execAluCtz (u : AluSel) (t : Tr) (s : State) : Host.Outcome State Fault Refusal :=
  s.aluOp u t 1 fun a _ _ _ => BitVec.ofNat 64 (trailing a 64)

/-- ALU_POPC (R293): set bits of a. -/
def execAluPopc (u : AluSel) (t : Tr) (s : State) : Host.Outcome State Fault Refusal :=
  s.aluOp u t 1 fun a _ _ _ => BitVec.ofNat 64 (popCount a.toNat 64)

/-- ALU_LIMM (R293): (a << 32) | b[31:0]. -/
def execAluLimm (u : AluSel) (t : Tr) (s : State) : Host.Outcome State Fault Refusal :=
  s.aluOp u t 1 fun a b _ _ => (a <<< 32) ||| BitVec.ofNat 64 (b.toNat % 2 ^ 32)

/-- ALU_ADDSAT (R293): signed a + b clamped; b1 := 1 if clamped. -/
def execAluAddsat (u : AluSel) (t : Tr) (s : State) : Host.Outcome State Fault Refusal :=
  s.aluOp2 u t (fun a b => BitVec.ofInt 64 (clamp64 (a.toInt + b.toInt))) fun a b => clamped (a.toInt + b.toInt)

/-- ALU_SUBSAT (R293): signed a - b clamped; b1 := 1 if clamped. -/
def execAluSubsat (u : AluSel) (t : Tr) (s : State) : Host.Outcome State Fault Refusal :=
  s.aluOp2 u t (fun a b => BitVec.ofInt 64 (clamp64 (a.toInt - b.toInt))) fun a b => clamped (a.toInt - b.toInt)

/-- ALU_CEQ (R293): 1 if a = b, else 0. -/
def execAluCeq (u : AluSel) (t : Tr) (s : State) : Host.Outcome State Fault Refusal :=
  s.aluOp u t 1 fun a b _ _ => flagWord (cmpEq a b)

/-- ALU_CNE (R293): 1 if a and b differ, else 0. -/
def execAluCne (u : AluSel) (t : Tr) (s : State) : Host.Outcome State Fault Refusal :=
  s.aluOp u t 1 fun a b _ _ => flagWord (cmpNe a b)

/-- ALU_CLT (R293): 1 if a < b signed, else 0. -/
def execAluClt (u : AluSel) (t : Tr) (s : State) : Host.Outcome State Fault Refusal :=
  s.aluOp u t 1 fun a b _ _ => flagWord (cmpLt a b)

/-- ALU_CLE (R293): 1 if a <= b signed, else 0. -/
def execAluCle (u : AluSel) (t : Tr) (s : State) : Host.Outcome State Fault Refusal :=
  s.aluOp u t 1 fun a b _ _ => flagWord (cmpLe a b)

/-- ALU_CLTU (R293): 1 if a < b unsigned, else 0. -/
def execAluCltu (u : AluSel) (t : Tr) (s : State) : Host.Outcome State Fault Refusal :=
  s.aluOp u t 1 fun a b _ _ => flagWord (cmpLtu a b)

/-- ALU_CLEU (R293): 1 if a <= b unsigned, else 0. -/
def execAluCleu (u : AluSel) (t : Tr) (s : State) : Host.Outcome State Fault Refusal :=
  s.aluOp u t 1 fun a b _ _ => flagWord (cmpLeu a b)

/-- ALU_CBIT (R293): bit b[5:0] of a. -/
def execAluCbit (u : AluSel) (t : Tr) (s : State) : Host.Outcome State Fault Refusal :=
  s.aluOp u t 1 fun a b _ _ => flagWord (cmpBit a b)

end Sys2Proof.Machine
end

