-- ==== Sys2Proof/Machine/Seq.lean ====
section
/-! DEFINITION. The sequencer (R276-R292, R136). A seq trigger notes its effect with the bundle in issue; the bundle's end
(Machine/Bundle.lean) chooses the next bundle under R282. -/

namespace Sys2Proof.Machine

/-- Whether the acting context runs a macro (R136). -/
def State.inMacro (s : State) : Bool := decide (s.me.upc ≠ 0)

/-- A taken transfer, noted with the bundle: target macro PC and micro PC (R280). -/
def State.transfer (s : State) (pc upc : Nat) : State := { s with bnd := { s.bnd with xfer := some (pc, upc) } }

/-- Targets (R279): relative and absolute; inside a macro they are control-store indices, held plus 1. -/
def State.relTarget (s : State) (a : Word) : Nat × Nat :=
  if s.inMacro then (s.me.pc, ((s.me.upc - 1 : Nat) + a.toNat) % 1024 + 1) else ((s.me.pc + a.toNat) % 2 ^ 48, 0)
def State.absTarget (s : State) (a : Word) : Nat × Nat :=
  if s.inMacro then (s.me.pc, a.toNat % 1024 + 1) else (a.toNat % 2 ^ 48, 0)
/-- The return point (R281). -/
def State.returnPoint (s : State) : Val :=
  if s.inMacro then natVal ((s.me.upc - 1 + 3) % 1024) else natVal ((s.me.pc + 3) % 2 ^ 48)

/-- What every seq trigger does around its effect on operand a. -/
def State.seqOp (s : State) (t : Tr) (f : Word → State → State) : Host.Outcome State Fault Refusal :=
  s.acting t true false fun v s => f (valWord v) s

/-- SEQ_JMP (R278, R279): transfer to PC + a. -/
def execSeqJmp (t : Tr) (s : State) : Host.Outcome State Fault Refusal :=
  s.seqOp t fun a s => s.transfer (s.relTarget a).1 (s.relTarget a).2

/-- SEQ_JMPR (R278, R279): transfer to a. -/
def execSeqJmpr (t : Tr) (s : State) : Host.Outcome State Fault Refusal :=
  s.seqOp t fun a s => s.transfer (s.absTarget a).1 (s.absTarget a).2

/-- SEQ_CALL (R281): as jmp, and b0 := the return point. -/
def execSeqCall (t : Tr) (s : State) : Host.Outcome State Fault Refusal :=
  s.seqOp t fun a s => (s.transfer (s.relTarget a).1 (s.relTarget a).2).result .seq 0 1 s.returnPoint

/-- SEQ_CALLR (R281): as jmpr, and b0 := the return point. -/
def execSeqCallr (t : Tr) (s : State) : Host.Outcome State Fault Refusal :=
  s.seqOp t fun a s => (s.transfer (s.absTarget a).1 (s.absTarget a).2).result .seq 0 1 s.returnPoint

/-- SEQ_RET (R278): as jmpr. -/
def execSeqRet (t : Tr) (s : State) : Host.Outcome State Fault Refusal :=
  s.seqOp t fun a s => s.transfer (s.absTarget a).1 (s.absTarget a).2

/-- The bundle `n` places after the acting one, in the macro or in memory (R282: PC is the pair). -/
def State.placeAfter (s : State) (n : Nat) : Nat × Nat :=
  if s.inMacro then (s.me.pc, s.me.upc + n) else ((s.me.pc + n) % 2 ^ 48, 0)

/-- SEQ_LOOP (R283): counter n := b[1:0], body length c[11:0] + 1, count a[31:0]; the writes are visible at t + 1. -/
def execSeqLoop (t : Tr) (s : State) : Host.Outcome State Fault Refusal :=
  s.seqOp t fun a s =>
    let n := (s.opB .seq).toNat % 4
    let len := (s.opC .seq).toNat % 4096 + 1
    let count := a.toNat % 2 ^ 32
    let st := s.placeAfter 1
    let en := s.placeAfter len
    let after := s.placeAfter (len + 1)
    if count = 0 then
      { s with bnd := { s.bnd with loopW := [(n, { s.me.loop n with active := false }, 0)], loopSkip := some after } }
    else
      { s with bnd := { s.bnd with loopW := [(n, ⟨st.1, st.2, en.1, en.2, true⟩, BitVec.ofNat 32 (count - 1))] } }

/-- SEQ_LOOPX (R285): clear the active bit of the lowest-indexed active loop, before this bundle's loop-end test. -/
def execSeqLoopx (t : Tr) (s : State) : Host.Outcome State Fault Refusal :=
  s.seqOp t fun _ s => { s with bnd := { s.bnd with loopx := true } }

/-- SEQ_REP (R286): the next bundle issues a[31:0] times; inside a repeated bundle it has no effect (R288). -/
def execSeqRep (t : Tr) (s : State) : Host.Outcome State Fault Refusal :=
  s.seqOp t fun a s =>
    if 0 < s.me.repLeft then s else { s with bnd := { s.bnd with rep := some (a.toNat % 2 ^ 32) } }

/-- SEQ_MCALL (R136): record the return point and enter the control store after two delay bundles. A csw of the core that
is pending makes it wait (R395). -/
def execSeqMcall (t : Tr) (s : State) : Host.Outcome State Fault Refusal :=
  s.seqOp t fun a s =>
    if (s.myCore.cx0.sysq).any fun e => e.op == 0x15 then s.wait .sysEntry
    else s.transfer s.me.pc (a.toNat % 1024 + 1)

/-- SEQ_MRET (R136, R284): resume at the bundle after the delay slots of the call; loops of the macro end. -/
def execSeqMret (t : Tr) (s : State) : Host.Outcome State Fault Refusal :=
  s.seqOp t fun _ s =>
    let s := s.transfer ((s.me.pc + 3) % 2 ^ 48) 0
    { s with bnd := { s.bnd with mret := true } }

/-- SEQ_SUSP (R289): set the suspend request of context 0 of a core. -/
def execSeqSusp (t : Tr) (s : State) : Host.Outcome State Fault Refusal :=
  s.seqOp t fun _ s => if s.curCx = 0 ∧ !isStream s.cur then s.updMe fun c => { c with suspReq := true } else s

/-- SEQ_RDV (R290): its bundle is a rendezvous bundle; b0 := the agreed VCC. -/
def execSeqRdv (t : Tr) (s : State) : Host.Outcome State Fault Refusal :=
  s.seqOp t fun _ s =>
    if s.curCx = 0 ∧ 1 < (s.gangCores s.cur).length ∧ !s.me.rdvPass then s.wait .rdv
    else s.result .seq 0 1 (natVal s.me.vcc)

/-- SEQ_BRK (R291): BRK with D0 = 4, the slot's bit and operand a, unless this issue follows the RETRY of a BRK. -/
def execSeqBrk (t : Tr) (s : State) : Host.Outcome State Fault Refusal :=
  s.seqOp t fun a s =>
    if s.me.noBrk then s
    else s.raise { cause := 0x0D, slot := s.bnd.slot, d := [4, BitVec.ofNat 64 (2 ^ s.bnd.slot), a] }

/-- A holding wait (R292, R353): its test, its limit and its QTIMEOUT are noted with the bundle. -/
def State.holdOn (s : State) (ok : Bool) (limit : Nat) (d : List Word) : State :=
  { s with bnd := { s.bnd with waits := s.bnd.waits ++ [(ok, limit, { cause := 0x09, slot := s.bnd.slot, d := d })] } }

/-- SEQ_WAITG (R292): the bundle issues only when guard c[2:0] reads 1. -/
def execSeqWaitg (t : Tr) (s : State) : Host.Outcome State Fault Refusal :=
  s.seqOp t fun a s =>
    let l := a.toNat % 2 ^ 32
    s.holdOn (s.guardN (s.opC .seq)) l [BitVec.ofNat 64 (0x100 + (s.opC .seq).toNat % 8), 0, 0, BitVec.ofNat 64 l]

/-- SEQ_WAITNG (R292): the bundle issues only when guard c[2:0] reads 0. -/
def execSeqWaitng (t : Tr) (s : State) : Host.Outcome State Fault Refusal :=
  s.seqOp t fun a s =>
    let l := a.toNat % 2 ^ 32
    s.holdOn (!s.guardN (s.opC .seq)) l [BitVec.ofNat 64 (0x108 + (s.opC .seq).toNat % 8), 0, 0, BitVec.ofNat 64 l]

end Sys2Proof.Machine
end

