-- ==== Sys2Proof/Machine/Bundle.lean ====
section
/-! DEFINITION. A bundle: fetching it (R136, R151, R257), checking it (R180, R193, R258, R274), the segment and rendezvous
conditions around it (R135, R200-R202), the end of its cycle (R124, R271) and the next bundle (R280-R288). What a
transport does is passed in as `run`, which Machine/Step.lean gives as `exec`. -/

namespace Sys2Proof.Machine

/-! ### Fetch -/

inductive FetchRes where
  | words (ws : List Slot32)
  | wait (p : Pause)
  | trap (t : TrapInfo)

/-- The four slots of 16 bundle bytes, lowest first (R257). -/
def slotsOf (x : Nat) : List Slot32 :=
  [BitVec.ofNat 32 x, BitVec.ofNat 32 (x / 2 ^ 32), BitVec.ofNat 32 (x / 2 ^ 64), BitVec.ofNat 32 (x / 2 ^ 96)]

/-- Fetch the acting context's bundle: a micro-bundle of the control store inside a macro (R136), else memory through the
instruction cache (R151, R154). -/
def State.fetch (s : State) : FetchRes :=
  let c := s.me
  if 1024 < c.upc then .trap (illb [] 0 13)
  else if c.upc ≠ 0 then .words (slotsOf (SMap.get 0 s.myCore.cstore (c.upc - 1)).toNat)
  else
    let va := c.pc * 16
    let p := s.ptagOf s.cur
    match s.translateMe va accFetch with
    | .miss => .wait (.xlate va accFetch 0)
    | .fault cause d1 => .trap (xlTrap va accFetch cause d1)
    | .ok (.hbm pa _) _ _ =>
      if !s.ownerOk p pa then .trap (permTrap va 4)
      else if poisoned s.hbmPoison pa 16 then .trap (ueTrap pa 7 va)
      else .words (slotsOf (leNat (s.cachedRead s.myCore.icache (dieOf s.cur) pa 16)))
    | .ok _ _ _ => .trap (permTrap va 3)

/-- The instruction-cache and L2 line of the bundle is filled (R154, R155). -/
def State.fillFetch (s : State) : State :=
  if s.me.upc ≠ 0 then s
  else
    let p := s.ptagOf s.cur
    match s.translateMe (s.me.pc * 16) accFetch with
    | .ok (.hbm pa _) _ _ =>
      (s.updMyCore fun c => { c with icache := c.icache.fill pa p }).updDie (dieOf s.cur) fun d =>
        { d with clean := d.clean.fill pa p }
    | _ => s

/-! ### Checks before any transport acts -/

/-- The slots whose transport acts (R265); before the last repetition of a repeated bundle the guard of a seq transport counts as
false (R288). -/
def State.trueSlots (s : State) (ws : List Slot32) : List Nat :=
  (liveSlots ws).filter fun k => s.guard (slotGuard (slotAt ws k)) && (slotUnit (slotAt ws k) != FUnit.seq.id || decide (s.me.repLeft ≤ 1))

/-- Whether breakpoint `n` matches the bundle, and the slots it matches (R193). -/
def State.bpMatch (s : State) (ws : List Slot32) (n : Nat) : Option Nat :=
  let a := (SMap.get 0 s.myCore.bpa n).toNat
  let c := (SMap.get 0 s.myCore.bpc n).toNat
  let hit := (s.trueSlots ws).filter fun k => bitOf (bits a 63 60) k
  if bitOf c 35 && (!bitOf c 36 || s.curCx == 0) && bits a 47 0 == s.me.pc && bits a 59 48 == s.me.upc && !hit.isEmpty
      && (!bitOf c 34 || (s.me.getLc (finOf 4 (bits c 33 32))).toNat == bits c 31 0)
  then some (hit.foldl (fun m k => m + 2 ^ k) 0) else none

/-- The hardware breakpoint a bundle meets, lowest first (R193). -/
def State.breakpoint (s : State) (ws : List Slot32) : Option TrapInfo :=
  if s.me.noBrk then none
  else [0, 1, 2, 3].findSome? fun n => (s.bpMatch ws n).map fun m =>
    { cause := 0x0D, d := [BitVec.ofNat 64 n, BitVec.ofNat 64 m] }

/-- The first slot whose transport is a brk with a true guard (R291). -/
def State.swBreak (s : State) (ws : List Slot32) : Option (Nat × Instr) :=
  if s.me.noBrk then none
  else (s.trueSlots ws).findSome? fun k => match decodeSlot (slotAt ws k) with
    | .ok (.seqBrk t) => some (k, .seqBrk t)
    | _ => none

/-- ILLT or ILLREG of a slot as a trap (R181): D1 the slot's word for ILLT, the repetition index for ILLREG. -/
def slotTrap (ws : List Slot32) (k rep : Nat) (e : DecErr) : TrapInfo :=
  match e with
  | .illt u => { cause := 1, slot := k, d := [BitVec.ofNat 64 u, BitVec.ofNat 64 (slotAt ws k).toNat] }
  | .illreg i c => { cause := 3, slot := k, d := [BitVec.ofNat 64 (i % 256 + c * 256), BitVec.ofNat 64 rep] }
  | .illb r => illb ws k r
  | .empty => illb ws k 0

/-- The word of slot `k` in repetition `j` of a repeated bundle (R287), or the class it would leave (R188). -/
def stepSlot (c j k : Nat) (w : Slot32) : Except DecErr Slot32 :=
  let stepOf := fun n => if n = 0 then 0 else 2 ^ (n - 1)
  let ds := j * stepOf (bits c (2 * k + 1) (2 * k))
  let dd := j * stepOf (bits c (2 * k + 9) (2 * k + 8))
  let file := bits (slotSv w) 9 8
  let src := slotSk w == 0 && decide (file < 3)
  let dst := decide (slotUnit w < 3)
  let lim := fun f => if f = 2 then 16 else 64
  let i1 := bits (slotSv w) 7 0 + ds
  let i2 := slotOp w + dd
  if dst && decide (lim (slotUnit w) ≤ i2) then .error (.illreg i2 (slotUnit w))
  else if src && decide (lim file ≤ i1) then .error (.illreg i1 file)
  else .ok (BitVec.ofNat 32 (w.toNat + (if src then ds else 0) + (if dst then dd * 2 ^ 12 else 0)))

/-- The header of a repeated bundle in repetition `j`: its lends step with the destination codes (R287). -/
def stepHeader (c j : Nat) (h : Slot32) : Except (Nat × DecErr) Slot32 :=
  if hdrKind h ≠ 0 then .ok h
  else [1, 2, 3].foldl (fun (r : Except (Nat × DecErr) Slot32) k =>
    match r with
    | .error e => .error e
    | .ok w =>
      let n := bits c (2 * k + 9) (2 * k + 8)
      let dd := j * (if n = 0 then 0 else 2 ^ (n - 1))
      let x := hdrX h k
      if 0x90 ≤ x then .ok w
      else if (x < 0x40 ∧ 0x40 ≤ x + dd) ∨ (0x40 ≤ x ∧ x < 0x80 ∧ 0x80 ≤ x + dd) ∨ (0x80 ≤ x ∧ 0x90 ≤ x + dd) then
        .error (k, .illreg (if x < 0x40 then x + dd else if x < 0x80 then x + dd - 0x40 else x + dd - 0x80) (x / 0x40))
      else .ok (BitVec.ofNat 32 (w.toNat + dd * 2 ^ (8 * k - 4)))) (.ok h)

/-- The repeated bundle in repetition `j`, with its stepped fields (R286, R287), and the lowest slot with a register that leaves its
class. Empty slots and slots with bit 31 set are left alone. -/
def stepWords (c j : Nat) (ws : List Slot32) : List Slot32 × Option (Nat × DecErr) :=
  let live := ruleSlots ws
  let hdr := (headerOf ws).isSome
  let head := stepHeader c j (slotAt ws 0)
  let own := fun k => if live.contains k && !(k == 0 && hdr) then stepSlot c j k (slotAt ws k) else .ok (slotAt ws k)
  let word := fun k =>
    if k = 0 ∧ hdr then (match head with
      | .ok w => w
      | .error _ => slotAt ws 0)
    else match own k with
      | .ok w => w
      | .error _ => slotAt ws k
  let bad := [0, 1, 2, 3].findSome? fun k => match own k with
    | .error e => some (k, e)
    | .ok _ => if hdr then (match head with
        | .error (n, e) => if n = k then some (k, e) else none
        | .ok _ => none) else none
  ([word 0, word 1, word 2, word 3], bad)

/-- Reason 14: a csw in a macro of the core; reason 15 and others arise in the meanings (R136, R274, R395). -/
def State.cswInMacro (s : State) (ws : List Slot32) : Bool :=
  ([0, 1, 2, 3].any fun i => (s.cx s.cur i).run != .idle && (s.cx s.cur i).upc != 0) && (ruleSlots ws).any fun k => slotUnit (slotAt ws k) == 0x10 && slotOp (slotAt ws k) == 0x15

/-- The decode checks of a bundle (R180 ranks 2 and 3, R258), with the register of a repetition that leaves its class (R188). -/
def State.decodeTrap (s : State) (ws : List Slot32) (step : Option (Nat × DecErr)) : Option TrapInfo :=
  match minOf (bundleReasons s.inMacro ws ++ (if s.cswInMacro ws then [14] else [])) with
  | some r => some (illb ws 0 r)
  | none =>
    let found := firstSlotCause s.curCx (isStream s.cur) (Config.freeWord 0).toNat ws (liveSlots ws)
    let first : Option (Nat × DecErr) := match found, step with
      | some x, some y => if x.1 < y.1 then some x else some y
      | x, y => x.or y
    first.map fun x => slotTrap ws x.1 s.me.repDone x.2

/-! ### Segments around a bundle -/

/-- A trigger of a unit with an OP that `p` picks, whatever its guard. -/
def hasTrig (ws : List Slot32) (unit : Nat) (p : Nat → Bool) : Bool :=
  (ruleSlots ws).any fun k => slotUnit (slotAt ws k) == unit && decide (4 ≤ slotOp (slotAt ws k)) && p (slotOp (slotAt ws k))

/-- Bundles that commit an open segment before they issue, and run outside it (R201 Table 1). -/
def endsSegment (ws : List Slot32) : Bool :=
  hasTrig ws 15 (fun _ => true) || hasTrig ws 12 (fun _ => true) || hasTrig ws 13 (fun _ => true)
  || hasTrig ws 16 (fun o => o != 4 && o != 0xE) || hasTrig ws 14 (fun o => o == 6 || o == 7)
  || hasTrig ws 8 (fun o => (decide (0x20 ≤ o) && decide (o ≤ 0x25)) || (decide (0x29 ≤ o) && decide (o ≤ 0x2D)))
  || (match headerOf ws with
      | some h => hdrSusp h
      | none => false)

/-- A join in the bundle of a result that was issued inside the segment (R201). -/
def State.joinsInside (s : State) (ws : List Slot32) (startId : Nat) : Bool :=
  (s.trueSlots ws).any fun k => match decodeSrc (slotSk (slotAt ws k)) (slotSv (slotAt ws k)) with
    | .ok (.byp u true i) => (s.joinsAt s.cur s.curCx u.id i.val).any fun r => decide (startId ≤ r.id)
    | _ => false

/-- The stores a bundle adds to the buffer at most: one, or one per active lane of a scatter (R202). -/
def State.storesIn (s : State) (ws : List Slot32) : Nat :=
  if hasTrig ws 8 (fun o => o == 0x13) then ((List.range 32).filter fun j => (s.opC .lsu).getLsbD j).length
  else if hasTrig ws 8 (fun o => decide (0xC ≤ o) && decide (o ≤ 0x11)) then 1 else 0

/-- A segment opens at the bundle (R200): what the entry state and the journal hold. -/
def State.openSeg (s : State) : State :=
  let c := s.myCore
  let g : Seg :=
      ({ ctx := s.curCx, entry := s.me, v := c.v, m := c.m, ft := c.ft, ct := c.ct, ports := c.ports, byp := c.byp,
         joins := c.joins, startId := s.nextId } : Seg)
  { s with segs := SMap.put s.segs s.cur g }

/-- An issue that would wait on a full MX or gather queue whose entries the segment holds (R201). -/
def State.heldFull (s : State) (ws : List Slot32) (g : Seg) : Bool :=
  let c := s.myCore
  let full := fun (q : List QEntry) n => decide (n ≤ q.length) && q.any fun e => g.mxHeld.contains e.id
  (hasTrig ws 11 (fun o => o != 0xE && o != 0x13 && o != 0x14 && o != 0x16) && full c.mxq 32)
  || (hasTrig ws 11 (fun o => o == 5 || o == 0x16) && full c.gq 8)
/-- What a bundle does to the segment of its core before it issues (R200, R201). -/
def State.segBefore (s : State) (ws : List Slot32) : State :=
  let flag := s.curCx != 3 && s.me.repDone == 0 && (match headerOf ws with
    | some h => hdrSeg h
    | none => false)
  match SMap.find s.segs s.cur with
  | none => if flag then s.openSeg else s
  | some g =>
    if g.ctx ≠ s.curCx then (if flag then (s.commitSeg s.cur g.ctx).openSeg else s)
    else if flag ∧ g.bundles = 0 then s
    else if endsSegment ws then (if flag then (s.commitSeg s.cur s.curCx).openSeg else s.commitSeg s.cur s.curCx)
    else if flag || s.joinsInside ws g.startId || (hasTrig ws 11 (fun o => o == 0xE || o == 0x13) && !g.mxHeld.isEmpty)
        || decide (256 < g.stores.length + s.storesIn ws) || s.heldFull ws g
    then (s.commitSeg s.cur s.curCx).openSeg
    else s

/-- The registers a bundle's cycle writes, as journal entries (R202): codes of lends and writes, ports and bypasses; 2,048 bits take
two. A result from before the segment takes one more for its value. -/
def writeKeys (w : RegDst × Option Nat × Val) : List Nat :=
  match w.1 with
  | .s i => [i.val] | .v i => [0x40 + i.val] | .m i => [0x80 + i.val, 0x180 + i.val]
  | .small r => [0x200 + r.code + (match r with | .ct _ => 0x1000 + 0x100 * (w.2.1.getD 0) | _ => 0)]
def wideKeys (unit base key : Nat) : List Nat := if unit = 10 then [base + key, base + 0x400 + key] else [base + key]
def flightKeys (before : Nat) (f : Flight) : List Nat :=
  (match f.byp with | some b => wideKeys f.unit 0x800 (f.unit * 4 + b) | none => [])
  ++ (if f.lend = 0xFF then [] else if 0x80 ≤ f.lend ∧ f.lend < 0x90 then [f.lend, 0x100 + f.lend] else [f.lend])
  ++ (if f.seq < before then [0x10000 + f.seq] else [])
def addKeys (j ks : List Nat) : List Nat := ks.foldl (fun j k => if j.contains k then j else j ++ [k]) j
/-- The ports that a bundle writes and the bypass registers that its joins fill. -/
def State.portKeys (s : State) (ws : List Slot32) : List Nat :=
  (s.trueSlots ws).flatMap fun k =>
    let w := slotAt ws k
    (if 4 ≤ slotUnit w ∧ slotOp w < 4 then wideKeys (slotUnit w) 0x4000 (slotUnit w * 4 + slotOp w) else [])
    ++ (match decodeSrc (slotSk w) (slotSv w) with
      | .ok (.byp u true i) => if (s.joinsAt s.cur s.curCx u.id i.val).isEmpty then [] else wideKeys u.id 0x800 (u.id * 4 + i.val)
      | _ => [])

/-! ### The end of a cycle and the next bundle -/

/-- Flights one cycle on: those that land now, and those still in flight (R124). -/
def tickFlights (fs : List Flight) : List Flight × List Flight :=
  let gs := fs.map fun f => { f with remain := f.remain - 1 }
  (gs.filter fun f => f.remain == 0 && !f.late, gs.filter fun f => f.remain != 0 || f.late)

/-- Results land in the order their triggers issued, so that the later one is kept (R124, R271). The trap of a faulted one is raised at
the next bundle: a load then delivers nothing (R356), a NEGVAR result is written as computed (R320). -/
def State.landAll (s : State) (k i : Nat) (fs : List Flight) : State :=
  fs.foldl (fun s f => match f.fault with
    | some t => (if t.cause = 7 then s.land k i f else s).updCx k i fun c => { c with raise := c.raise ++ [t] }
    | none => s.land k i f) s

/-- The register that a write names, by its lend code. -/
def dstCode : RegDst → Option Nat
  | .s i => some i.val | .v i => some (0x40 + i.val) | .m i => some (0x80 + i.val)
  | .small (.k i) => some (0x90 + i.val) | .small (.g i) => some (0xA0 + i.val) | .small (.a i) => some (0xB0 + i.val)
  | .small (.lc i) => some (0xC0 + i.val) | .small _ => none
/-- What a result writes when it lands: its bypass register and its lent register, each with its rank, the order of issue. -/
def Flight.marks (f : Flight) : List (Nat × Nat) :=
  (match f.byp with | some b => [(0x800 + f.unit * 4 + b, f.seq)] | none => []) ++ (if f.lend = 0xFF then [] else [(f.lend, f.seq)])
/-- What a late result still writes: a register that a later-issued result, or a register-file write, of its cycle has written keeps
that (R124, R133, R271). -/
def Flight.kept (f : Flight) (wrote : List (Nat × Nat)) : Flight :=
  let lost := fun key => wrote.any fun w => w.1 == key && decide (f.seq < w.2)
  { f with byp := f.byp.filter fun b => !lost (0x800 + f.unit * 4 + b), lend := if lost f.lend then 0xFF else f.lend }
/-- The rank of a register-file write, over every result. -/
def writeRank : Nat := 2 ^ 64
/-- The results of a context move on by one VCC cycle, in which its bundle makes the register-file writes `ws`. Late data pauses the
VCC after its due cycle (R133). -/
def State.tickCx (s : State) (k i : Nat) (ws : List (RegDst × Option Nat × Val)) : State :=
  let r := tickFlights (s.cx k i).flights
  let due := r.2.any fun f => f.late && f.remain == 0
  let s := s.updCx k i fun c => { c with
    flights := r.2, vcc := c.vcc + 1, wd := c.wd + 1, rqbuf := min 4 (c.rqbuf + 1), pause := if due then .late else c.pause,
    wrote := if due then r.1.flatMap Flight.marks ++ ws.filterMap fun w => (dstCode w.1).map fun n => (n, writeRank) else [] }
  ws.foldl (fun s w => s.applyWrite k i w) (s.landAll k i r.1)

/-- The place after (macro PC, micro PC) (R282). -/
def Cx.after (c : Cx) : Nat × Nat := if c.upc ≠ 0 then (c.pc, c.upc + 1) else ((c.pc + 1) % 2 ^ 48, 0)

/-- The loop-end test of R282, from the inner loop outwards. -/
def loopTest (c : Cx) : List Nat → Cx × Option (Nat × Nat)
  | [] => (c, none)
  | n :: t =>
    let l := c.loop n
    if l.active && l.endPc == c.pc && l.endU == c.upc then
      if (c.getLc (finOf 4 n)) ≠ 0 then (c.setLc (finOf 4 n) (c.getLc (finOf 4 n) - 1), some (l.startPc, l.startU))
      else loopTest (c.setLoop n { l with active := false }) t
    else loopTest c t

/-- The next bundle after one that issued at (pc, upc), outside a repetition (R282): `xfer` the transfer it issued,
`skip` the place after a loop it started with count 0. -/
def Cx.next (c : Cx) (xfer skip : Option (Nat × Nat)) : Cx :=
  let sq := skip.getD c.after
  match xfer with
  | some t => { c with pc := sq.1, upc := sq.2, pend := some ⟨t.1, t.2, 2⟩ }
  | none =>
    match c.pend with
    | some p =>
      if p.left ≤ 1 then { c with pc := p.pc, upc := p.upc, pend := none }
      else { c with pc := sq.1, upc := sq.2, pend := some { p with left := p.left - 1 } }
    | none =>
      if skip.isSome then { c with pc := sq.1, upc := sq.2 }
      else
        let r := loopTest c [0, 1, 2, 3]
        let nx := r.2.getD c.after
        { r.1 with pc := nx.1, upc := nx.2 }

/-- loopx: the lowest-indexed active loop becomes inactive (R285). -/
def dropLoop (c : Cx) : List Nat → Cx
  | [] => c
  | n :: t => if (c.loop n).active then c.setLoop n { c.loop n with active := false } else dropLoop c t

/-- The sequencer's part of a bundle's end (R282-R288): loopx, the repetition or the next bundle, a repetition of count
0, mret's loops, and the loop that the bundle started. -/
def Cx.sequence (c : Cx) (b : Bnd) : Cx :=
  let c := if b.loopx then dropLoop c [0, 1, 2, 3] else c
  let c :=
    if 1 < c.repLeft then { c with repLeft := c.repLeft - 1, repDone := c.repDone + 1 }
    else
      let c := c.next b.xfer b.loopSkip
      let c := { c with repLeft := 0, repDone := 0 }
      match b.rep with
      | none => c
      | some 0 => c.next none none
      | some n => { c with repLeft := n, repDone := 0 }
  let c := if b.mret then { c with loops := (c.loops.filter fun (x : Nat × Loop) => x.2.startU == 0) } else c
  b.loopW.foldl (fun c w => (c.setLoop w.1 w.2.1).setLc (finOf 4 w.1) w.2.2) c

/-- Whether a suspension of the core's group is asked (R289, R114, R90). -/
def State.suspWanted (s : State) (k : Nat) : Bool :=
  (s.gangCores k).any fun q => (s.core q).suspReq || (s.cx q 0).suspReq || match (s.core q).point with
    | some p => (s.part p.l.ptag).stopFire
    | none => false

/-- The next activation in queue order may start, where context 0 lets it (R130, R131). -/
def State.actEligible (s : State) (k : Nat) : Bool :=
  let c := s.core k
  !c.burst && !c.freezeReq && match c.acts.find? fun a => a.running.isNone with
    | some a => if a.hint = 0 then c.cx1.run == .idle || c.cx2.run == .idle else (c.cx a.hint).run == .idle
    | none => false

/-- Context 0 has issued a bundle flagged SUSP (R131, R192, R196, R289): the watchdog count starts again, a burst of
handlers may run, and a suspension that is asked begins. -/
def State.suspPoint (s : State) (k i : Nat) : State :=
  let s := s.updCx k i fun c => { c with wd := 0 }
  if i ≠ 0 ∨ isStream k then s
  else
    let s := s.updCore k fun c => { c with burst := false }
    if s.suspWanted k then s.updCx k 0 fun c => { c with pause := .suspending }
    else if s.actEligible k then s.updCx k 0 fun c => { c with pause := .handlers }
    else s

/-- The stream core has run the bundle at HEAD and advances HEAD by 16 (R83, R84), by 32 over a bundle that a REP of count 0 skips; the
SCB's HEAD follows. At TAIL the stream parks, and past it it stops with code 2. A macro or a repetition ends first. -/
def State.moveHead (s : State) (k : Nat) (skips : Bool) : State :=
  if isStream k ∧ s.curCx = 0 ∧ (s.cx k 0).upc = 0 ∧ (s.cx k 0).repLeft = 0 then
    let s := s.updStream k fun t => { t with head := t.head + (if skips then 32 else 16) }
    match s.stream k with
    | some t =>
      let s := s.updCx k 0 fun c => { c with pc := (t.base + t.head % t.size) / 16, pend := none }
      let s := s.sysWrite (dieOf k) (s.ptagOf k) (t.scb + 24) (leBytes 8 t.head)
      if t.head < t.tail then s
      else if t.head = t.tail then s.updStream k fun t => { t with parked := true }
      else s.stopStream k 2
    | none => s
  else s

/-- The end of the cycle of a bundle that has acted (EMPTY_BUNDLE is one with nothing to do): the sequencer, results and
register writes, the VCC and the counts, then the ends that the bundle asked for. -/
def State.finishBundle (s : State) : State :=
  let k := s.cur
  let i := s.curCx
  let b := s.bnd
  let susp := s.me.repDone == 0 && (match headerOf b.words with
    | some h => hdrSusp h
    | none => false)
  let s := s.updMe fun c => { c.sequence b with
    noBrk := false, skip := false, rdvPass := false, hold := none, barSeen := [], peek := [], cpyGot := none, xok := [], acted := none }
  let s := s.tickCx k i b.writes
  let s := match SMap.find s.segs k with
    | some g => if g.ctx = i then { s with segs := SMap.put s.segs k { g with bundles := g.bundles + 1 } } else s
    | none => s
  let s := s.moveHead k (b.rep == some 0)
  let s := { s.updCore k fun c => { c with sig := false } with bnd := {} }
  let s := if susp then s.suspPoint k i else s
  let s := if b.halt then s.updCx k i fun c => { c with run := .halted } else s
  match b.ended with
  | 0 => s
  | 1 => s.kernelEnd k
  | 2 => s.trapReturn k
  | _ => (s.endActivation k i).wakeZero k

/-- A cycle in which a holding wait's bundle did not issue (R292, R353): the VCC and the results move on. -/
def State.holdCycle (s : State) (start : Nat) : State :=
  let s := s.updMe fun c => { c with hold := some start, peek := [] }
  { s.tickCx s.cur s.curCx [] with bnd := {} }

/-! ### Issue -/

/-- Vectors that a transport with a true guard pops (R139, R312-R314, R328): its source, then its operation. -/
def popsOf (w : Slot32) : Nat :=
  (if slotSk w = 3 ∧ slotSv w = 0 then 1 else 0)
  + (if slotUnit w = 9 ∧ slotOp w = 0x58 then 3 else if slotUnit w = 9 ∧ slotOp w = 0x59 then 1
     else if slotUnit w = 10 ∧ slotOp w = 0x0F then 3 else 0)

/-- The pops of the slots below `n` (R139: in slot order). -/
def State.popsBelow (s : State) (ws : List Slot32) (n : Nat) : Nat :=
  (((s.trueSlots ws).filter fun k => decide (k < n)).map fun k => popsOf (slotAt ws k)).foldl (· + ·) 0

/-- VU triggers in the slots below `n` (R127). -/
def vuBelow (ws : List Slot32) (n : Nat) : Nat :=
  ((ruleSlots ws).filter fun k => decide (k < n) && slotUnit (slotAt ws k) == 9 && decide (4 ≤ slotOp (slotAt ws k))).length

/-- A store of the lsu, or an operation of the queue unit: it acts after the loads of its bundle (R165). -/
def isStoring (w : Slot32) : Bool :=
  slotUnit w == 15 || slotUnit w == 8 && (decide (0xC ≤ slotOp w) && decide (slotOp w ≤ 0x11) || slotOp w == 0x13
    || decide (0x20 ≤ slotOp w) && decide (slotOp w ≤ 0x25))
/-- A drain goes after the stores of lower slots. -/
def isDrain (w : Slot32) : Bool := slotUnit w == 8 && decide (0x28 ≤ slotOp w) && decide (slotOp w ≤ 0x2D)
/-- The order in which slots act: operand-port writes first (R123), stores and queue operations after the loads (R165),
otherwise slot order. -/
def slotOrder (ws : List Slot32) : List Nat :=
  let port := fun k => decide (4 ≤ slotUnit (slotAt ws k)) && decide (slotOp (slotAt ws k) < 4)
  let rest := (liveSlots ws).filter fun k => !port k
  let late := fun k => isStoring (slotAt ws k) || isDrain (slotAt ws k) && rest.any fun j => decide (j < k) && isStoring (slotAt ws j)
  (liveSlots ws).filter port ++ (rest.filter fun k => !late k) ++ rest.filter late

/-! ### Waits -/

/-- Whether a wait of a context for what has been issued goes on (R38, R133, R164, R167, R172, R179). -/
def State.stillWaits (s : State) (k i : Nat) (p : Pause) : Bool :=
  let c := s.core k
  match p with
  | .prior => s.reqs.any fun r => r.core == k && r.ctx == i && !r.back && (r.acq.isSome || r.nr || r.unit == 15)
  | .drain scope mask => s.unsettled k i scope mask
  | .flush key n => s.writeOut k i key n || !(s.remoteIn (dieOf k) key n).isEmpty || s.backsOn (dieOf k) key n
  | .fence m => (fenceFault c m).isNone && (fenceBusy c m || (bitOf m 4 && s.endWaits k (s.endScope k)))
  | .group => s.groupStopped k
  | .full 0 => decide (2048 ≤ s.unanswered (dieOf k))
  | _ => true

/-- The trap that is reported of two (R180); of two ILLB the lower reason (R274). -/
def worse (a : Option TrapInfo) (b : TrapInfo) : Option TrapInfo :=
  match a with
  | none => some b
  | some x =>
    if x.cause = 2 ∧ b.cause = 2 then (if (x.d.headD 0).toNat ≤ (b.d.headD 0).toNat then some x else some b)
    else if trapRank x ≤ trapRank b then some x else some b

/-- What running the slots has found: the state, the trap, the waits, and the slots that have acted. -/
structure Ran where
  st : State
  trap : Option TrapInfo := none
  pauses : List Pause := []
  done : List Nat := []

/-! ### Signatures of protected pairs (R207) -/

/-- CRC-64 with polynomial 0x42F0_E1EB_A9EA_3693, initial value 0, no reflection and no final exclusive-or. -/
def crc64Bit (c : Nat) : Nat := let x := c * 2 % 2 ^ 64; if c < 2 ^ 63 then x else Nat.xor x 0x42F0E1EBA9EA3693
def crc64Byte (c : Nat) (b : Byte) : Nat :=
  crc64Bit (crc64Bit (crc64Bit (crc64Bit (crc64Bit (crc64Bit (crc64Bit (crc64Bit (Nat.xor c (b.toNat * 2 ^ 56)))))))))
def crc64 (bs : List Byte) : Nat := bs.foldl crc64Byte 0
/-- The stores that slot `n` has buffered and the requests it has sent since `t`, with address and data. -/
def State.noteSent (s t : State) (n : Nat) : State :=
  if !(s.part (s.ptagOf s.cur)).prot then s
  else
    let stores := fun (x : State) => ((SMap.find x.segs x.cur).map fun (g : Seg) => g.stores).getD []
    let data := fun (r : Req) => ((s.outst.find? fun o => o.uid == r.tag).map fun (o : Outst) => o.txn.payload).getD []
    { s with bnd := { s.bnd with sent := s.bnd.sent ++ ((stores s).drop (stores t).length).map (fun (x : SegStore) => (n, x.va, x.bytes))
        ++ (s.reqs.drop t.reqs.length).map fun (r : Req) => (n, r.addr, data r) } }
/-- What the signature of the acting context's bundle is taken over; the widths of the items are log 97's. -/
def State.sigItems (s : State) : List Byte :=
  let landed := (tickFlights s.me.flights).1
  leBytes 8 s.me.pc ++ leBytes 8 s.me.upc
    ++ ((List.range 32).flatMap fun u => (landed.filter fun f => f.unit == u).flatMap fun f => match f.byp with
      | some b => leBytes 1 u ++ leBytes 1 b ++ leBytes 256 f.val.toNat
      | none => [])
    ++ (List.range 4).flatMap fun n => (s.bnd.sent.filter fun x => x.1 == n).flatMap fun x => leBytes 8 x.2.1 ++ x.2.2
/-- A core of a protected pair folds a bundle into its signature at commit. -/
def State.sign (s : State) : State :=
  if (s.part (s.ptagOf s.cur)).prot then s.updMyCore fun c => { c with sigv := BitVec.ofNat 64 (crc64 s.sigItems) } else s

/-- Run one slot: a trap or a pause that it finds is noted, and the slot's own effect is not kept then. -/
def runSlot (run : Instr → State → Host.Outcome State Fault Refusal) (base : Word) (ws : List Slot32) (r : Ran) (n : Nat) :
    Host.Outcome Ran Fault Refusal :=
  match decodeSlot (slotAt ws n) with
  | .error _ => .next r
  | .ok i =>
    let s := { r.st with bnd := { r.st.bnd with slot := n, vuk := vuBelow ws n, trap := none, pause := .none } }
    let s := s.updMe fun c => { c with rqpos := base + BitVec.ofNat 64 (s.popsBelow ws n) }
    match run i s with
    | .fault f => .fault f
    | .refused f => .refused f
    | .next s' =>
      match s'.bnd.trap with
      | some t => .next { r with trap := worse r.trap t }
      | none => if s'.bnd.pause ≠ .none then .next { r with pauses := r.pauses ++ [s'.bnd.pause] }
                else .next { r with st := s'.noteSent r.st n, done := n :: r.done }

/-- Run the slots of a bundle. -/
def runSlots (run : Instr → State → Host.Outcome State Fault Refusal) (base : Word) (ws : List Slot32) :
    List Nat → Ran → Host.Outcome Ran Fault Refusal
  | [], r => .next r
  | n :: t, r =>
    match runSlot run base ws r n with
    | .next r' => runSlots run base ws t r'
    | .fault f => .fault f
    | .refused f => .refused f

/-- The bundle waits: the context is paused, and nothing of the bundle stays (R133). -/
def State.pauseCx (s : State) (p : Pause) : State :=
  { s.updMe fun c => { c with pause := p } with bnd := {} }
/-- Whether an error consumed now rewinds the acting context's open segment (R203, R204). -/
def State.canRewind (s : State) : Bool :=
  match SMap.find s.segs s.cur with
  | some g => g.ctx == s.curCx && !g.retry
  | none => false
/-- The bundle traps: the trap is taken from the state before it (R179). Poisoned or erroneous data that a segment consumes
rewinds the segment once instead (R203, R204). -/
def State.trapNow (s : State) (t : TrapInfo) : State :=
  if t.cause = 0x0E ∧ s.canRewind then { s.rewindSeg s.cur with bnd := {} }
  else { (s.updMe fun c => { c with raiseNow := true }).takeTrap s.cur s.curCx t with bnd := {} }

/-- The fault of a delivered result that waits to be raised is raised now, or else the step goes on (R320, R356). -/
def State.orRaise (s : State) (f : State → Host.Outcome State Fault Refusal) : Host.Outcome State Fault Refusal :=
  match s.me.raise with
  | t :: rest => .next ((s.updMe fun c => { c with raise := rest }).trapNow t)
  | [] => f s

/-- The journal entries that a bundle takes (R202): `s` before it, `t` after its transports. -/
def State.bundleKeys (s t : State) (ws : List Slot32) (g : Seg) : List Nat :=
  let c := t.me.sequence t.bnd
  t.bnd.writes.flatMap writeKeys ++ (tickFlights t.me.flights).1.flatMap (flightKeys g.entry.seq) ++ s.portKeys ws
  ++ ((List.range 4).filter fun n => c.getLc (finOf 4 n) != s.me.getLc (finOf 4 n)).map (0xC0 + ·)
  ++ ((List.range 16).filter fun n => c.getCb (finOf 16 n) != s.me.getCb (finOf 16 n)).map (0x300 + ·)

/-- A bundle whose transports have acted, from `s` to `t`, commits: not while another member of its group is stopped (R179), nor while
the die's L2 has no room for what it sends (R38). An open segment notes what it writes; without room in the journal for that, the
segment commits first and another opens at the bundle (R201). -/
def State.commitBundle (s t : State) (ws : List Slot32) : State :=
  if s.curCx = 0 ∧ s.groupStopped s.cur then s.pauseCx .group
  else if s.overfull t then s.pauseCx (.full 0)
  else
    let t := t.sign
    match SMap.find t.segs s.cur with
    | some g =>
      if g.ctx ≠ s.curCx then t.finishBundle
      else
        let j := addKeys g.journal (s.bundleKeys t ws g)
        if 128 < j.length ∧ g.bundles ≠ 0 then { (s.commitSeg s.cur s.curCx).openSeg with bnd := {} }
        else { t with segs := SMap.put t.segs s.cur { g with journal := j } }.finishBundle
    | none => t.finishBundle

/-- A bundle whose slots have run: a failing holding wait holds it, until its limit; else a pause, a trap, or its end
(R180, R292, R353). `s` is the state before the slots ran. Where it waits for nothing but what its own slots have issued, those have
acted, and only the others are tried again (R167, R168, R172). -/
def resolve (s : State) (base : Word) (ws : List Slot32) (r : Ran) : Host.Outcome State Fault Refusal :=
  let failing := r.st.bnd.waits.filter fun w => !w.1
  if !failing.isEmpty then
    s.orRaise fun s =>
      let start := s.me.hold.getD s.me.vcc
      match failing.find? fun w => decide (start + w.2.1 ≤ s.me.vcc) with
      | some w => .next (s.pauseCx (.limit w.2.2))
      | none => .next (s.holdCycle start)
  else match r.pauses.find? fun p => s.stillWaits s.cur s.curCx p, r.pauses, r.trap with
    | some p, _, _ => .next (s.pauseCx p)
    | none, _, some t => .next (s.trapNow t)
    | none, p :: _, none => s.orRaise fun s =>
      if s.curCx = 0 ∧ s.groupStopped s.cur then .next (s.pauseCx .group)
      else if s.overfull r.st then .next (s.pauseCx (.full 0))
      else
        let b := { r.st.bnd with trap := none, pause := .none }
        .next { r.st.updMe fun c => { c with pause := p, rqpos := base, acted := some { done := r.done, bnd := b } } with bnd := {} }
    | none, [], none => s.orRaise fun s =>
      let n := s.popsBelow ws 4
      .next (s.commitBundle (r.st.updMe fun c => { c with rqpos := base + BitVec.ofNat 64 n, rqbuf := c.rqbuf - n }) ws)

/-- A bundle of four empty slots, a header with its flags apart (R258). -/
def allEmpty (ws : List Slot32) : Bool := (liveSlots ws).isEmpty

/-- A csrw, csrs or csrc of RQKEY or RQPOS of the context is pending (R385). -/
def Cx.rqPending (c : Cx) : Bool := c.sysq.any fun e => decide (5 ≤ e.op) && decide (e.op ≤ 7) && decide (e.a.toNat % 4096 ≤ 1)

/-- Issue a bundle whose words, stepped by any repetition, are at hand (R123, R180, R258); `step`: the register of the repetition that
leaves its class. -/
def issueWords (run : Instr → State → Host.Outcome State Fault Refusal) (s : State) (ws : List Slot32) (step : Option (Nat × DecErr)) :
    Host.Outcome State Fault Refusal :=
  match s.breakpoint ws with
  | some t => .next (s.trapNow t)
  | none =>
    match s.decodeTrap ws step, s.swBreak ws with
    | some _, some (n, i) =>
      match run i { s with bnd := { s.bnd with words := ws, slot := n } } with
      | .next s' => match s'.bnd.trap with
        | some t => .next (s.trapNow t)
        | none => .next (s.pauseCx s'.bnd.pause)
      | o => o
    | some t, none => .next (s.trapNow t)
    | none, _ =>
      let s := s.segBefore ws
      let rdv := s.curCx == 0 && s.me.repDone == 0 && !s.me.rdvPass && decide (1 < (s.gangCores s.cur).length)
        && (match headerOf ws with
            | some h => hdrRdv h
            | none => false)
      let need := s.popsBelow ws 4
      if rdv then .next (s.pauseCx .rdv)
      else if need ≠ 0 ∧ s.me.rqPending then .next (s.pauseCx .sysEntry)
      else if s.me.rqbuf < min need 4 then .next (s.pauseCx (.rnd need))
      else
        let base := s.me.rqpos
        let s1 := { s.fillFetch with
          bnd := { words := ws, live := true, repSeq := decide (s.me.repLeft ≤ 1), start := some s.nextId } }
        if allEmpty ws then s.orRaise fun s =>
          if s.curCx = 0 ∧ s.groupStopped s.cur then .next (s.pauseCx .group) else run .emptyBundle s1
        else match runSlots run base ws (slotOrder ws) { st := s1 } with
          | .next r => resolve s base ws r
          | .fault f => .fault f
          | .refused f => .refused f

/-- What `issue` does from the fetch on. A SKIP return counts the bundle as issued with every guard false, whatever its fetch meets
(R187); a bundle of which some slots have acted goes on with the others. -/
def issueFetched (run : Instr → State → Host.Outcome State Fault Refusal) (s : State) : Host.Outcome State Fault Refusal :=
  if s.me.skip then
    s.orRaise fun s =>
      let ws := match s.fetch with
        | .words ws => ws
        | _ => []
      let t := s.updMe fun c => { c with repLeft := min c.repLeft 1 }
      .next { s.commitBundle { t with bnd := { t.bnd with words := ws } } [] with bnd := {} }
  else match s.me.acted with
  | some a =>
    let ws := a.bnd.words
    match runSlots run s.me.rqpos ws ((slotOrder ws).filter fun n => !a.done.contains n) { st := { s with bnd := a.bnd }, done := a.done } with
    | .next r => resolve s s.me.rqpos ws r
    | .fault f => .fault f
    | .refused f => .refused f
  | none =>
    match s.fetch with
    | .wait p => .next (s.pauseCx p)
    | .trap t => .next (s.trapNow t)
    | .words ws =>
      if 0 < s.me.repLeft then
        let x := stepWords (s.opC .seq).toNat s.me.repDone ws
        issueWords run s x.1 x.2
      else issueWords run s ws none

/-- Context `i` of core `k` issues its next bundle (R128, R132). A fault of a delivered result that a trap has put off is
raised first (R320). -/
def issue (run : Instr → State → Host.Outcome State Fault Refusal) (k i : Nat) (s : State) :
    Host.Outcome State Fault Refusal :=
  let s := { s with cur := k, curCx := i, bnd := {} }
  if s.me.raiseNow then (s.updMe fun c => { c with raiseNow := false }).orRaise (issueFetched run) else issueFetched run s

/-! ### Which contexts may issue -/

/-- The other members of a gang let a core issue (R132, R135, R179): no member that still runs, is not waiting at a rendezvous
and has not been rewound is behind it; where a member is stopped by a trap, a core goes on to that VCC, to raise its own trap there or
wait, and not at all where either has been rewound. -/
def State.inStep (s : State) (k : Nat) : Bool :=
  let c := s.cx k 0
  (s.gangCores k).all fun q =>
    let d := s.cx q 0
    q == k || d.run == .idle
    || (if d.inTrap then !c.desync && !d.desync && decide (c.vcc ≤ d.vcc)
        else d.desync || d.pause == .rdv || d.pause == .suspending || decide (c.vcc ≤ d.vcc))

/-- Whether a watchdog count has reached its limit (R192): that of a point's group, an activation or a run of context 3. -/
def State.wdDue (s : State) (k i : Nat) : Bool :=
  let l := (s.part (s.ptagOf k)).wdlim
  !(isStream k && i == 0) && decide (l ≠ 0) && decide (l ≤ (s.cx k i).wd)
/-- Whether the next bundle of a segment would be its 513th (R201). -/
def State.segFull (s : State) (k i : Nat) : Bool :=
  match SMap.find s.segs k with
  | some g => g.ctx == i && decide (512 ≤ g.bundles)
  | none => false
/-- A freeze save that is ordered stops issue of context 0 (R197); after a link loss, or when its quantum is over, a stream
stops at a bundle boundary (R90, R113). -/
def State.mayIssue (s : State) (k i : Nat) : Bool :=
  let c := s.cx k i
  c.run == .running && c.pause == .none && !s.wdDue k i && !s.segFull k i
  && (i != 0 || (s.inStep k && !((s.gangCores k).any fun q => (s.core q).freezeReq)))
  && (!isStream k || (match s.stream k with
      | some t => t.slot.isSome && (i != 0 || c.hold.isSome || c.acted.isSome
          || !t.stopped && !t.parked && !t.leaving && decide (t.head < t.tail) && !(s.part (s.ptagOf k)).stopFire)
      | none => false))

/-- The context of a core that issues next (R128): 3, then 1 and 2 in turn, then 0. -/
def State.issuer (s : State) (k : Nat) : Option Nat :=
  let m := s.mayIssue k
  if m 3 then some 3
  else if m 1 && (!m 2 || !(s.core k).alt) then some 1
  else if m 2 then some 2
  else if m 0 then some 0 else none

end Sys2Proof.Machine
end

