-- ==== Sys2Proof/Machine/Wire.lean ====
section
/-! DEFINITION. What every transaction meets on arrival: transit, the first router's checks, the end-to-end check, a closed
partition (R26, R36-R38, R87). -/

namespace Sys2Proof.Machine

/-- The partition of a transaction takes no inbound requests: it is fenced, disabled or in quarantine (R87, R88). -/
def State.closed (s : State) (ptag : Nat) : Bool := (s.part ptag).fenced || decide ((s.part ptag).state ≠ 1)

/-- The first transaction like `t` on the wire: how many routers of its route it has entered. -/
def State.placeOnWire (s : State) (t : Txn) : Option Nat := (s.wire.find? fun x => decide (x.2 = t)).map (·.1)

/-- Operations of a triple that a router holds for pairing go on, ahead of everything of their triple on the wire (R46). -/
def ofTriple (t : Txn) (h : Txn × Nat) : Bool := Txn.triple h.1 == Txn.triple t
def State.holds (s : State) (t : Txn) : Bool := s.routers.any fun (x : Nat × Router) => x.2.held.any (ofTriple t)
def State.holdsAt (s : State) (r : Nat) (t : Txn) : Bool := (s.router r).held.any (ofTriple t)
/-- A held operation as it goes on past router `r`. -/
def State.pastRouter (s : State) (r : Nat) (h : Txn × Nat) : Nat × Txn := (indexIn r (s.routeOf h.1) + 1, h.1)
def State.release (s : State) (t : Txn) : State :=
  { s with
    wire := (s.routers.flatMap fun (x : Nat × Router) => (x.2.held.filter (ofTriple t)).map (s.pastRouter x.1)) ++ s.wire,
    routers := s.routers.map fun (x : Nat × Router) => (x.1, { x.2 with held := x.2.held.filter fun h => !ofTriple t h }) }
/-- The hold rule (R46): the operations that are held go on first; the arrival, on the wire behind them, is treated after. -/
def State.holdRule (s : State) (t : Txn) : State :=
  let x := s.release t
  if (s.placeOnWire t).isSome then x else { x with wire := x.wire ++ [(0, t)] }

/-- A transaction leaves the package by a link, or for another domain in a transport header, with the next number of its flow (R50). -/
def State.leave (s : State) (t : Txn) : State :=
  match t.dom with
  | none => s.tell (.txn t)
  | some d =>
    let key := d * 256 + t.dst.pkg
    { s with ethSeq := SMap.set 0 s.ethSeq key (SMap.get 0 s.ethSeq key + 1) }.tell (.eth d t.dst.pkg (SMap.get 0 s.ethSeq key) t)

/-- Transit, the hold rule, and the checks of the first router (R26, R36, R46). A transaction whose target is another package goes on. -/
def State.enterPkg (s : State) (t : Txn) (f : State → State) : State :=
  if s.holds t then s.holdRule t else
  let s := s.unwire t
  if !Txn.admissible t then s.drop (s.firstRouter t)
  else if s.outward t then s.leave t
  else f s

/-- The end-to-end check at the destination (R38): CRCERR and a wait for the SEQ that failed; later transactions of the
triple are discarded until then. -/
def State.checkCrc (s : State) (t : Txn) (f : State → State) : State :=
  match SMap.find s.crcWait (Txn.triple t) with
  | some q =>
    if q ≠ t.seq then s
    else if Txn.crcOk t then f { s with crcWait := SMap.del s.crcWait (Txn.triple t) } else s.answer t stCrcerr
  | none =>
    if Txn.crcOk t then f s else { s with crcWait := SMap.put s.crcWait (Txn.triple t) t.seq }.answer t stCrcerr

/-- A request that its source has sent again. -/
def State.resent (s : State) (t : Txn) : Bool := s.outst.any fun o => decide (o.txn = t) && decide (0 < o.resends)
/-- Types whose data a target takes with a mark where it is known bad (R36, R211); any other request with such data is answered POISON
and has no effect (log 89). -/
def takesPoison (ty : Nat) : Bool := ty == tyStore || ty == tyPush || ty == tyPuth
/-- A request arrives at its target. A closed partition refuses those from outside and its own resends (R36, R87); the attention interface
serves its own domain (R50). -/
def State.arrive (s : State) (t : Txn) (f : State → State) : State :=
  s.enterPkg t fun s => s.checkCrc t fun s =>
    if (s.foreign t || s.resent t) && s.closed t.ptag then s.answer t stPerm
    else if t.dom.isSome && (t.ty == tyAttreq || t.ty == tyPartial) then s.answer t stMalformed
    else if t.poison && !takesPoison t.ty then s.answer t stPoison
    else f s

/-- A request arrives at an agent that performs it when `ok` holds; another answers MALFORMED (R36). -/
def State.arriveAt (s : State) (t : Txn) (ok : Bool) (f : State → State) : State :=
  s.arrive t fun s => if ok then f s else s.answer t stMalformed

/-- Where the fabric performs an access to a target: endpoint and address (R35). -/
def State.homeEp (s : State) (t : Tgt) : Ep × Nat :=
  match t with
  | .sp q off => (⟨s.pkg.pkgId, q / 40, q % 40⟩, off)
  | .hbm pa _ => (llcEp s.pkg.pkgId pa, pa)
  | .remote pkg pa _ => (llcEp pkg pa, pa)
  | .host pa _ _ => (s.hostEp, pa)
  | .mmio pa => (s.smcEp, pa)

/-- A writable target that a virtual address of a partition has on this package (R59, R66). -/
def State.writable (s : State) (ptag va : Nat) : Option Tgt :=
  match s.xlWalk ptag va accStore with
  | .ok t _ _ => some t
  | _ => none

/-- A transaction of a core: its privilege, partition and endpoint (R31, R34, R81). -/
def State.txn (s : State) (k ty stream : Nat) (d : Ep × Nat) : Txn :=
  { ty := ty, priv := s.privileged k, stream := stream, ptag := s.ptagOf k, src := s.epOf k, dst := d.1, addr := d.2 }
/-- Ask nothing of the fabric, only leave: a request that no queued result waits for (R36). -/
def State.post (s : State) (t : Txn) : State := (s.sendReq t).1

end Sys2Proof.Machine
end

