-- ==== Sys2Proof/Machine/Launch.lean ====
section
/-! DEFINITION. Launches (R96-R101, R105, R110, R117-R120): the checks, enqueueing, the dependence test, completion records. -/

namespace Sys2Proof.Machine

/-! ### The record -/

/-- Component `c` (0 x, 1 y, 2 z) of dependence vector `j` (R97). -/
def Launch.dep (l : Launch) (j c : Nat) : Int :=
  let n := bits (l.w 4) (15 * j + 5 * c + 4) (15 * j + 5 * c)
  if 16 ≤ n then (n : Int) - 32 else n
/-- The first nonzero component is positive (R99). -/
def lexPos : List Int → Bool
  | [] => false
  | x :: t => if x = 0 then lexPos t else decide (0 < x)
def Launch.depOk (l : Launch) (j : Nat) : Bool :=
  let cs := [l.dep j 0, l.dep j 1, l.dep j 2]
  cs.all (fun x => x != -16) && (cs.drop l.ndim).all (fun x => x == 0) && lexPos cs

/-- Where the frames start, and the size of the work area (R105). -/
def Launch.froff (l : Launch) : Nat := (2112 + 8 * l.nrow + 64 * l.nframe + 63) / 64 * 64
def Launch.areaSize (l : Launch) : Nat := l.froff + 64 * l.framesz * l.nframe
def Launch.frameAddr (l : Launch) (f : Nat) : Nat := l.area + l.froff + 64 * l.framesz * f

/-- Fields of a pipe descriptor's word 0 (R110). -/
def pdProd (d : Nat) : Nat := bits d 1 0
def pdCons (d : Nat) : Nat := bits d 3 2
def pdProdCb (d : Nat) : Nat := bits d 7 4
def pdConsCb (d : Nat) : Nat := bits d 11 8
def pdSlots (d : Nat) : Nat := bits d 19 12
def pdSize (d : Nat) : Nat := bits d 31 20
def pdOff (d : Nat) : Nat := bits d 51 32
/-- A descriptor that breaks R110. -/
def pdBad (nkern d : Nat) : Bool :=
  pdProd d == pdCons d || decide (nkern ≤ pdProd d) || decide (nkern ≤ pdCons d) || pdSlots d == 0 || pdSize d == 0
  || decide (spSize < pdOff d + pdSlots d * pdSize d * 16)

/-- Every unretired launch of a die, tracked or pending. -/
def Die.allLaunches (d : Die) : List (LKey × Launch) :=
  (d.launches.map fun (x : Nat × Launch) => (({ die := 0, ptag := x.1 / 65536, lid := x.1 % 65536 } : LKey), x.2)) ++ d.pending
def State.anyLaunch (s : State) (k : LKey) : Option Launch :=
  ((s.die k.die).allLaunches.find? fun x => x.1.ptag == k.ptag && x.1.lid == k.lid).map (·.2)
/-- Change a launch wherever it waits. -/
def State.updAny (s : State) (k : LKey) (f : Launch → Launch) : State :=
  match s.launch k with
  | some _ => s.updLaunch k f
  | none => s.updDie k.die fun d => { d with pending := d.pending.map fun x => if x.1 = k then (x.1, f x.2) else x }

/-- A LID that an unretired launch of the partition has (R98 check 7). -/
def State.lidLive (s : State) (ptag lid : Nat) : Bool :=
  [0, 1, 2, 3].any fun d => (s.die d).allLaunches.any fun x => x.1.ptag == ptag && x.1.lid == lid

/-! ### The checks (R98) -/

/-- The first of the checks 2, 3 and 4, which the record alone decides (R98 Table 2). -/
def Launch.shapeDetail (l : Launch) : Option Nat :=
  let ext := [bits (l.w 3) 15 0, bits (l.w 3) 31 16, bits (l.w 3) 47 32]
  if l.nkern = 0 ∨ l.pclass = 3 ∨ 4 < l.ndep ∨ (0 < l.ndep ∧ l.ndim = 0) then some 2
  else if (ext.drop l.ndim).any (fun x => x != 0) then some 3
  else if (List.range l.ndep).any fun j => !l.depOk j then some 4
  else none
/-- The first check of 2 to 9 that fails (R98 Table 2). `pipes`: word 0 of the pipe descriptors, none if they cannot be read. -/
def State.launchDetail (s : State) (ptag : Nat) (l : Launch) (pipes : Option (List Nat)) : Option Nat :=
  let pipesBad : Bool := match pipes with
    | some ps => ps.any (pdBad l.nkern)
    | none => true
  if l.shapeDetail.isSome then l.shapeDetail
  else if l.clset = 0 ∨ (List.range 20).any (fun c => bitOf l.clset c && !(s.part ptag).clmask.getLsbD c) then some 5
  else if (l.nkern = 1 ∧ 0 < l.npipe) ∨ 16 < l.npipe ∨ (0 < l.npipe ∧ pipesBad = true) then some 6
  else if s.lidLive ptag l.lid then some 7
  else if l.nframe = 0 ∨ l.framesz = 0 ∨ !s.sysWritable ptag l.area l.areaSize then some 8
  else if l.hasdl ∧ l.timed ∧ l.deadline < l.release then some 9
  else none

/-! ### Completion records (R117, R118) -/

/-- The eight words of a completion record (R118 Table 9). -/
def Launch.record (l : Launch) (status detail tick : Nat) : List Nat :=
  [l.lid + status * 2 ^ 16 + detail * 2 ^ 24 + 2 ^ 63, l.done, l.nfault + l.ndrop * 2 ^ 32, l.fcause + l.fpoint * 2 ^ 16,
   l.nslip + l.npreempt * 2 ^ 32, l.firstTick.getD 0, tick, 0]
/-- Write it, word 0 last (R117). -/
def State.writeRecord (s : State) (die ptag : Nat) (l : Launch) (ws : List Nat) : State :=
  (s.sysWrite die ptag (l.compaddr + 8) ((ws.drop 1).flatMap (leBytes 8))).sysWrite die ptag l.compaddr (leBytes 8 (ws.headD 0))
/-- The record of a launch that failed a check: no point of it counts, and COMPADDR itself may be the reason (R98). -/
def State.badLaunch (s : State) (die ptag : Nat) (l : Launch) (detail : Nat) : State :=
  if s.sysWritable ptag l.compaddr 64 then
    s.writeRecord die ptag l [l.lid + 2 ^ 16 + detail * 2 ^ 24 + 2 ^ 63, 0, 0, 0, 0, 0, 0, 0]
  else s.log (.launch ptag l.lid 1)

/-! ### Enqueueing (R98, R101, R119, R120) -/

/-- Tracker entries in use on a die (R106, R116). -/
def Die.tracked (d : Die) : Nat := (d.launches.filter fun (x : Nat × Launch) => !x.2.evicted).length
/-- A die whose tracker and pending list are full (R120). -/
def Die.full (d : Die) : Bool := decide (32 ≤ d.tracked) && decide (1024 ≤ d.pending.length)

/-- A saved launch whose entry another launch may take (R116). -/
def Die.evictable (d : Die) : Option Nat :=
  (d.launches.find? fun (x : Nat × Launch) => x.2.saved && !x.2.evicted).map (·.1)
/-- The words of the frontier header (R105 Table 6). -/
def Launch.header (l : Launch) (why tick : Nat) (ncr : Nat) (valid : Bool) : List Nat :=
  [l.lid + l.ooo.length * 2 ^ 16 + ncr * 2 ^ 32 + (if valid then 2 ^ 48 else 0) + why * 2 ^ 49, l.base + l.nrow * 2 ^ 32, l.done, tick,
   (match l.pred with
    | some p => p.lid
    | none => 0xFFFF), 0, 0, 0]
/-- An out-of-order entry (R105). -/
def Launch.oooWord (l : Launch) (o : Nat) : Nat :=
  let p := l.coords o
  p.1 + p.2.1 * 2 ^ 16 + p.2.2 * 2 ^ 32 + 2 ^ 63

/-- The ragged frontier record is written, every field before VALID (R107, R115): the rows on chip, the others being there already. The
list has room for NFRAME CRs (R105 Table 5). -/
def State.writeFrontier (s : State) (k : LKey) (l : Launch) (why : Nat) : State :=
  let crs := l.crs.take l.nframe
  let put := fun (s : State) (off : Nat) (ws : List Nat) => s.sysWrite k.die k.ptag (l.area + off) (ws.flatMap (leBytes 8))
  let s := put s 0 (l.header why s.pkg.ticks crs.length false)
  let s := s.writeCounts k l l.base ((List.range (min 4096 (l.nrow - l.base))).map fun r => SMap.get 0 l.counts (l.base + r))
  let s := put s (64 + 8 * l.nrow) (l.ooo.map l.oooWord ++ List.replicate (256 - l.ooo.length) 0)
  let s := put s (2112 + 8 * l.nrow) (crs.flatMap fun c => ({ c with state := 4 } : Cr).toWords)
  put s 0 [(l.header why s.pkg.ticks crs.length true).headD 0]

/-- The saved launch whose entry is needed gives it up: its record is written (R107, R116). -/
def State.spill (s : State) (die : Nat) : State :=
  match (s.die die).evictable with
  | none => s
  | some i =>
    let k : LKey := ⟨die, i / 65536, i % 65536⟩
    match s.launch k with
    | some l => (s.writeFrontier k l 0).updLaunch k fun x => { x with evicted := true }
    | none => s
/-- A tracker entry of a die is made free, if none is and a saved launch can give its own up. -/
def State.makeRoom (s : State) (die : Nat) : State := if (s.die die).tracked < 32 then s else s.spill die
/-- Pending launches enter the tracker as entries free, in order of enqueue (R120). -/
def State.takeIn (s : State) (die : Nat) : Nat → State
  | 0 => s
  | n + 1 =>
    match (s.die die).pending with
    | [] => s
    | (k, l) :: t =>
      let s := s.makeRoom die
      if (s.die die).tracked < 32 then
        (s.updDie die fun d => { d with pending := t, launches := SMap.put d.launches (lkey k) l }).takeIn die n
      else s
def State.takeInAll (s : State) (die : Nat) : State := s.takeIn die (s.die die).pending.length

/-- The count of an indirect launch (R119): 0 retires it, up to 65,536 replaces the extent of x, more is BADLAUNCH 10. A count that
the package cannot read by itself, or that lies unmapped, is a free value (log 9). -/
def Launch.setCount (l : Launch) (n : Nat) : Launch :=
  let l := { l with countVa := none }
  if n = 0 then { l with zero := true }
  else if 65536 < n then { l with bad := some 10 }
  else { l with words := l.words.set 3 (BitVec.ofNat 64 (l.w 3 / 65536 * 65536 + (n - 1))) }
/-- The count word as an acquire at package scope reads it: the die keeps nothing older, and the word comes from its home. -/
def State.countWord (s : State) (k : LKey) (va : Nat) : State × Option Nat :=
  let s := s.evictAll k.die
  match s.xlWalk k.ptag va accLoad with
  | .ok (.hbm pa _) _ _ =>
    if s.ownerOk k.ptag pa then
      let r := s.readPoc k.die 3 pa 8
      (r.1, some (leNat r.2))
    else (s, none)
  | .ok (.sp q off) _ _ => (s, if s.spOk k.ptag q then some (leNat (s.spRead q off 8)) else none)
  | _ => (s, none)
def State.readCount (s : State) (k : LKey) : State :=
  match (s.anyLaunch k).bind (·.countVa) with
  | some va =>
    let r := s.countWord k va
    let s := r.1.updAny k fun l => l.setCount (r.2.getD (Config.freeWord (2 ^ 21 + s.free)).toNat)
    match s.anyLaunch k with
    | some l => s.zeroRows k l
    | none => s
  | none => s

/-- The partition that a record is enqueued for: the issuing one, or from a PF stream the one that its CLSET lies in (R388). -/
def State.launchPtag (s : State) (k : Nat) (l : Launch) : Nat :=
  if s.privileged k && s.pkg.numVfs != 0 then
    match (List.range 16).find? fun p => (s.part p).en && (s.part p).clmask.getLsbD ((List.range 20).find? (bitOf l.clset) |>.getD 20) with
    | some p => p
    | none => 0
  else s.ptagOf k

/-- The die whose tracker takes a launch (R96). -/
def Launch.die (l : Launch) (own : Nat) : Nat := match (List.range 20).find? (bitOf l.clset) with
  | some c => c / 5
  | none => own

/-- What the loader path has placed for a kernel (R138). -/
def State.kernelAt (s : State) (ptag entry : Nat) : KernelImage :=
  (s.kernels.find? fun x => x.ptag == ptag && x.entry == entry).getD { ptag := ptag, entry := entry }

/-! #### Circuits of a launch (R98 check 11, R233) -/

/-- Hops on the physical packages; none if a logical one is not covered. -/
def mapHops (pkgs : List (Nat × Nat)) (hops : List (Nat × Nat × Nat × Nat)) : Option (List (Nat × Nat × Nat × Nat)) :=
  hops.foldr (fun h r => match pkgs.find? (fun p => p.1 == h.1), r with
    | some p, some l => some ((p.2, h.2) :: l)
    | _, _ => none) (some [])
/-- Two hops set one output of one router slot to different codes, neither of them best-effort. -/
def hopsClash (a b : Nat × Nat × Nat × Nat) : Bool :=
  a.1 == b.1 && a.2.1 == b.2.1 && a.2.2.1 == b.2.2.1 &&
    (List.range 32).any fun p => outCode a.2.2.2 p != outCode b.2.2.2 p && outCode a.2.2.2 p != 0x3E && outCode b.2.2.2 p != 0x3E
/-- Two entries in one: best-effort where both are. -/
def mergeEntry (a b : Nat) : Nat :=
  (List.range 32).foldl (fun n p => n + (if outCode a p = 0x3E then outCode b p else outCode a p) * 2 ^ (6 * p)) 0
/-- The circuits that the kernels of a launch name. -/
def State.circuitsOf (s : State) (ptag : Nat) (l : Launch) : List Circuit :=
  (List.range l.nkern).flatMap fun i => (s.kernelAt ptag (l.entry i)).circuits
/-- Their hops on physical packages (R233). -/
def State.hopsOf (s : State) (ptag : Nat) (l : Launch) : Option (List (Nat × Nat × Nat × Nat)) :=
  ((List.range l.nkern).map fun i => s.kernelAt ptag (l.entry i)).foldr (fun x r => match mapHops x.pkgs (x.circuits.flatMap Circuit.hops), r with
    | some a, some b => some (a ++ b)
    | _, _ => none) (some [])
/-- Check 11: a package that the mapping does not cover, two hops that clash, or a table that a router refuses (R31, R98, R233). -/
def State.circuitsBad (s : State) (ptag : Nat) (l : Launch) : Bool :=
  match s.hopsOf ptag l with
  | none => true
  | some hs => hs.any fun h => badEntry h.2.2.2 || hs.any (hopsClash h)
/-- The slot-table load of a launch's circuits (R31, R233): routers of this package take their entries and swap at the next slot 0, those of
others are sent theirs; the circuits are bound to their sources. -/
def State.loadCircuits (s : State) (ptag : Nat) (l : Launch) : State :=
  let hs := (s.hopsOf ptag l).getD []
  let at_ := (hs.map fun h => (h.1, h.2.1, h.2.2.1)).eraseDups
  let s := at_.foldl (fun s a =>
    let e := ((hs.filter fun h => (h.1, h.2.1, h.2.2.1) == a).map fun h => h.2.2.2).foldl mergeEntry slotDefault.toNat
    if a.1 = s.pkg.pkgId then s.writeSlots a.2.1 [(a.2.2, e)] (some s.pkg.ticks)
    else (s.sendReq { ty := tySlotctl, priv := true, ptag := ptag, src := s.smcEp, dst := ⟨a.1, a.2.1, 0⟩, subop := 3,
                      payload := leBytes 8 a.2.2 ++ leBytes 32 e ++ leBytes 8 s.pkg.ticks }).1) s
  { s with circuits := s.circuits ++ (s.circuitsOf ptag l).map fun (c : Circuit) => (c.src, c.mask) }

/-- The loader writes the pool registers of every core of the cluster set before the first point fires (R229). -/
def State.loadPool (s : State) (ptag : Nat) (l : Launch) : State :=
  match (List.range l.nkern).findSome? fun i => (s.kernelAt ptag (l.entry i)).pool with
  | none => s
  | some (a, n) =>
    (((List.range 20).filter (bitOf l.clset)).flatMap fun c => (List.range 8).map (coreOfCluster c)).foldl
      (fun (s : State) q => s.updCore q fun c => { c with bpoolA := BitVec.ofNat 64 (a % 2 ^ 57), bpoolN := BitVec.ofNat 16 n }) s

/-- Enqueue a launch record of core `k` (R98-R101, R109, R119): checked, its circuits loaded, bound to its predecessor, tracked or
pending. -/
def State.enqueue (s : State) (k : Nat) (words : List Word) (countVa : Option Nat) (pipes : Option (List Nat)) : State :=
  let l0 : Launch := { words := words }
  let ptag := s.launchPtag k l0
  let die := l0.die (dieOf k)
  if !s.sysWritable ptag l0.compaddr 64 then s.log (.launch ptag l0.lid 1)
  else match s.launchDetail ptag l0 pipes with
    | some d => s.badLaunch die ptag l0 d
    | none =>
      if s.circuitsBad ptag l0 then s.badLaunch die ptag l0 11
      else
        let key : LKey := ⟨die, ptag, l0.lid⟩
        let pk : LKey := ⟨die, ptag, l0.predlid⟩
        let pred := if (s.anyLaunch pk).isSome then some pk else none
        let l := { l0 with
          released := !l0.timed || decide (l0.release ≤ s.pkg.ticks), pipes := pipes.getD [], pred := pred, countVa := countVa, enq := s.nextId }
        let s := (s.loadPool ptag l0).loadCircuits ptag l0
        let s := { s with nextId := s.nextId + 1 }
        let s := (s.updDie die fun d => { d with pending := d.pending ++ [(key, l)] }).zeroRows key l
        let s := if pred.isNone then s.readCount key else s
        s.takeInAll die

/-! ### Dependences (R100) -/

/-- Coordinates as integers, and whether they lie in a launch's space. -/
def Launch.inside (l : Launch) (x y z : Int) : Bool :=
  decide (0 ≤ x ∧ x < l.extx ∧ 0 ≤ y ∧ y < l.exty ∧ 0 ≤ z ∧ z < l.extz)
/-- One dependence vector of a point (R100 Table 3). -/
def State.depMet (s : State) (k : LKey) (l : Launch) (p : Nat × Nat × Nat) (j : Nat) : Bool :=
  let x := (p.1 : Int) - l.dep j 0
  let y := (p.2.1 : Int) - l.dep j 1
  let z := (p.2.2 : Int) - l.dep j 2
  if l.inside x y z then s.isDone k l (l.ord x.toNat y.toNat z.toNat)
  else if l.fromLaunch j ∧ x < 0 ∧ l.inside 0 y z then
    match l.pred, l.pred.bind s.anyLaunch with
    | some pk, some m =>
      let px := x + m.extx
      !m.inside px y z || s.isDone pk m (m.ord px.toNat y.toNat z.toNat)
    | _, _ => true
  else true

/-- A point that may fire as far as its dependences go (R100): neither fired nor complete, every vector met. -/
def State.pointReady (s : State) (k : LKey) (l : Launch) (o : Nat) : Bool :=
  !l.fired.contains o && !s.isDone k l o && (List.range l.ndep).all fun j => s.depMet k l (l.coords o) j
/-- A point that needs an out-of-order entry (R106). -/
def State.needsOoo (s : State) (k : LKey) (l : Launch) (o : Nat) : Bool := o % l.ncol != s.rowCount k l (o / l.ncol)
def State.oooRoom (s : State) (k : LKey) (l : Launch) (o : Nat) : Bool := !s.needsOoo k l o || decide (l.ooo.length + l.reserved.length < 256)

/-- The partition fires and dispatches (R87, R88, R90, R93, R191). -/
def State.runs (s : State) (ptag : Nat) : Bool :=
  let p := s.part ptag
  p.en && p.state == 1 && !p.fenced && !p.stopFire && s.fnServes ptag

/-- The lexicographically first point that may fire (R100, R106). -/
def State.firstReady (s : State) (k : LKey) (l : Launch) : Option Nat :=
  ((List.range (l.npoints - l.base * l.ncol)).find? fun i =>
    s.pointReady k l (l.base * l.ncol + i) && s.oooRoom k l (l.base * l.ncol + i)).map (l.base * l.ncol + ·)

/-- A launch that is released and open to firing (R107, R115, R119). -/
def Launch.live (l : Launch) : Bool :=
  l.released && !l.saved && !l.preempting && l.countVa.isNone && l.bad.isNone && !l.zero

/-- Ready-queue entries of a launch on a cluster. -/
def readyOf (c : Cluster) (k : LKey) : List Ready :=
  (c.ready ++ c.overflow).filter fun r => r.cr.ptag == k.ptag && r.cr.die == k.die && r.cr.lid == k.lid
/-- A launch has work for cores (R114): a ready CR or a fireable point. -/
def State.hasWork (s : State) (k : LKey) : Bool :=
  match s.launch k with
  | some l => s.runs k.ptag && l.live && (((s.clusters.any fun (x : Nat × Cluster) => !(readyOf x.2 k).isEmpty)) || (s.firstReady k l).isSome)
  | none => false

/-! ### Retirement (R117) -/

/-- Every CR of the launch is gone and every non-returning operation of it is answered (R117). -/
def State.settled (s : State) (k : LKey) (l : Launch) : Bool :=
  l.fired.isEmpty && l.crs.isEmpty && !l.saved && l.tasks == 0
  && !(s.clusters.any fun (x : Nat × Cluster) => !(readyOf x.2 k).isEmpty)
  && !(s.cores.any fun (x : Nat × Core) => match x.2.point with
      | some p => p.l == k
      | none => false)
  && !(s.reqs.any fun r => r.nr && r.launch == some k)

/-- A launch is drained for the sake of another no longer (R114). -/
def undrain (k : LKey) (l : Launch) : Launch := { l with drainFor := l.drainFor.filter (· != k) }
/-- Take a launch off its die: chained launches count it as retired and read their counts, pending ones enter (R117, R119, R120). -/
def State.dropLaunch (s : State) (k : LKey) : State :=
  let next := ((s.die k.die).allLaunches.filter fun x => x.2.pred == some k).map fun x => ({ x.1 with die := k.die } : LKey)
  let s := next.foldl (fun s n => (s.updAny n fun l => { l with pred := none }).readCount n) s
  let s := { s with
    pkg := { s.pkg with stoppers := s.pkg.stoppers.map fun (x : Stopper) => if x.l = k then { x with retired := true } else x },
    dies := s.dies.map fun (d : Nat × Die) => (d.1, { d.2 with launches := d.2.launches.map fun (x : Nat × Launch) => (x.1, undrain k x.2) }) }
  ((s.delLaunch k).updDie k.die fun d => { d with pending := d.pending.filter fun x => x.1 != k }).takeInAll k.die

/-- A launch that has ended: its record, its interrupt, its entry (R117, R118). -/
def State.retireLaunch (s : State) (k : LKey) (l : Launch) : State :=
  match l.bad with
  | some d => (s.badLaunch k.die k.ptag l d).dropLaunch k
  | none =>
    let s := s.writeRecord k.die k.ptag l (l.record (if l.nfault = 0 then 0 else 2) 0 s.pkg.ticks)
    let s := if l.irq then (s.msix k.ptag l.irqvec).2 else s
    s.dropLaunch k

/-- Whether a launch may retire now, tracked or still pending (R119); a link loss stops no retirement (R90). -/
def State.mayRetire (s : State) (k : LKey) : Bool :=
  let p := s.part k.ptag
  match s.anyLaunch k with
  | some l => p.en && p.state == 1 && !p.fenced && (l.bad.isSome || (l.countVa.isNone && l.done == l.npoints && s.settled k l))
  | none => false

/-- LAUNCH_RETIRE (R117): a launch whose points are complete, with nothing of it left, writes its completion record. -/
def execLaunchRetire (l : LKey) (s : State) : Host.Outcome State Fault Refusal :=
  .next (match s.anyLaunch l with
    | some x => if s.mayRetire l then s.retireLaunch l x else s
    | none => s)

/-- LAUNCH_RELEASE (R109): the counter has reached RELEASE. -/
def execLaunchRelease (l : LKey) (s : State) : Host.Outcome State Fault Refusal :=
  .next (match s.anyLaunch l with
    | some x => if x.timed ∧ x.release ≤ s.pkg.ticks then s.updAny l fun y => { y with released := true } else s
    | none => s)

/-! ### Deadlines (R112) -/

/-- A partition is quiesced: stopped after a link loss, and empty (R90). -/
def State.quiesced (s : State) (p : Nat) : Bool :=
  (s.part p).stopFire && !(s.cores.any fun (x : Nat × Core) => match x.2.point with
    | some q => q.l.ptag == p
    | none => false)
/-- Deadlines of a partition may stop the counter now (R90, R112). -/
def State.deadlinesApply (s : State) (ptag : Nat) : Bool := (s.part ptag).dlen && !s.quiesced ptag

/-- The deadline of an unretired launch has come (R112): the counter stops, or a slip is logged. A launch of a partition that is being reset
causes neither (R88). -/
def State.deadline (s : State) (l : LKey) : State :=
  match s.anyLaunch l with
  | some x =>
    if x.hasdl ∧ !x.dlDone ∧ x.deadline ≤ s.pkg.ticks then
      let s := s.updAny l fun y => { y with dlDone := true }
      if (s.part l.ptag).state = 2 then s
      else if s.deadlinesApply l.ptag then
        { s with pkg := { s.pkg with stoppers := s.pkg.stoppers ++ [({ l := l, deadline := x.deadline } : Stopper)] } }
      else s.log (.slip l.ptag l.lid x.deadline 0)
    else s
  | none => s
/-- Every deadline that has come (R112). -/
def State.deadlines (s : State) : State :=
  [0, 1, 2, 3].foldl (fun (s : State) d => ((s.die d).allLaunches.map fun x => ({ x.1 with die := d } : LKey)).foldl State.deadline s) s

/-- DEADLINE_ARRIVAL (R112): the counter reaches the deadline of a launch that has not retired; it stops, or a slip is logged. -/
def execDeadlineArrival (l : LKey) (s : State) : Host.Outcome State Fault Refusal := .next (s.deadline l)

/-- A tick period passes while the counter is stopped: each launch that holds it slips once more (R112). -/
def State.slipTick (s : State) : State :=
  let s := s.pkg.stoppers.foldl (fun s x => if x.retired then s else s.updAny x.l fun l => { l with nslip := sat32 (l.nslip + 1) }) s
  { s with pkg := { s.pkg with stoppers := s.pkg.stoppers.map fun (x : Stopper) => if x.retired then x else { x with count := x.count + 1 } } }

/-- A tick of the counter (R109, R121): a new tick length applies, firing stops after a link loss (R90), and pending core swaps
meet their frame boundary (R13). -/
def State.countTick (s : State) : State :=
  let p := s.pkg
  let s := { s with pkg := { p with
    ticks := p.ticks + 1, tickNs := p.nextTickNs.getD p.tickNs, nextTickNs := none,
    swapReady := !p.swapPending.isEmpty || s.ports.any fun (x : Nat × Port) => x.2.swap.isSome,
    swapPending := p.swapPending.map fun (x : Nat × Nat) => (x.1, x.2 + 1) } }
  if s.pkg.stopNext then
    (List.range 16).foldl (fun (s : State) p => s.updPart p fun x => { x with stopFire := true }) { s with pkg := { s.pkg with stopNext := false } }
  else s

/-- FRAME_TICK (R109, R112): a tick period of the frame counter's oscillator passes; deadlines at the value that it shows come first. -/
def execFrameTick (s : State) : Host.Outcome State Fault Refusal :=
  let s := s.deadlines
  .next (if s.pkg.stoppers.isEmpty then s.countTick else s.slipTick)

/-- FRAME_COUNTER_RESUME (R112): no launch holds the counter any more; it goes on at the next value, and the slips are logged. -/
def execFrameCounterResume (s : State) : Host.Outcome State Fault Refusal :=
  .next (if s.pkg.stoppers.isEmpty ∨ s.pkg.stoppers.any (fun x => !x.retired) then s
    else
      let s' := s.pkg.stoppers.foldl (fun s x => s.log (.slip x.l.ptag x.l.lid x.deadline x.count)) s
      { s' with pkg := { s'.pkg with stoppers := [] } }.countTick)

end Sys2Proof.Machine
end

