-- ==== Sys2Proof/Machine/Lsu.lean ====
section
/-! DEFINITION. The load and store unit (R354-R359), with the acquires, releases and drains of R163-R170. -/

namespace Sys2Proof.Machine

/-! ### Order against earlier accesses -/

/-- An acquire of the acting context that has not performed: no later access issues before it (R168). -/
def State.acqPending (s : State) : Bool := s.reqs.any fun r => r.core == s.cur && r.ctx == s.curCx && r.acq.isSome

/-- What every access does first: it waits for an earlier acquire of its context (R168). -/
def State.gate (s : State) (f : State → State) : State := if s.acqPending then s.wait .prior else f s

/-- The refused operations that a drain or release covers, as the FENCE trap (R181, R356). -/
def State.fenceTrap (s : State) (mask : Nat) : Option TrapInfo :=
  match s.me.fenced.filter fun f => bitOf mask f.stream with
  | [] => none
  | f :: t => some {
      cause := 0x10, clear := mask,
      d := [BitVec.ofNat 64 (t.length + 1), BitVec.ofNat 64 f.status, BitVec.ofNat 64 f.addr, BitVec.ofNat 64 f.stream] }

/-- What a drain or release does before it performs (R167, R168, R176): the covered accesses perform and dirty lines are
written back from package scope on, and FENCE reports a refused operation. An empty mask orders nothing. -/
def State.settle (s : State) (scope mask : Nat) (f : State → State) : State :=
  if mask = 0 then f s
  else if s.unsettled s.cur s.curCx scope mask then s.wait (.drain scope mask)
  else match s.fenceTrap mask with
    | some t => s.raise t
    | none => f (s.backLocal s.cur scope)

/-! ### Reaching an address -/

/-- The parts of an access that lie in different 64 KiB pages. -/
def pieces (va n : Nat) : List (Nat × Nat) :=
  let m := 65536 - va % 65536
  if n ≤ m then [(va, n)] else [(va, m), (va + m, n - m)]

/-- The trap of the first piece that faults, an XLATE before a PERM (R180). -/
def xlFault (acc : Nat) (xs : List ((Nat × Nat) × Xl)) : Option TrapInfo :=
  let bad := fun (only4 : Bool) => xs.findSome? fun x => match x.2 with
    | .fault c d => if only4 && c != 4 then none else some (xlTrap x.1.1 acc c d)
    | _ => none
  (bad true).or (bad false)

/-- Translate the pieces of an access for the slot in issue (R141-R151): the targets, or the state with the wait or trap noted. -/
def State.reachAll (s : State) (acc : Nat) (ps : List (Nat × Nat)) : Except State (List (Tgt × Nat)) :=
  let xs := ps.map fun p => (p, s.translateMe p.1 acc)
  match xs.find? fun x => x.2 == .miss with
  | some x => .error (s.wait (.xlate x.1.1 acc s.bnd.slot))
  | none =>
    match xlFault acc xs with
    | some t => .error (s.raise t)
    | none =>
      let held := xs.find? fun x => match x.2 with
        | .ok _ leaf _ => acc != accLoad && s.snapHold (s.ptagOf s.cur) x.1.1 leaf
        | _ => false
      match held with
      | some x => .error (s.wait (.snap x.1.1))
      | none => .ok (xs.filterMap fun x => match x.2 with
        | .ok t _ _ => some (t, x.1.2)
        | _ => none)

/-- Check alignment, then translate (R180: ALIGN, XLATE, PERM in one slot). -/
def State.reach (s : State) (va n align acc : Nat) : Except State (List (Tgt × Nat)) :=
  if va % align ≠ 0 then .error (s.raise (alignTrap va n)) else s.reachAll acc (pieces va n)

/-! ### Loads -/

/-- A byte that the acting context has stored inside its open segment (R178, R202): the latest such store. -/
def segStoreByte (key : Nat) : List SegStore → Option Byte
  | [] => none
  | x :: t =>
    match segStoreByte key t with
    | some b => some b
    | none => if tgtKey x.tgt ≤ key then x.bytes[key - tgtKey x.tgt]? else none
def State.segByte (s : State) (key : Nat) : Option Byte :=
  match SMap.find s.segs s.cur with
  | some g => if g.ctx = s.curCx then segStoreByte key g.stores else none
  | none => none

/-- Whether the die's L2 or the own L1 holds every byte of a REMOTE location (R153 Table 5). -/
def State.heldHere (s : State) (key n : Nat) : Bool :=
  (List.range n).all fun j => !(s.cachedVals s.myCore.l1 (dieOf s.cur) (key + j)).isEmpty
/-- Fixed or queued (R153 Table 5, R356): decided by the translation, and for REMOTE by what the caches hold. -/
def State.fixedTgt (s : State) (t : Tgt) (n : Nat) : Bool :=
  match t with
  | .sp q _ => nearSp s.cur q
  | .hbm _ m => m == 0
  | .remote pkg pa m => m == 0 && s.heldHere (remoteKey pkg pa) n
  | _ => false

/-- Byte `j` of a target as a load of the acting context finds it without the fabric, if it does (R153, R154, R202). -/
def State.nowByte (s : State) (queued : Bool) (t : Tgt) (j : Nat) : Option Byte :=
  match s.segByte (tgtKey t + j) with
  | some b => some b
  | none =>
    match t with
    | .sp q off =>
      if s.localTgt s.cur t || (!queued && nearSp s.cur q) then some (SMap.get 0 (s.core q).sp (off + j)) else none
    | .hbm pa _ => if queued then none else s.cachedByte s.myCore.l1 (dieOf s.cur) (pa + j) s.bnd.slot
    | .remote pkg pa _ => if queued then none else s.cachedByte s.myCore.l1 (dieOf s.cur) (remoteKey pkg pa + j) s.bnd.slot
    | _ => none

/-- Whether bytes that a load takes from memory, not from the segment's buffer, lie in marked units. -/
def State.readsMark (s : State) (marks : List Nat) (key a n : Nat) : Bool :=
  !marks.isEmpty && (List.range n).any fun j => (s.segByte (key + j)).isNone && marks.contains ((a + j) / 16)
/-- The fault that a read of a target meets: the owner check (R39, R147) or a poison mark (R211). -/
def State.readFault (s : State) (va : Nat) (t : Tgt) (n : Nat) : Option TrapInfo :=
  match t with
  | .sp q off =>
    if !s.spOk (s.ptagOf s.cur) q then some (permTrap va 4)
    else if s.readsMark (s.core q).spPoison (tgtKey t) off n then some (ueTrap off 1 va) else none
  | .hbm pa _ =>
    if !s.ownerOk (s.ptagOf s.cur) pa then some (permTrap va 4)
    else if s.readsMark s.hbmPoison pa pa n then some (ueTrap pa 7 va) else none
  | .remote pkg pa m =>
    let key := remoteKey pkg pa
    if m = 0 ∧ s.readsMark s.hbmPoison key key n then some (ueTrap pa 5 va) else none
  | _ => none

/-- The LOAD requests that the bytes still unknown need: offset and size as a power of two (R36). -/
def loadRuns (n : Nat) (unknown : Nat → Bool) : List (Nat × Nat) :=
  if (List.range n).all unknown then
    if 2 ^ Nat.log2 n = n then [(0, Nat.log2 n)] else (List.range (n / 16)).map fun j => (16 * j, 4)
  else ((List.range n).filter unknown).map fun j => (j, 0)

/-- Where a load's request goes, and the address it carries: the L2, the home, a scratchpad, the host or MMIO (R155,
R163, R357). -/
def State.loadDst (s : State) (t : Tgt) (acq : Option Nat) : Ep × Nat :=
  match t with
  | .sp q off => (⟨s.pkg.pkgId, q / 40, q % 40⟩, off)
  | .hbm pa m => (if m = 0 ∧ acq.getD 0 < 3 then s.l2Ep (dieOf s.cur) else llcEp s.pkg.pkgId pa, pa)
  | .remote pkg pa m => if m = 0 ∧ acq.getD 0 < 3 then (s.l2Ep (dieOf s.cur), remoteKey pkg pa) else (llcEp pkg pa, pa)
  | .host pa _ _ => (s.hostEp, pa)
  | .mmio pa => (s.smcEp, pa)

/-- What the requests of one load share: the result or flight they fill, its bypass register, the load's VA, stream,
size in all, whether it is sign-extended, its acquire scope, and which caches its data fills (1 the L2, 2 the L1 too). -/
structure LoadReq where
  key : Nat
  b : Nat
  va : Nat
  stream : Nat
  total : Nat
  sign : Bool
  acq : Option Nat
  fill : Nat := 1

/-- Send one LOAD for `2 ^ lg` bytes of a target at `j`, which fill the result at byte `off`. -/
def State.sendLoad (s : State) (x : LoadReq) (t : Tgt) (j lg off : Nat) : State :=
  let d := s.loadDst t x.acq
  let cached : Bool := match t with
    | .hbm _ m => m == 0 && x.fill == 2
    | .remote _ _ m => m == 0
    | _ => false
  s.request { ty := tyLoad, priv := s.privileged s.cur, stream := x.stream, ptag := s.ptagOf s.cur, src := s.epOf s.cur,
              dst := d.1, subop := lg, addr := d.2 + j }
    { id := 0, core := s.cur, ctx := s.curCx, launch := s.launchOf s.cur s.curCx, unit := 8, op := s.bnd.slot,
      tag := 0, stream := 0, key := some x.key, va := x.va, loc := tgtKey t + j, off := off,
      b := x.b, acq := x.acq, size := 2 ^ lg, sign := x.sign, arg := BitVec.ofNat 64 x.total,
      fill := if cached && x.acq.getD 0 < 3 then x.fill else 0 }

/-- The bytes of a piece that the context finds at once, in place at byte `off` of the result. -/
def pieceVal (bs : List (Option Byte)) (off : Nat) : Val := natVal (leNat (bs.map (·.getD 0)) * 256 ^ off)
def State.pieceBytes (s : State) (queued : Bool) (t : Tgt) (n : Nat) : List (Option Byte) :=
  (List.range n).map (s.nowByte queued t)
/-- The requests for a piece's other bytes. -/
def State.loadPiece (s : State) (x : LoadReq) (t : Tgt) (bs : List (Option Byte)) (off : Nat) : State :=
  (loadRuns bs.length fun j => (bs[j]?.join).isNone).foldl (fun s r => s.sendLoad x t r.1 r.2 (off + r.1)) s

/-- The pieces of a load: the value found at once, and the state with the requests sent. -/
def State.loadPieces (s : State) (queued : Bool) (x : LoadReq) : Nat → Val → List (Tgt × Nat) → Val × State
  | _, v, [] => (v, s)
  | off, v, (t, n) :: r =>
    let bs := s.pieceBytes queued t n
    (s.loadPiece x t bs off).loadPieces queued x (off + n) (v ||| pieceVal bs off) r

/-- Zero- or sign-extension of a load of `n` bytes to 64 bits; a vector keeps its 1,024 bits (R355). -/
def extendLoad (sign : Bool) (n : Nat) (v : Val) : Val :=
  if sign && v.getLsbD (8 * n - 1) then wordVal (BitVec.ofNat 64 (2 ^ 64 - 2 ^ (8 * n) + v.toNat)) else v

/-- A late load may still read when its data arrives (R162): not so once a store of its own context overlaps it. -/
def State.fixLate (s : State) (loc n : Nat) : State :=
  s.updMe fun c => { c with flights := c.flights.map fun f =>
    match f.src with
    | some (a, m, _) => if a < loc + n ∧ loc < a + m then { f with src := none } else f
    | none => f }

/-- The lines of a fixed load are filled: the L1 and the L2 (R154, R155). -/
def State.fillL1 (s : State) : List (Tgt × Nat) → State
  | [] => s
  | (t, n) :: r =>
    let p := s.ptagOf s.cur
    match t with
    | .hbm pa _ =>
      let s := s.updMyCore fun c => { c with l1 := (linesOf pa n).foldl (fun c a => c.fill a p) c.l1 }
      (s.updDie (dieOf s.cur) fun d => { d with clean := (linesOf pa n).foldl (fun c a => c.fill a p) d.clean }).fillL1 r
    | .remote pkg pa _ =>
      (s.updMyCore fun c => { c with l1 := (linesOf (remoteKey pkg pa) n).foldl (fun c a => c.fill a p) c.l1 }).fillL1 r
    | _ => s.fillL1 r

/-- Whether a fixed load's data is there at its due cycle in any case: local memory or an L1 hit (R153). -/
def State.promptTgt (s : State) (t : Tgt) (n : Nat) : Bool :=
  match t with
  | .sp q _ => q == s.logical s.cur
  | .hbm pa _ => (linesOf pa n).all s.myCore.l1.has
  | .remote pkg pa _ => (linesOf (remoteKey pkg pa) n).all s.myCore.l1.has
  | _ => false

/-- A fixed-class load (R356): b(BI) after 4 cycles, later if the data is; a refused or poisoned one delivers its trap. -/
def State.fixedLoad (s : State) (x : LoadReq) (ts : List (Tgt × Nat)) : State :=
  if ts.any fun t => s.writePending (tgtKey t.1) t.2 then s.wait .prior
  else
    let r := s.loadPieces false x 0 0 ts
    let sent := decide (s.nextId < r.2.nextId)
    let s' := r.2.fillL1 ts
    s'.pushFlight s.cur s.curCx
      { unit := 8, byp := some x.b, val := if sent then r.1 else extendLoad x.sign x.total r.1, remain := 4,
        lend := s.lendNow, slot := s.bnd.slot,
        late := sent || !(ts.all fun t => s.promptTgt t.1 t.2), tag := if sent then some x.key else none,
        fault := ts.findSome? fun t => s.readFault x.va t.1 t.2,
        src := match ts with
          | [(t, n)] => if sent || (s.segByte (tgtKey t)).isSome then none else some (tgtKey t, n, x.sign)
          | _ => none }

/-- Requests still out for a result. -/
def State.waiting (s : State) (key : Nat) : Bool := s.reqs.any fun r => r.key == some key
/-- The acting context's queued result of the lsu, with what it has so far (R125). -/
def State.expectOf (s : State) (b : Nat) (q : QRes) : State :=
  s.setJoinsAt s.cur s.curCx 8 b (s.joinsAt s.cur s.curCx 8 b ++ [q])

/-- A queued load (R125, R153): b(BI) is delivered by a joining read, once no request of it is out. What local memory and the
segment hold is read now (R165). -/
def State.queuedLoad (s : State) (x : LoadReq) (ts : List (Tgt × Nat)) : State :=
  let r := s.loadPieces true x 0 0 ts
  let sent := decide (s.nextId < r.2.nextId)
  r.2.expectOf x.b { id := x.key, done := !sent, val := if sent then r.1 else extendLoad x.sign x.total r.1, lend := s.lendNow,
                     fault := ts.findSome? fun t => if s.localTgt s.cur t.1 then s.readFault x.va t.1 t.2 else none }

/-- LCTL (R354): BI and STREAM. -/
def State.lctlBi (s : State) : Nat := (s.opE .lsu).toNat % 4
def State.lctlStream (s : State) : Nat := bits (s.opE .lsu).toNat 5 2

/-- What an acquire of a scope does once it has performed (R154, R155, R168): the first-level caches of its core are empty, and from
package scope on the L2 holds no line that was filled before. -/
def State.acquired (s : State) (k scope : Nat) : State :=
  let s := if 3 ≤ scope then s.evictAll (dieOf k) else s
  if 1 ≤ scope then s.updCore k fun c => { c with l1 := {}, icache := {} } else s

/-- An access to REMOTE bytes waits for earlier writes of its context to them; one that goes past the die's L2 (`past`) waits until the
L2's dirty copy of their lines has performed at their home (R164). -/
def State.afterWrites (s : State) (past : Bool) (ts : List (Tgt × Nat)) (f : State → State) : State :=
  let stuck := ts.find? fun t => match t.1 with
    | .remote pkg pa m =>
      let key := remoteKey pkg pa
      s.writePending key t.2
      || ((past || m != 0) && (!(s.remoteIn (dieOf s.cur) key t.2).isEmpty || s.backsOn (dieOf s.cur) key t.2))
    | _ => false
  match stuck with
  | some t => s.wait (.flush (tgtKey t.1) t.2)
  | none => f s
/-- Lines of the write-combining buffer that hold bytes of a location leave before a load of them (R164). -/
def State.yieldLines (s : State) (ts : List (Tgt × Nat)) : State :=
  ts.foldl (fun s t => match t.1 with
    | .host pa _ _ => s.wcYield s.cur (s.ptagOf s.cur) pa t.2
    | _ => s) s

/-- A load of `n` bytes (R355-R357, R168). -/
def State.load (s : State) (va n align : Nat) (bp sign : Bool) (acq : Option Nat) : State :=
  s.gate fun s =>
    match s.reach va n align accLoad with
    | .error s' => s'
    | .ok ts =>
      let fixed := !bp && acq.isNone && ts.all fun t => s.fixedTgt t.1 t.2
      let x : LoadReq := { key := s.nextId, b := s.lctlBi, va := va, stream := s.lctlStream, total := n, sign := sign, acq := acq,
                           fill := if bp then 1 else 2 }
      if fixed then { s with nextId := s.nextId + 1 }.fixedLoad x ts
      else s.afterWrites (decide (3 ≤ acq.getD 0)) ts fun (s : State) =>
        let s0 := s.yieldLines ts
        let s := { s0 with nextId := s0.nextId + 1 }
        let s' := s.queuedLoad { x with key := s0.nextId } ts
        match acq with
        | some sc => if s.nextId < s'.nextId then s' else s'.acquired s.cur sc
        | none => s'

def State.loadOp (s : State) (t : Tr) (n align : Nat) (bp sign : Bool) : Host.Outcome State Fault Refusal :=
  s.acting t false false fun v s => s.load (valWord v).toNat n align bp sign none

/-! ### Stores -/

/-- A store of bytes at translated pieces: into the segment's buffer, or on its way (R178, R202). -/
def State.putPieces (s : State) (va op : Nat) (nt : Bool) : List Byte → List (Tgt × Nat) → State
  | _, [] => s
  | bs, (t, n) :: r =>
    let s := s.fixLate (tgtKey t) n
    let s := match SMap.find s.segs s.cur with
      | some g =>
        if g.ctx = s.curCx then
          { s with segs := SMap.put s.segs s.cur { g with
              stores := g.stores ++ [({ tgt := t, va := va, bytes := bs.take n, op := op, stream := s.lctlStream, nt := nt } : SegStore)] } }
        else s.storeTgt s.cur s.curCx (s.ptagOf s.cur) t (bs.take n) s.lctlStream op nt
      | none => s.storeTgt s.cur s.curCx (s.ptagOf s.cur) t (bs.take n) s.lctlStream op nt
    s.putPieces (va + n) op nt (bs.drop n) r

/-- A store of bytes at an address (R355). -/
def State.store (s : State) (va align op : Nat) (bs : List Byte) (nt : Bool) : State :=
  s.gate fun s =>
    match s.reach va bs.length align accStore with
    | .error s' => s'
    | .ok ts => s.afterWrites nt ts fun s => s.putPieces va op nt bs ts

def State.storeOp (s : State) (t : Tr) (n align op : Nat) (nt : Bool) : Host.Outcome State Fault Refusal :=
  s.acting t false false fun v s => s.store (s.opB .lsu).toNat align op (leBytes n v.toNat) nt

/-! ### Gather and scatter -/

/-- The active lanes with their addresses: b plus a 32-bit offset (R358). -/
def lanes (base : Word) (offs mask : Nat) : List (Nat × Nat) :=
  ((List.range 32).filter fun j => bitOf mask j).map fun j =>
    (j, (base + BitVec.ofNat 64 (bits offs (32 * j + 31) (32 * j))).toNat)

/-- Every active lane is checked and translated, the lowest fault reported (R358). -/
def State.reachLanes (s : State) (acc : Nat) : List (Nat × Nat) → Except State (List (Nat × Nat × Tgt))
  | [] => .ok []
  | (j, va) :: t =>
    match s.reach va 4 4 acc with
    | .error e => .error e
    | .ok l => match s.reachLanes acc t with
      | .error e => .error e
      | .ok r => .ok ((l.map fun x => (j, va, x.1)) ++ r)

/-- Lane `j` of a gather finds its word at once: in local memory, or without .bp in the caches (R154), a free choice (log 6). -/
def State.gathNow (s : State) (x : LoadReq) (j : Nat) (t : Tgt) : Bool :=
  s.localTgt s.cur t || x.fill == 2 && s.choose (512 + j) && match t with
    | .hbm _ m => m == 0
    | .remote pkg pa m => m == 0 && s.heldHere (remoteKey pkg pa) 4
    | _ => false
/-- The lanes of a gather: the words found at once, and the requests for the others. -/
def State.gatherLanes (s : State) (x : LoadReq) : Val → List (Nat × Nat × Tgt) → Val × State
  | v, [] => (v, s)
  | v, (j, va, t) :: r =>
    let bs := s.pieceBytes (!s.gathNow x j t) t 4
    (s.loadPiece { x with va := va } t bs (4 * j)).gatherLanes x (v ||| pieceVal bs (4 * j)) r

/-- gath with its lanes translated (R358). -/
def State.gather (s : State) (x : LoadReq) (ls : List (Nat × Nat × Tgt)) : State :=
  let r := s.gatherLanes x 0 ls
  r.2.expectOf x.b { id := x.key, done := decide (r.2.nextId ≤ s.nextId), val := r.1, lend := s.lendNow,
                     fault := ls.findSome? fun l => if s.gathNow x l.1 l.2.2 then s.readFault l.2.1 l.2.2 4 else none }

/-! ### The triggers -/

/-- LSU_LDB (R355): 1 byte, zero-extended. -/
def execLsuLdb (bp : Bool) (t : Tr) (s : State) : Host.Outcome State Fault Refusal := s.loadOp t 1 1 bp false
/-- LSU_LDH (R355): 2 bytes, zero-extended. -/
def execLsuLdh (bp : Bool) (t : Tr) (s : State) : Host.Outcome State Fault Refusal := s.loadOp t 2 2 bp false
/-- LSU_LDW (R355): 4 bytes, zero-extended. -/
def execLsuLdw (bp : Bool) (t : Tr) (s : State) : Host.Outcome State Fault Refusal := s.loadOp t 4 4 bp false
/-- LSU_LDD (R355): 8 bytes. -/
def execLsuLdd (bp : Bool) (t : Tr) (s : State) : Host.Outcome State Fault Refusal := s.loadOp t 8 8 bp false
/-- LSU_LDBS (R355): 1 byte, sign-extended. -/
def execLsuLdbs (bp : Bool) (t : Tr) (s : State) : Host.Outcome State Fault Refusal := s.loadOp t 1 1 bp true
/-- LSU_LDHS (R355): 2 bytes, sign-extended. -/
def execLsuLdhs (bp : Bool) (t : Tr) (s : State) : Host.Outcome State Fault Refusal := s.loadOp t 2 2 bp true
/-- LSU_LDWS (R355): 4 bytes, sign-extended. -/
def execLsuLdws (bp : Bool) (t : Tr) (s : State) : Host.Outcome State Fault Refusal := s.loadOp t 4 4 bp true
/-- LSU_LDV (R355): 128 bytes at a 16-byte-aligned address. -/
def execLsuLdv (bp : Bool) (t : Tr) (s : State) : Host.Outcome State Fault Refusal := s.loadOp t 128 16 bp false
/-- LSU_STB (R355): the low byte of a at b. -/
def execLsuStb (t : Tr) (s : State) : Host.Outcome State Fault Refusal := s.storeOp t 1 1 0x0C false
/-- LSU_STH (R355): the low 2 bytes of a at b. -/
def execLsuSth (t : Tr) (s : State) : Host.Outcome State Fault Refusal := s.storeOp t 2 2 0x0D false
/-- LSU_STW (R355): the low 4 bytes of a at b. -/
def execLsuStw (t : Tr) (s : State) : Host.Outcome State Fault Refusal := s.storeOp t 4 4 0x0E false
/-- LSU_STD (R355): the low 8 bytes of a at b. -/
def execLsuStd (t : Tr) (s : State) : Host.Outcome State Fault Refusal := s.storeOp t 8 8 0x0F false
/-- LSU_STV (R355): 128 bytes at a 16-byte-aligned address. -/
def execLsuStv (t : Tr) (s : State) : Host.Outcome State Fault Refusal := s.storeOp t 128 16 0x10 false
/-- LSU_STVN (R359): as stv, through to the point of coherence. -/
def execLsuStvn (t : Tr) (s : State) : Host.Outcome State Fault Refusal := s.storeOp t 128 16 0x11 true

/-- LSU_GATH (R358): a words of up to 32 lanes, queued. -/
def execLsuGath (bp : Bool) (t : Tr) (s : State) : Host.Outcome State Fault Refusal :=
  s.acting t false false fun v s => s.gate fun s =>
    match s.reachLanes accLoad (lanes (s.opB .lsu) v.toNat (s.opC .lsu).toNat) with
    | .error s' => s'
    | .ok ls => s.afterWrites false (ls.map fun l => (l.2.2, 4)) fun (s : State) =>
      let s := s.yieldLines (ls.map fun l => (l.2.2, 4))
      { s with nextId := s.nextId + 1 }.gather
        { key := s.nextId, b := s.lctlBi, va := 0, stream := s.lctlStream, total := 128, sign := false, acq := none,
          fill := if bp then 1 else 2 } ls

/-- LSU_SCAT (R358): the words of a to up to 32 lanes; of two lanes that name one word the higher leaves its value. -/
def execLsuScat (t : Tr) (s : State) : Host.Outcome State Fault Refusal :=
  s.acting t false false fun v s => s.gate fun s =>
    match s.reachLanes accStore (lanes (s.opB .lsu) (s.opPort .lsu 2).toNat (s.opC .lsu).toNat) with
    | .error s' => s'
    | .ok ls => s.afterWrites false (ls.map fun l => (l.2.2, 4)) fun s => ls.foldl (fun s l =>
        s.putPieces l.2.1 0x13 false (leBytes 4 (bits v.toNat (32 * l.1 + 31) (32 * l.1))) [(l.2.2, 4)]) s

/-- A prefetch of a REMOTE line: the L2 reads it, and its data fills the caches when it comes. -/
def State.prefRemote (s : State) (pkg pa : Nat) : State :=
  let a := pa / 128 * 128
  s.request { ty := tyLoad, ptag := s.ptagOf s.cur, src := s.l2Ep (dieOf s.cur), dst := llcEp pkg a, subop := 7, addr := a }
    { id := 0, core := l2Core (dieOf s.cur), ctx := 0, unit := 25, op := 0, tag := 0, stream := 0, loc := remoteKey pkg a, size := 128,
      arg := BitVec.ofNat 64 s.cur, fill := 2 }

/-- LSU_PREF (R359): the line at a is filled in the L2, and in the L1 where R154 caches it; it never traps. -/
def execLsuPref (t : Tr) (s : State) : Host.Outcome State Fault Refusal :=
  s.acting t false false fun v s =>
    match s.translateNow s.cur (s.ptagOf s.cur) (valWord v).toNat accLoad with
    | .ok (.hbm pa 0) _ _ => if s.ownerOk (s.ptagOf s.cur) pa then s.fillL1 [(.hbm pa 0, 1)] else s
    | .ok (.remote pkg pa 0) _ _ => if s.heldHere (remoteKey pkg (pa / 128 * 128)) 128 then s else s.prefRemote pkg pa
    | _ => s

/-- LSU_LDACQ (R168, R355): a 64-bit acquire load at a scope, queued. -/
def execLsuLdacq (sc : Scope) (t : Tr) (s : State) : Host.Outcome State Fault Refusal :=
  s.acting t false false fun v s => s.load (valWord v).toNat 8 8 true false (some sc.code)

/-- LSU_STREL (R168, R355): a 64-bit release store at a scope; earlier accesses of the context perform first. From package
scope on it goes through to the point of coherence (R163). -/
def execLsuStrel (sc : Scope) (t : Tr) (s : State) : Host.Outcome State Fault Refusal :=
  s.acting t false false fun v s => s.gate fun s =>
    match s.reach (s.opB .lsu).toNat 8 8 accStore with
    | .error s' => s'
    | .ok ts => s.settle sc.code 0xFFFF fun s => s.afterWrites (decide (3 ≤ sc.code)) ts fun s =>
        s.putPieces (s.opB .lsu).toNat (0x20 + sc.code) (decide (3 ≤ sc.code)) (leBytes 8 v.toNat) ts

/-- LSU_DRAIN (R167, R170): the covered accesses perform; no later access issues before, and from package scope on none finds an older
clean line of the L2. -/
def execLsuDrain (sc : Scope) (t : Tr) (s : State) : Host.Outcome State Fault Refusal :=
  s.acting t false false fun _ s =>
    let mask := (s.opB .lsu).toNat % 65536
    s.settle sc.code mask fun s => if 3 ≤ sc.code ∧ mask ≠ 0 then s.evictAll (dieOf s.cur) else s

end Sys2Proof.Machine
end

