-- ==== Sys2Proof/Machine/Engine.lean ====
section
/-! DEFINITION. What the engine queues share: reading and writing memory through translation (R151, R331, R346, R361),
fetching what lies outside the die's reach, and entering a queue (R133, R202, R331, R332). -/

namespace Sys2Proof.Machine

/-- What an engine's access gives: a value, bytes that a request must fetch first, a wait, or the fault that its entry will hold. -/
inductive Eng (α : Type) where
  | ok (a : α)
  | need (t : Tgt) (va n : Nat)
  | hold
  | bad (t : TrapInfo)

def Eng.bind {α β : Type} (x : Eng α) (f : α → Eng β) : Eng β :=
  match x with
  | .ok a => f a
  | .need t va n => .need t va n
  | .hold => .hold
  | .bad t => .bad t
def engMap {α β : Type} (f : α → Eng β) : List α → Eng (List β)
  | [] => .ok []
  | a :: t => (f a).bind fun b => (engMap f t).bind fun bs => .ok (b :: bs)

/-- Translate one piece of an engine's access; a walk is waited for inside the engine (R151). -/
def State.engTgt1 (s : State) (k va acc : Nat) : Eng Tgt :=
  match s.translateNow k (s.ptagOf k) va acc with
  | .miss => .hold
  | .fault c d => .bad (xlTrap va acc c d)
  | .ok t _ _ => .ok t

/-- Bytes that the engine of unit `u` has fetched from outside (a REMOTE package, the host, MMIO), by location. -/
def bufKey (u loc : Nat) : Nat := u * 2 ^ 70 + loc
def State.fetched (s : State) (u k loc n : Nat) : Option (List Byte) :=
  let bs := (List.range n).map fun j => SMap.find (s.core k).rbuf (bufKey u loc + j)
  if bs.all Option.isSome then some (bs.map (·.getD 0)) else none

/-- What an engine has fetched is used once (R171). -/
def Core.clearBuf (c : Core) (u : Nat) : Core := { c with rbuf := c.rbuf.filter fun x => !(x.1 / 2 ^ 70 == u) }

/-- Read `n` bytes at a target for the engine of unit `u` of core `k`: the fault of R147, R211 or R356, or the bytes. -/
def State.engRead1 (s : State) (u k va n : Nat) (t : Tgt) : Eng (List Byte) :=
  match t with
  | .sp q off =>
    if !s.spOk (s.ptagOf k) q then .bad (permTrap va 4)
    else if poisoned (s.core q).spPoison off n then .bad (ueTrap off 1 va) else .ok (s.spRead q off n)
  | .hbm pa m =>
    if !s.ownerOk (s.ptagOf k) pa then .bad (permTrap va 4)
    else if poisoned s.hbmPoison pa n then .bad (ueTrap pa 7 va)
    else .ok (if m = 0 then s.viewRead (dieOf k) pa n else s.hbmRead pa n)
  | .remote pkg pa m =>
    let own := (List.range n).map fun j => if m = 0 then s.l2Held (dieOf k) (remoteKey pkg pa + j) else none
    if own.all Option.isSome then .ok (own.map (·.getD 0))
    else match s.fetched u k (tgtKey t) n with
      | some bs => .ok (List.zipWith (fun b (o : Option Byte) => o.getD b) bs own)
      | none => if s.backsOn (dieOf k) (remoteKey pkg pa) n then .hold else .need t va n
  | _ =>
    match s.fetched u k (tgtKey t) n with
    | some bs => .ok bs
    | none => .need t va n

/-- Read `n` bytes at a virtual address for an engine of core `k`. -/
def State.engRead (s : State) (u k va n : Nat) : Eng (List Byte) :=
  if n = 0 then .ok []
  else (engMap (fun (p : Nat × Nat) => (s.engTgt1 k p.1 accLoad).bind fun t => s.engRead1 u k p.1 p.2 t) (pieces va n)).bind
    fun l => .ok l.flatten

/-- Send the LOADs, one per aligned 16-byte unit, for bytes that an engine needs; they answer to the entry `id` of unit
`u`. -/
def State.engFetch (s : State) (k u id stream : Nat) (t : Tgt) (va n : Nat) : State :=
  let d : Ep × Nat := match t with
    | .remote pkg pa _ => (llcEp pkg pa, pa)
    | .host pa _ _ => (s.hostEp, pa)
    | .mmio pa => (s.smcEp, pa)
    | .sp q off => (⟨s.pkg.pkgId, q / 40, q % 40⟩, off)
    | .hbm pa _ => (llcEp s.pkg.pkgId pa, pa)
  let lo := d.2 % 16
  (List.range ((lo + n + 15) / 16)).foldl (fun s j =>
    let rid := s.nextId
    let r := { s with nextId := rid + 1 }.sendReq
      { ty := tyLoad, priv := s.privileged k, stream := stream, ptag := s.ptagOf k, src := s.epOf k, dst := d.1, subop := 4,
        addr := d.2 - lo + 16 * j }
    r.1.addReq { id := rid, core := k, ctx := 0, unit := u, op := 1, tag := r.2, stream := stream, key := some id,
                 addr := d.2 - lo + 16 * j, va := va, loc := tgtKey t - lo + 16 * j, size := 16 }) s

/-- A STORE of an engine that answers to its entry; `bad` marks data known bad (R36). -/
def State.engSend (s : State) (k u id stream va : Nat) (bs : List Byte) (dst : Ep) (addr loc : Nat) (bad : Bool) : State :=
  let rid := s.nextId
  let r := { s with nextId := rid + 1 }.sendReq
    { ty := tyStore, priv := s.privileged k, poison := bad, stream := stream, ptag := s.ptagOf k, src := s.epOf k, dst := dst,
      addr := addr, payload := bs }
  r.1.addReq { id := rid, core := k, ctx := 0, unit := u, op := 2, tag := r.2, stream := stream, key := some id,
               addr := addr, va := va, loc := loc, size := bs.length }

/-- A write of an engine to REMOTE bytes past the die's L2: what the L2 holds of their lines goes first (R164). -/
def State.engPast (s : State) (k u id stream va : Nat) (bs : List Byte) (pkg pa : Nat) (bad : Bool) : Eng State :=
  let key := remoteKey pkg pa
  if s.backsOn (dieOf k) key bs.length then .hold
  else
    let s := (s.updDie (dieOf k) fun d => { d with l2 := SMap.delRun d.l2 key bs.length }).l2Bypass (dieOf k) key bs.length
    .ok (s.engSend k u id stream va bs (llcEp pkg pa) pa key bad)
/-- A write of an engine at a target: the state, or what stops it. A chunk that a checkpoint has yet to copy is copied first (R150). Writes
within the die's reach perform now; others leave as STOREs that answer to the entry, after what the die's L2 holds of their lines. -/
def State.engWrite1 (s : State) (k u id stream va : Nat) (bs : List Byte) (t : Tgt) : Eng State :=
  let die := dieOf k
  let s := s.copyAhead (s.ptagOf k) va
  match t with
  | .sp q off => if s.spOk (s.ptagOf k) q then .ok (s.spWrite q off bs) else .bad (permTrap va 4)
  | .hbm pa m =>
    if !s.ownerOk (s.ptagOf k) pa then .bad (permTrap va 4)
    else if m = 0 then .ok (s.l2Write die pa (s.ptagOf k) none .other bs)
    else .ok ((s.toHome die pa bs.length).hbmWrite pa bs)
  | .remote pkg pa m =>
    if m = 0 then .ok (s.l2Write die (remoteKey pkg pa) (s.ptagOf k) none .other bs) else s.engPast k u id stream va bs pkg pa false
  | .host pa _ _ => .ok (s.engSend k u id stream va bs s.hostEp pa (tgtKey t) false)
  | .mmio pa => .ok (s.engSend k u id stream va bs s.smcEp pa (tgtKey t) false)

/-- Translate every piece of a write before any is made, then write them in order. -/
def State.engTgts (s : State) (k va n acc : Nat) : Eng (List (Nat × Nat × Tgt)) :=
  if n = 0 then .ok []
  else engMap (fun (p : Nat × Nat) => (s.engTgt1 k p.1 acc).bind fun t => .ok (p.1, p.2, t)) (pieces va n)
def State.engPut (k u id stream : Nat) : List (Nat × Nat × Tgt) → List Byte → State → Eng State
  | [], _, s => .ok s
  | (va, n, t) :: r, bs, s =>
    (s.engWrite1 k u id stream va (bs.take n) t).bind fun s => State.engPut k u id stream r (bs.drop n) s
def State.engWrite (s : State) (k u id stream va : Nat) (bs : List Byte) : Eng State :=
  (s.engTgts k va bs.length accStore).bind fun ts => State.engPut k u id stream ts bs s

/-! ### Entering a queue -/

/-- A trigger enters a queue of the acting core (R331): with the queue full the VCC pauses (R133). -/
def State.enter (s : State) (unit room used : Nat) (f : State → State) : State :=
  s.gate fun s => if room ≤ used then s.wait (.full unit) else f s

/-- A waiting request of the engines still answers to an entry. -/
def State.entryBusy (s : State) (id : Nat) : Bool := s.reqs.any fun r => r.key == some id && decide (11 ≤ r.unit) && decide (r.unit ≤ 13)

/-- The head entry of a queue holds a fault from now on (R332). -/
def holdFault (t : TrapInfo) : List QEntry → List QEntry
  | [] => []
  | e :: r => { e with fault := some t } :: r
def setHead (e : QEntry) : List QEntry → List QEntry
  | [] => []
  | _ :: r => e :: r

/-- Free values for details that the spec does not number: the queue entry that DESYNC names (R181; log 9). -/
def entryName (id : Nat) : Word := Config.freeWord (1000 + id)

end Sys2Proof.Machine
end

