-- ==== Sys2Proof/Machine/Copy.lean ====
section
/-! DEFINITION. The copy engine (R360-R363, R172, R378, R379) and checkpoints (R213-R218). -/

namespace Sys2Proof.Machine

/-! ### Entries -/

def QEntry.cid (e : QEntry) : Nat := e.e.toNat % 65536
def QEntry.cstream (e : QEntry) : Nat := bits e.e.toNat 19 16
def QEntry.dstVa (e : QEntry) : Nat := e.a.toNat % 2 ^ 64
def QEntry.srcVa (e : QEntry) : Nat := e.b.toNat % 2 ^ 64
/-- Row bytes, rows and strides: cpy is one row (R361 Table 4). -/
def QEntry.rowLen (e : QEntry) : Nat := if e.op = 0x0B then e.c.toNat % 2 ^ 32 else e.c.toNat % 2 ^ 64
def QEntry.rows (e : QEntry) : Nat := if e.op = 0x0B then bits e.c.toNat 63 32 else 1
def QEntry.srcStride (e : QEntry) : Nat := e.d.toNat % 2 ^ 32
def QEntry.dstStride (e : QEntry) : Nat := bits e.d.toNat 63 32
/-- The bytes a copy moves, and the addresses of the unit at a delivered count. -/
def QEntry.total (e : QEntry) : Nat := e.rowLen * e.rows
def QEntry.srcAt (e : QEntry) (n : Nat) : Nat := (e.srcVa + n / e.rowLen * e.srcStride + n % e.rowLen) % 2 ^ 64
def QEntry.dstAt (e : QEntry) (n : Nat) : Nat := (e.dstVa + n / e.rowLen * e.dstStride + n % e.rowLen) % 2 ^ 64

/-- The misaligned address of a copy, or the free value where only a length or stride is misaligned (R361; log 9). -/
def QEntry.misaligned (e : QEntry) : Option Nat :=
  if e.dstVa % 16 ≠ 0 then some e.dstVa
  else if e.srcVa % 16 ≠ 0 then some e.srcVa
  else if e.rowLen % 16 ≠ 0 ∨ (e.op = 0x0B ∧ (e.srcStride % 16 ≠ 0 ∨ e.dstStride % 16 ≠ 0)) then
    some (Config.freeWord (2000 + e.id)).toNat
  else none

def State.updCpq (s : State) (k id : Nat) (f : QEntry → QEntry) : State :=
  s.updCore k fun c => { c with cpq := c.cpq.map fun e => if e.id = id then f e else e }

/-- COPYFAULT (R361): the copy id, the bytes delivered, the faulting address, the cause and its reason. -/
def copyTrap (e : QEntry) (va cause reason : Nat) : TrapInfo :=
  { cause := 0x0B,
    d := [BitVec.ofNat 64 e.cid, BitVec.ofNat 64 e.prog, BitVec.ofNat 64 va, BitVec.ofNat 64 (cause % 256 + reason % 256 * 256)] }
/-- Cause and reason of a trap that an access of a copy met (R361): XLATE's reason, PERM's or UE's D1. -/
def copyCause (t : TrapInfo) : Nat × Nat :=
  let d1 := (t.d.getD 1 0).toNat
  (t.cause, if t.cause = 4 then bits d1 10 8 else if t.cause = 6 then 0 else d1)
def State.copyFault (s : State) (k : Nat) (e : QEntry) (va : Nat) (t : TrapInfo) : State :=
  let c := copyCause t
  s.updCpq k e.id fun x => { x with fault := some (copyTrap e va c.1 c.2), sent := false }

/-- A context waits for the copy that ends (R362): it will find the count. -/
def noteCopy (id n : Nat) (c : Cx) : Cx := if c.pause = .cpyw id then { c with cpyGot := some n } else c
/-- The head of the copy queue leaves it. -/
def State.popCpy (s : State) (k : Nat) (e : QEntry) : State :=
  (s.updCore k fun c => { c.clearBuf 13 with
    cpq := c.cpq.filter (·.id != e.id), cx0 := noteCopy e.id e.prog c.cx0, cx1 := noteCopy e.id e.prog c.cx1,
    cx2 := noteCopy e.id e.prog c.cx2, cx3 := noteCopy e.id e.prog c.cx3 })

/-! ### One unit of a copy -/

/-- The 16 bytes at a target and whether they are marked; a mark is not consumed (R211, R361). -/
def State.unitRead (s : State) (k : Nat) (e : QEntry) (va : Nat) (t : Tgt) : Eng (List Byte × Bool) :=
  let mark := match t with
    | .sp q off => poisoned (s.core q).spPoison off 16
    | .hbm pa _ => poisoned s.hbmPoison pa 16
    | _ => !e.aux.isEmpty
  let clean := match t with
    | .sp q _ => s.updCore q fun c => { c with spPoison := [] }
    | _ => { s with hbmPoison := [] }
  (clean.engRead1 13 k va 16 t).bind fun bs => .ok (bs, mark)

/-- Mark a unit that a copy has written (R211). -/
def State.markUnit (s : State) (t : Tgt) : State :=
  match t with
  | .sp q off => s.updCore q fun c => { c with spPoison := off / 16 :: c.spPoison }
  | .hbm pa _ => { s with hbmPoison := pa / 16 :: s.hbmPoison }
  | _ => s
/-- Write one unit, with its mark. -/
def State.unitWrite (s : State) (k : Nat) (e : QEntry) (va : Nat) (bs : List Byte) (bad : Bool) (t : Tgt) : Eng State :=
  match t with
  | .remote pkg pa _ => s.engPast k 13 e.id e.cstream va bs pkg pa bad
  | .host pa _ _ => .ok (s.engSend k 13 e.id e.cstream va bs s.hostEp pa (tgtKey t) bad)
  | .mmio pa => .ok (s.engSend k 13 e.id e.cstream va bs s.smcEp pa (tgtKey t) bad)
  | _ => (s.engWrite1 k 13 e.id e.cstream va bs t).bind fun s => .ok (if bad then s.markUnit t else s)

/-- The next unit of a copy: it is read, then written (R361). -/
def State.copyUnit (s : State) (k : Nat) (e : QEntry) : State :=
  let sva := e.srcAt e.prog
  let dva := e.dstAt e.prog
  let step := fun {α : Type} (va : Nat) (x : Eng α) (f : α → State) => match x with
    | .ok a => f a
    | .hold => s
    | .need t va n => s.engFetch k 13 e.id e.cstream t va n
    | .bad t => s.copyFault k e va t
  step sva (s.engTgt1 k sva accLoad) fun ts => step sva (s.unitRead k e sva ts) fun r =>
    step dva (s.engTgt1 k dva accStore) fun td => step dva (s.unitWrite k e dva r.1 r.2 td) fun s' =>
      (s'.updCpq k e.id fun x => { x with prog := x.prog + 16, aux := [] }).updCore k fun c => c.clearBuf 13

/-! ### Bound copies (R378, R379) -/

def barPhase (w : Nat) : Nat := w % 2 ^ 20
def barCount (w : Nat) : Nat := bits w 35 20
def barArr (w : Nat) : Nat := bits w 51 36
def barPend (w : Nat) : Nat := bits w 59 52
/-- W0 of the next phase (R378). -/
def barNext (w : Nat) : Nat := barCount w * 2 ^ 20 + (barPhase w + 1) % 2 ^ 20

/-- A STORE of the copy queue at a barrier (R378, R379). -/
def State.sendBarStore (s : State) (k id key : Nat) (bs : List Byte) : State :=
  let d := s.homeOf key
  s.request { s.txn k tyStore 0 d with payload := bs }
    { id := 0, core := k, ctx := 0, unit := 13, op := 10, tag := 0, stream := 0, key := some id, loc := key, size := bs.length }

/-- The copy queue's dirty lines reach package scope before its release (R163, R378). -/
def State.copyRelease (s : State) (k : Nat) : State := s.writeBack (dieOf k) fun x => x.2.ptag == s.ptagOf k

/-- The add of a bind to this barrier that is not answered: the copy queue comes after it (R378). -/
def State.bindOut (s : State) (k key : Nat) : Bool :=
  s.reqs.any fun r => r.core == k && r.unit == 8 && r.op == 0x40 && r.loc == key

/-- BOUND_COPY_DONE (R378): a bound copy has delivered everything; the copy queue takes it out of the barrier. -/
def execBoundCopyDone (core : Nat) (s : State) : Host.Outcome State Fault Refusal :=
  .next (match (s.core core).cpq with
    | e :: _ =>
      match e.boundPa with
      | some key =>
        if e.fault.isNone ∧ e.total ≤ e.prog ∧ !e.sent ∧ !s.bindOut core key then
          ((s.copyRelease core).updCpq core e.id fun x => { x with sent := true }).sendBarAtomic core e.id key 0 (2 ^ 64 - 2 ^ 52) 7
        else s
      | none => s
    | [] => s)

/-- BOUND_COPY_FAULT (R379): a bound copy has faulted; the copy queue writes word 1, then adds FAULT with a release. -/
def execBoundCopyFault (core : Nat) (s : State) : Host.Outcome State Fault Refusal :=
  .next (match (s.core core).cpq with
    | e :: _ =>
      match e.boundPa, e.fault with
      | some key, some t =>
        if e.sent ∨ s.bindOut core key then s
        else
          let d := fun n => (t.d.getD n 0).toNat
          let w1 := d 0 % 2 ^ 16 + d 1 % 2 ^ 32 * 2 ^ 16 + d 3 % 2 ^ 16 * 2 ^ 48
          (((s.copyRelease core).updCpq core e.id fun x => { x with sent := true }).sendBarStore core e.id (key + 8)
            (leBytes 8 w1)).sendBarAtomic core e.id key 0 (2 ^ 60) 8
      | _, _ => s
    | [] => s)

/-! ### Checkpoints -/

/-- Fields of a CKD (R213 Table 4) of 64 bytes. -/
def ckWord (bs : List Byte) (n : Nat) : Nat := leNat ((bs.drop (8 * n)).take 8)
def ckGen (bs : List Byte) : Nat := ckWord bs 0 % 2 ^ 32
def ckNrep (bs : List Byte) : Nat := bits (ckWord bs 0) 39 32
def ckRidx (bs : List Byte) : Nat := bits (ckWord bs 0) 47 40
def ckNrange (bs : List Byte) : Nat := bits (ckWord bs 0) 53 48
def ckBpkg (bs : List Byte) : Nat := ckWord bs 1 % 256
def ckRegion (bs : List Byte) : Nat := bits (ckWord bs 1) 51 21 * 2 ^ 21
def ckTab (bs : List Byte) : Nat := bits (ckWord bs 2) 50 0 * 64
def ckStat (bs : List Byte) : Nat := ckWord bs 3 % 256
def ckOk (bs : List Byte) : Bool :=
  decide (1 ≤ ckNrep bs) && decide (ckRidx bs < ckNrep bs) && decide (1 ≤ ckNrange bs) && decide (ckNrange bs ≤ 32)
/-- CKD word 3 (R213). -/
def ckWord3 (stat reason n : Nat) : Nat := stat + reason * 256 + n % 2 ^ 32 * 2 ^ 32

/-- The chunks of a range table, as VA page numbers in chunk order (R213). -/
def chunksOf (tab : List Byte) (n : Nat) : List Nat :=
  (List.range n).flatMap fun j =>
    let base := bits (leNat ((tab.drop (16 * j)).take 8)) 56 16
    (List.range (leNat ((tab.drop (16 * j + 8)).take 4))).map (base + ·)
/-- Those that a replica owns, in order. -/
def ownedChunks (cs : List Nat) (nrep ridx : Nat) : List Nat := (cs.zipIdx.filter fun x => x.2 % nrep == ridx).map (·.1)
def commitOff (gen : Nat) : Nat := if gen % 2 = 0 then 0 else 0x40

/-- Write CKD word 3 of a running checkpoint (R213); a descriptor that is no longer mapped is left. -/
def State.ckdWrite (s : State) (ptag va w : Nat) : State :=
  match s.xlWalk ptag (va + 24) accStore with
  | .ok (.hbm pa _) _ _ => if s.ownerOk ptag pa then s.devWrite pa (leBytes 8 w) else s
  | .ok (.sp q off) _ _ => if s.spOk ptag q then s.spWrite q off (leBytes 8 w) else s
  | _ => s

/-- The end of a ckst or ckrst entry; a ckst delivers ce.b0 (R363). -/
def State.ckEnd (s : State) (k : Nat) (e : QEntry) (code : Nat) : State :=
  (if e.op = 8 then s.deliver k e.ctx 13 0 e.id (natVal code) else s).popCpy k e
/-- The entry fails: CKSTAT 3 and its reason in the CKD (R215 step 2). -/
def State.ckFail (s : State) (k : Nat) (e : QEntry) (reason : Nat) : State :=
  match s.engWrite k 13 e.id e.cstream ((e.dstVa + 24) % 2 ^ 64) (leBytes 8 (ckWord3 3 reason 0)) with
  | .ok s' => s'.ckEnd k e reason
  | .bad t => s.copyFault k e e.dstVa t
  | _ => s

/-- Go on with an access of a checkpoint entry: a fault that is not one of its ranges is held as a copy's (R361). -/
def State.ckTry {α : Type} (s : State) (k : Nat) (e : QEntry) (x : Eng α) (f : α → State) : State :=
  match x with
  | .ok a => f a
  | .hold => s
  | .need t va n => s.engFetch k 13 e.id e.cstream t va n
  | .bad t => s.copyFault k e e.dstVa t

/-- Step 3 of R215: VALID := 0 in the commit record of the slot, at the buddy. -/
def State.ckInvalidate (s : State) (k : Nat) (e : QEntry) (ckd : List Byte) : State :=
  let pa := ckRegion ckd + commitOff (ckGen ckd) + 15
  s.engSend k 13 e.id e.cstream 0 [0] (llcEp (ckBpkg ckd) pa) pa (remoteKey (ckBpkg ckd) pa) false

/-- ckst takes its next step (R215 steps 1 to 4): `prog` counts them. -/
def State.ckstStep (s : State) (k : Nat) (e : QEntry) : State :=
  if e.prog = 0 ∧ s.covered k e.ctx 4 0xFFFF then s
  else if e.prog = 0 ∧ s.unsettled k e.ctx 4 0xFFFF then s.pushOut k 4
  else
    let s := if e.prog = 0 then s.copyRelease k else s
    s.ckTry k e (s.engRead 13 k e.dstVa 64) fun ckd =>
      let p := s.ptagOf k
      if e.prog = 0 ∧ ckStat ckd = 1 then s.ckEnd k e 4
      else if !ckOk ckd then s.ckFail k e 1
      else s.ckTry k e (s.engRead 13 k (ckTab ckd) (16 * ckNrange ckd)) fun tab =>
        let cs := chunksOf tab (ckNrange ckd)
        if cs.any fun c => (s.chunkLeaf p c).isNone then s.ckFail k e 1
        else if e.prog = 0 then
          s.ckTry k e (s.engWrite k 13 e.id e.cstream ((e.dstVa + 24) % 2 ^ 64) (leBytes 8 (ckWord3 1 0 0))) fun s =>
            (s.ckInvalidate k e ckd).updCpq k e.id fun x => { x with prog := 1 }
        else if e.aux ≠ [] then s.ckFail k e 2
        else
          let own := ownedChunks cs (ckNrep ckd) (ckRidx ckd)
          let s := own.foldl (fun (s : State) c => s.setSnap p c true) s
          let ck : Ckpt :=
            { id := s.nextId, ckdVa := e.dstVa, ptag := p, die := dieOf k, gen := ckGen ckd, nrep := ckNrep ckd, ridx := ckRidx ckd,
              bpkg := ckBpkg ckd, region := ckRegion ckd, nchunk := cs.length, chunks := own, tick := s.pkg.ticks }
          { s with nextId := s.nextId + 1, ckpts := s.ckpts ++ [ck] }.ckEnd k e 0

/-- The CRC-32C register after 64 KiB of zeros: a linear step, so chunk states combine in order (R37, R214). -/
def crcZeros (n c : Nat) : Nat := (List.replicate n (0 : Byte)).foldl crcByte c
/-- The CRC of a slot from its chunks' states, in order. -/
def slotCrc (l : List Nat) : Nat := Nat.xor (l.foldl (fun c x => Nat.xor (crcZeros 65536 c) x) 0xFFFFFFFF) 0xFFFFFFFF

/-- A commit record (R214). -/
def commitRecord (gen nchunk nrep ridx crc tick : Nat) : List Byte :=
  leBytes 8 gen ++ leBytes 8 (nchunk % 2 ^ 32 + nrep * 2 ^ 32 + ridx * 2 ^ 40 + 2 ^ 63) ++ leBytes 8 crc ++ leBytes 8 tick ++ leBytes 32 0

def State.dropCkpt (s : State) (id : Nat) : State := { s with ckpts := s.ckpts.filter (·.id != id) }

/-- A checkpoint fails in steps 5 to 7 (R215, Table 6): SNAP goes, CKSTAT 3. -/
def State.ckAbort (s : State) (c : Ckpt) (reason : Nat) : State :=
  let s := c.chunks.foldl (fun (s : State) x => s.setSnap c.ptag x false) s
  (s.ckdWrite c.ptag c.ckdVa (ckWord3 3 reason c.copied.length)).dropCkpt c.id

/-- The chunk that the engine copies next: one that a paused write waits for, else the first in order (R215, R216). -/
def State.nextChunk (s : State) (c : Ckpt) : Option Nat :=
  let waits := s.cores.flatMap fun (x : Nat × Core) => [x.2.cx0, x.2.cx1, x.2.cx2, x.2.cx3].filterMap fun y => match y.pause with
    | .snap va => if s.ptagOf x.1 = c.ptag then some (va / 65536) else none
    | _ => none
  (c.chunks.find? fun x => !c.copied.contains x && waits.contains x).or (c.chunks.find? fun x => !c.copied.contains x)

/-- Whether the checkpoint engine can move a checkpoint on. -/
def Ckpt.ready (c : Ckpt) : Bool := c.failed || decide (c.copied.length < c.chunks.length) || c.sending == 0

/-- CHECKPOINT_ENGINE_COPY (R215 steps 5 to 7): the engine copies a chunk, writes the commit record, or ends. -/
def execCheckpointEngineCopy (k : Nat) (s : State) : Host.Outcome State Fault Refusal :=
  .next (match s.ckpts[k]? with
    | none => s
    | some c =>
      if c.failed then s.ckAbort c 2
      else match s.nextChunk c with
        | some x => s.copyChunk c x
        | none =>
          if c.sending ≠ 0 then s
          else if c.committing then (s.ckdWrite c.ptag c.ckdVa (ckWord3 2 0 c.copied.length)).dropCkpt c.id
          else
            let crcs := c.chunks.map fun x => ((c.crc.find? (·.1 == x)).map (·.2)).getD 0
            (s.ckSend c 2 (commitOff c.gen) (commitRecord c.gen c.nchunk c.nrep c.ridx (slotCrc crcs) c.tick)).updCkpt c.id
              fun c => { c with committing := true })

/-- A write of the checkpoint engine is answered (R215 step 6). -/
def State.ckptAnswer (s : State) (id status : Nat) : State :=
  s.updCkpt id fun c => { c with sending := c.sending - 1, failed := c.failed || decide (status ≠ stOk) }

/-! ### Restore -/

/-- Where the region of replica `j` lies: the own one's buddy is in the CKD; the spec gives the others no place (log 9). -/
def regionOf (ckd : List Byte) (j : Nat) : Nat × Nat :=
  if j = ckRidx ckd then (ckBpkg ckd, ckRegion ckd)
  else ((Config.freeWord (3000 + 2 * j)).toNat % 256, (Config.freeWord (3001 + 2 * j)).toNat % 2 ^ 31 * 2 ^ 21)
/-- Bytes of a replica's region, by fabric LOADs. -/
def State.regionRead (s : State) (k : Nat) (ckd : List Byte) (j off n : Nat) : Eng (List Byte) :=
  let r := regionOf ckd j
  s.engRead1 13 k 0 n (.remote r.1 (r.2 + off) 1)

/-- The owned chunks of replica `j` in its slot of a generation. -/
def ownCount (nchunk nrep j : Nat) : Nat := (nchunk + nrep - 1 - j) / nrep
/-- Whether replica `j` holds a complete slot of a generation (R217). -/
def State.slotComplete (s : State) (k : Nat) (ckd : List Byte) (nchunk gen j : Nat) : Eng Bool :=
  (s.regionRead k ckd j (commitOff gen) 64).bind fun r =>
    if ckWord r 0 % 2 ^ 32 ≠ gen ∨ !bitOf (ckWord r 1) 63 ∨ ckWord r 1 % 2 ^ 32 ≠ nchunk % 2 ^ 32
        ∨ bits (ckWord r 1) 39 32 ≠ ckNrep ckd ∨ bits (ckWord r 1) 47 40 ≠ j then .ok false
    else (s.regionRead k ckd j (chunkOff gen nchunk (ckNrep ckd) 0) (ownCount nchunk (ckNrep ckd) j * 65536)).bind fun bs =>
      .ok (crc32c bs == ckWord r 2 % 2 ^ 32)
/-- The generations that replica 0's records name, and the newest that every replica holds complete (R217, R218). -/
def State.newestComplete (s : State) (k : Nat) (ckd : List Byte) (nchunk : Nat) : Eng (Option Nat) :=
  (s.regionRead k ckd 0 0 128).bind fun r =>
    let complete := fun g => (engMap (s.slotComplete k ckd nchunk g) (List.range (ckNrep ckd))).bind fun l => .ok (l.all id)
    let ga := ckWord r 0 % 2 ^ 32
    let gb := ckWord (r.drop 64) 0 % 2 ^ 32
    (if ga % 2 = 0 then complete ga else .ok false).bind fun a =>
      (if gb % 2 = 1 then complete gb else .ok false).bind fun b =>
        .ok (if a && b then some (max ga gb) else if a then some ga else if b then some gb else none)

/-- One chunk of a generation into its range (R218). -/
def State.restoreChunk (s : State) (k : Nat) (e : QEntry) (ckd : List Byte) (nchunk gen i page : Nat) : State :=
  let n := ckNrep ckd
  s.ckTry k e (s.regionRead k ckd (i % n) (chunkOff gen nchunk n (i / n)) 65536) fun bs =>
    match s.engWrite k 13 e.id e.cstream (page * 65536) bs with
    | .ok s' => s'.updCpq k e.id fun x => { x with prog := i + 2 }
    | .bad _ => s.ckFail k e 1
    | _ => s

/-- ckrst takes its next step (R218): it finds the newest complete generation, then copies chunk after chunk. `prog` is 1 more
than the chunks restored once the generation, in `tags`, is known. -/
def State.ckrstStep (s : State) (k : Nat) (e : QEntry) : State :=
  if e.aux ≠ [] then s.ckFail k e 2
  else s.ckTry k e (s.engRead 13 k e.dstVa 64) fun ckd =>
    if !ckOk ckd then s.ckFail k e 1
    else s.ckTry k e (s.engRead 13 k (ckTab ckd) (16 * ckNrange ckd)) fun tab =>
      let cs := chunksOf tab (ckNrange ckd)
      if e.prog = 0 then
        if cs.any fun c => (s.chunkLeaf (s.ptagOf k) c).isNone then s.ckFail k e 1
        else s.ckTry k e (s.newestComplete k ckd cs.length) fun g =>
          match g with
          | none => s.ckFail k e 2
          | some g => (s.updCpq k e.id fun x => { x with prog := 1, tags := [g] }).updCore k fun c => c.clearBuf 13
      else match cs[e.prog - 1]? with
        | some page =>
          (s.restoreChunk k e ckd cs.length (e.tags.headD 0) (e.prog - 1) page).updCore k fun c => c
        | none =>
          s.ckTry k e (s.engWrite k 13 e.id e.cstream ((e.dstVa + 24) % 2 ^ 64) (leBytes 8 (ckWord3 2 0 cs.length))) fun s => s.ckEnd k e 0

/-! ### The queue -/

/-- Whether the head of a copy queue can move; a bound copy that is complete waits for its barrier (R378). -/
def State.cpqReady (s : State) (k : Nat) : Option QEntry :=
  match (s.core k).cpq with
  | e :: _ =>
    if e.fault.isSome || s.entryBusy e.id then none
    else if (e.op = 4 ∨ e.op = 0x0B) ∧ e.boundPa.isSome ∧ e.total ≤ e.prog then none
    else if e.op = 8 ∧ e.prog = 0 ∧ s.covered k e.ctx 4 0xFFFF then none
    else some e
  | [] => none

/-- A copy takes its next step (R361): its checks, a unit, or its end. -/
def State.copyStep (s : State) (k : Nat) (e : QEntry) : State :=
  if e.total = 0 then s.popCpy k e
  else match e.misaligned with
    | some va => s.updCpq k e.id fun x => { x with fault := some (copyTrap e va 6 0), sent := false }
    | none => if e.total ≤ e.prog then s.popCpy k e else s.copyUnit k e

/-- COPY_ENTRY_DONE (R361): the head of the copy queue takes a step; after its last one it leaves the queue. -/
def execCopyEntryDone (core : Nat) (s : State) : Host.Outcome State Fault Refusal :=
  .next (match s.cpqReady core with
    | some e =>
      match e.op with
      | 8 => s.ckstStep core e
      | 0x0A => s.ckrstStep core e
      | _ => s.copyStep core e
    | none => s)

/-! ### The triggers -/

/-- An entry joins the copy queue with its operands as they are at issue (R331, R360). -/
def State.pushCpy (s : State) (v : Val) (op : Nat) : State :=
  s.enter 13 64 s.myCore.cpq.length fun s =>
    let e : QEntry := { id := s.nextId, op := op, a := v, b := s.opPort .ce 1, c := s.opPort .ce 0, d := s.opPort .ce 2,
                        e := s.opPort .ce 3, ctx := s.curCx }
    let s := { s with nextId := s.nextId + 1 }.updMyCore fun c => { c with cpq := c.cpq ++ [e] }
    if op = 8 then s.expect s.cur s.curCx 13 0 e.id s.lendNow else s

/-- The latest entry with a copy id (R362, R378). -/
def State.latestCpy (s : State) (k cid : Nat) : Option QEntry := (s.core k).cpq.reverse.find? fun e => e.cid == cid

/-- CE_CPY (R361): copy bytes. -/
def execCeCpy (t : Tr) (s : State) : Host.Outcome State Fault Refusal := s.acting t false false fun v s => s.pushCpy v 4

/-- CE_CPY2D (R361): copy row by row. -/
def execCeCpy2d (t : Tr) (s : State) : Host.Outcome State Fault Refusal := s.acting t false false fun v s => s.pushCpy v 0x0B

/-- CE_CPYW (R362): wait for the latest copy of a CID; b0 := the bytes it delivered, or 0 with none in the queue. -/
def execCeCpyw (t : Tr) (s : State) : Host.Outcome State Fault Refusal :=
  s.acting t false false fun v s => s.gate fun s =>
    match s.me.cpyGot with
    | some n => s.result .ce 0 1 (natVal n)
    | none =>
      match s.latestCpy s.cur (v.toNat % 65536) with
      | none => s.result .ce 0 1 0
      | some e => match s.myCore.headFault 13 with
        | some f => s.raise (queueTrap f)
        | none => s.wait (.cpyw e.id)

/-- CE_BIND (R378): bind a copy that has not completed to a barrier; no later access issues before the add's answer. -/
def execCeBind (t : Tr) (s : State) : Host.Outcome State Fault Refusal :=
  s.acting t false false fun v s => s.gate fun s =>
    match s.latestCpy s.cur ((s.opB .ce).toNat % 65536) with
    | none => s
    | some e =>
      let va := (valWord v).toNat
      match s.reach va 16 16 accAtomic with
      | .error s' => s'
      | .ok ((g, _) :: _) =>
        let s := s.updCpq s.cur e.id fun x => { x with bound := some va, boundPa := some (tgtKey g) }
        s.request { s.txn s.cur tyAtomic (bits (s.opE .ce).toNat 19 16) (s.homeEp g) with subop := 16, payload := leBytes 8 (2 ^ 52) }
          { id := 0, core := s.cur, ctx := s.curCx, launch := s.launchOf s.cur s.curCx, unit := 8, op := 0x40, tag := 0, stream := 0,
            va := va, loc := tgtKey g, acq := some 0, size := 8, nr := true }
      | .ok [] => s

/-- CE_QFENCE (R172): a join on the named queues; their writes are then at package scope. -/
def execCeQfence (t : Tr) (s : State) : Host.Outcome State Fault Refusal :=
  s.acting t false false fun v s => s.gate fun s =>
    let mask := v.toNat % 16
    match fenceFault s.myCore mask with
    | some f => s.raise (queueTrap f)
    | none =>
      if fenceBusy s.myCore mask then s.wait (.fence mask)
      else if mask = 0 then s
      else if s.unsettled s.cur s.curCx 3 0 then s.wait (.drain 3 0)
      else s.copyRelease s.cur

/-- CE_CKST (R363): start a checkpoint. -/
def execCeCkst (t : Tr) (s : State) : Host.Outcome State Fault Refusal := s.acting t false false fun v s => s.pushCpy v 8

/-- CE_CKRST (R218, R363): restore a checkpoint. -/
def execCeCkrst (t : Tr) (s : State) : Host.Outcome State Fault Refusal := s.acting t false false fun v s => s.pushCpy v 0x0A

/-- Bytes at a target as a context reads them at the point of coherence of a scope (R163), with the state that leaves; what lies outside the
package a poll brings (R371, R376). -/
def State.homeBytes (s : State) (scope : Nat) (t : Tgt) (n : Nat) : Option (State × List Byte) :=
  match t with
  | .sp q off => some (s, s.spRead q off n)
  | .hbm pa _ => some (s.readPoc (dieOf s.cur) scope pa n)
  | _ => (s.me.peek.find? fun x => x.1 == tgtKey t && decide (n ≤ x.2.length)).map fun x => (s, x.2.take n)
/-- Go on with those bytes, or wait for the poll (R371). -/
def State.withHome (s : State) (scope va : Nat) (t : Tgt) (n : Nat) (f : List Byte → State → State) : State :=
  if s.writePending (tgtKey t) n then s.wait .prior
  else match s.homeBytes scope t n with
    | some r => f r.2 r.1
    | none => s.wait (.peek t n s.bnd.slot va)

/-- CE_CKWAIT (R363): a join until CKSTAT is not 1; b0 := CKD word 3. -/
def execCeCkwait (t : Tr) (s : State) : Host.Outcome State Fault Refusal :=
  s.acting t false false fun v s => s.gate fun s =>
    match s.reach (valWord v).toNat 64 64 accLoad with
    | .error s' => s'
    | .ok ((g, _) :: _) => s.afterWrites true [(g, 64)] fun s => s.withHome 3 (valWord v).toNat g 64 fun bs s =>
        if ckStat bs = 1 then s.wait (.peek g 64 s.bnd.slot (valWord v).toNat) else s.result .ce 0 1 (natVal (ckWord bs 3))
    | .ok [] => s

end Sys2Proof.Machine
end

