-- ==== Sys2Proof/Machine/Num.lean ====
section
/-! DEFINITION. Number formats and exact arithmetic (R235-R256): values are exact signed dyadics, and every operation
rounds once. -/

namespace Sys2Proof.Machine

/-- A value in the extended reals with a signed zero: `fin neg m e` is (-1)^neg * m * 2^e. -/
inductive XR where
  | nan
  | inf (neg : Bool)
  | fin (neg : Bool) (m : Nat) (e : Int)
  deriving DecidableEq, Repr

/-- The formats that values are decoded from and rounded to (R243 Table 5). -/
inductive Fmt where
  | bf16 | fp16 | e4m3 | e5m2 | e2m1 | int8 | int4 | fp32 | int32
  deriving DecidableEq, Repr

/-- Format codes (R243 Table 5); the codes of IC8, E8M0 and the moment formats are not formats of one value. -/
def Fmt.ofCode (n : Nat) : Option Fmt :=
  match n with
  | 0 => some .bf16 | 1 => some .fp16 | 2 => some .e4m3 | 3 => some .e5m2 | 4 => some .e2m1
  | 5 => some .int8 | 6 => some .int4 | 8 => some .fp32 | 9 => some .int32 | _ => none
/-- Element width in bits. -/
def Fmt.width : Fmt → Nat
  | .bf16 | .fp16 => 16 | .e4m3 | .e5m2 | .int8 => 8 | .e2m1 | .int4 => 4 | .fp32 | .int32 => 32
def Fmt.isInt : Fmt → Bool
  | .int8 | .int4 | .int32 => true | _ => false
/-- Mantissa bits, bias, code of the largest finite value, whether the format has an infinity, canonical NaN (R235 Table
1, R237 Table 2). -/
def Fmt.mbits : Fmt → Nat
  | .bf16 => 7 | .fp16 => 10 | .e4m3 => 3 | .e5m2 => 2 | .e2m1 => 1 | _ => 23
def Fmt.bias : Fmt → Nat
  | .fp16 | .e5m2 => 15 | .e4m3 => 7 | .e2m1 => 1 | _ => 127
def Fmt.maxCode : Fmt → Nat
  | .bf16 => 0x7F7F | .fp16 => 0x7BFF | .e4m3 => 0x7E | .e5m2 => 0x7B | .e2m1 => 7 | _ => 0x7F7FFFFF
def Fmt.hasInf : Fmt → Bool
  | .e4m3 | .e2m1 => false | _ => true
def Fmt.nan : Fmt → Nat
  | .bf16 => 0x7FC0 | .fp16 => 0x7E00 | .e4m3 => 0x7F | .e5m2 => 0x7E | .e2m1 => 0 | _ => 0x7FC00000

/-- A signed integer of `w` bits. -/
def sint (w x : Nat) : Int := if x % 2 ^ w < 2 ^ (w - 1) then (x % 2 ^ w : Nat) else (x % 2 ^ w : Nat) - (2 ^ w : Nat)
/-- The bits of an integer in `w` bits. -/
def ofSint (w : Nat) (x : Int) : Nat := (x % (2 ^ w : Nat)).toNat
def XR.ofInt (x : Int) : XR := .fin (decide (x < 0)) x.natAbs 0

/-- The value of a code (R235). -/
def Fmt.decode (f : Fmt) (x : Nat) : XR :=
  let x := x % 2 ^ f.width
  if f.isInt then .ofInt (sint f.width x)
  else
    let mb := f.mbits
    let neg := bitOf x (f.width - 1)
    let m := x % 2 ^ mb
    let e := x % 2 ^ (f.width - 1) / 2 ^ mb
    if f.maxCode < x % 2 ^ (f.width - 1) then
      if f.hasInf && m == 0 then .inf neg else .nan
    else if e = 0 then .fin neg m (1 - (f.bias : Int) - mb)
    else .fin neg (2 ^ mb + m) ((e : Int) - f.bias - mb)

/-- Whether a quotient n with remainder r (of 2 * half, half > 0) is rounded up in magnitude, for a direction of R239 Table
3. -/
def roundsUp (dir : Nat) (neg : Bool) (n r half : Nat) : Bool :=
  match dir with
  | 0 => decide (half < r) || (r == half && n % 2 == 1)
  | 1 => false
  | 2 => neg && decide (0 < r)
  | _ => !neg && decide (0 < r)

/-- m * 2^e in units of 2^q, rounded in a direction (R239). -/
def quantise (dir : Nat) (neg : Bool) (m : Nat) (e q : Int) : Nat :=
  if q ≤ e then m * 2 ^ (e - q).toNat
  else
    let k := (q - e).toNat
    let n := m / 2 ^ k
    if roundsUp dir neg n (m % 2 ^ k) (2 ^ (k - 1)) then n + 1 else n

/-- Round a value once to a floating-point format under a rounding code (R239, R240). -/
def Fmt.round (f : Fmt) (rm : Nat) (v : XR) : Nat :=
  let sgn := fun (neg : Bool) => if neg then 2 ^ (f.width - 1) else 0
  let sat := bitOf rm 2 || !f.hasInf
  let dir := rm % 4
  match v with
  | .nan => f.nan
  | .inf neg => sgn neg + (if sat then f.maxCode else f.maxCode + 1)
  | .fin neg m e =>
    if m = 0 then sgn neg
    else
      let mb := f.mbits
      let top := max (e + Nat.log2 m) (1 - (f.bias : Int))
      let n := quantise dir neg m e (top - mb)
      let code := if n < 2 ^ mb then n else ((top + f.bias).toNat - 1) * 2 ^ mb + n
      if f.maxCode < code then
        sgn neg + (if sat || dir == 1 || (dir == 2 && !neg) || (dir == 3 && neg) then f.maxCode else f.maxCode + 1)
      else sgn neg + code

/-- A value rounded to an integer and clamped to `w` bits (R241). -/
def roundInt (w dir : Nat) (v : XR) : Nat :=
  let top : Int := 2 ^ (w - 1) - 1
  match v with
  | .nan => 0
  | .inf neg => ofSint w (if neg then -top - 1 else top)
  | .fin neg m e =>
    let n := quantise dir neg m e 0
    ofSint w (max (-top - 1) (min top (if neg then -(n : Int) else n)))

/-- Convert a value to a format (R240, R241). -/
def Fmt.encode (f : Fmt) (rm : Nat) (v : XR) : Nat := if f.isInt then roundInt f.width (rm % 4) v else f.round rm v

/-! ### Exact operations (R242) -/

def XR.neg : XR → XR
  | .nan => .nan | .inf s => .inf (!s) | .fin s m e => .fin (!s) m e
/-- Exact sum; an exact zero is +0 unless both terms are -0. -/
def XR.add (x y : XR) : XR :=
  match x, y with
  | .nan, _ => .nan
  | _, .nan => .nan
  | .inf s, .inf t => if s = t then .inf s else .nan
  | .inf s, _ => .inf s
  | _, .inf t => .inf t
  | .fin s m e, .fin t n f =>
    let q := min e f
    let a : Int := (m * 2 ^ (e - q).toNat : Nat)
    let b : Int := (n * 2 ^ (f - q).toNat : Nat)
    let c := (if s then -a else a) + (if t then -b else b)
    if c = 0 then .fin (m == 0 && n == 0 && s && t) 0 0 else .fin (decide (c < 0)) c.natAbs q
def XR.sub (x y : XR) : XR := x.add y.neg
def XR.isZero : XR → Bool
  | .fin _ m _ => m == 0
  | _ => false
/-- Exact product. -/
def XR.mul (x y : XR) : XR :=
  match x, y with
  | .nan, _ => .nan
  | _, .nan => .nan
  | .inf s, .inf t => .inf (xor s t)
  | .inf s, .fin t n _ => if n = 0 then .nan else .inf (xor s t)
  | .fin s m _, .inf t => if m = 0 then .nan else .inf (xor s t)
  | .fin s m e, .fin t n f => .fin (xor s t) (m * n) (e + f)
/-- Multiply by a power of two. -/
def XR.scale (x : XR) (k : Int) : XR :=
  match x with
  | .fin s m e => .fin s m (e + k)
  | y => y
/-- A quotient to 66 bits or more with an inexact last bit: it rounds as the exact quotient does, in every format. -/
def XR.div (x y : XR) : XR :=
  match x, y with
  | .nan, _ => .nan
  | _, .nan => .nan
  | .inf _, .inf _ => .nan
  | .inf s, .fin t _ _ => .inf (xor s t)
  | .fin s _ _, .inf t => .fin (xor s t) 0 0
  | .fin s m e, .fin t n f =>
    if n = 0 then (if m = 0 then .nan else .inf (xor s t))
    else
      let k := 68 + Nat.log2 n
      let q := m * 2 ^ k / n
      .fin (xor s t) (2 * q + (if m * 2 ^ k % n = 0 then 0 else 1)) (e - f - k - 1)

/-- The integer square root of a number below 4^n, bit by bit from `n`. -/
def isqrtFrom (x : Nat) : Nat → Nat → Nat
  | 0, r => r
  | n + 1, r => if (r + 2 ^ n) * (r + 2 ^ n) ≤ x then isqrtFrom x n (r + 2 ^ n) else isqrtFrom x n r
def isqrt (x : Nat) : Nat := isqrtFrom x (Nat.log2 x / 2 + 1) 0

/-- The square root, with an inexact last bit as for `div`; x is not negative. -/
def sqrtPos (m : Nat) (e : Int) : XR :=
  let k : Nat := if e % 2 = 0 then 136 else 137
  let r := isqrt (m * 2 ^ k)
  .fin false (2 * r + (if r * r = m * 2 ^ k then 0 else 1)) ((e - k) / 2 - 1)
def XR.sqrt (x : XR) : XR :=
  match x with
  | .nan => .nan
  | .inf s => if s then .nan else .inf false
  | .fin s m e => if m = 0 then .fin s 0 0 else if s then .nan else sqrtPos m e

/-- Order of finite and infinite values: -1, 0 or 1; -0 equals +0. -/
def XR.cmp (x y : XR) : Int :=
  match x.sub y with
  | .nan => 0
  | .inf s => if s then -1 else 1
  | .fin s m _ => if m = 0 then 0 else if s then -1 else 1
def XR.isNan (x : XR) : Bool := x = .nan
def XR.isNeg : XR → Bool
  | .nan => false | .inf s => s | .fin s _ _ => s
/-- Whether x is below y with -0 below +0 (R242). -/
def XR.below (x y : XR) : Bool :=
  match x, y with
  | .inf s, .inf t => s && !t
  | _, _ => decide (x.cmp y < 0) || (decide (x.cmp y = 0) && x.isNeg && !y.isNeg)
def XR.min (x y : XR) : XR := if x.isNan || y.isNan then .nan else if y.below x then y else x
def XR.max (x y : XR) : XR := if x.isNan || y.isNan then .nan else if x.below y then y else x
/-- Equality and order as compares see them: false with a NaN (R308). -/
def XR.feq (x y : XR) : Bool :=
  !(x.isNan || y.isNan) && (match x, y with | .inf s, .inf t => s == t | _, _ => decide (x.cmp y = 0))
def XR.flt (x y : XR) : Bool :=
  !(x.isNan || y.isNan) && (match x, y with | .inf s, .inf t => s && !t | _, _ => decide (x.cmp y < 0))

/-- FP32 codes. -/
def f32 (x : Nat) : XR := Fmt.fp32.decode x
def toF32 (v : XR) : Nat := Fmt.fp32.round 0 v

/-- An E8M0 scale: 2^(e - 127), NaN for 0xFF (R235, R244). -/
def scaled (x : XR) (e : Nat) : XR := if e = 0xFF then .nan else x.scale ((e : Int) - 127)

/-- The exact sum of terms in the extended reals (R250). -/
def exactSum (l : List XR) : XR := l.foldl XR.add (.fin true 0 0)

/-! ### Correctly rounded functions (R253)

Each is bounded from both sides by fixed-point intervals of N fractional bits. Where both ends round to one FP32 value that
is the result; N grows until they do. -/

/-- An interval of non-negative fixed-point numbers in units of 2^-N. -/
structure Iv where
  lo : Nat
  hi : Nat

def Iv.add (a b : Iv) : Iv := ⟨a.lo + b.lo, a.hi + b.hi⟩
def Iv.sub (a b : Iv) : Iv := ⟨a.lo - b.hi, a.hi - b.lo⟩
def Iv.mul (n : Nat) (a b : Iv) : Iv := ⟨a.lo * b.lo / 2 ^ n, a.hi * b.hi / 2 ^ n + 1⟩
def Iv.div (n : Nat) (a b : Iv) : Iv := ⟨a.lo * 2 ^ n / b.hi, a.hi * 2 ^ n / b.lo + 1⟩
def Iv.quot (a : Iv) (k : Nat) : Iv := ⟨a.lo / k, a.hi / k + 1⟩
def Iv.nat (n k : Nat) : Iv := ⟨k * 2 ^ n, k * 2 ^ n⟩
/-- m * 2^e as an interval. -/
def Iv.dyadic (n m : Nat) (e : Int) : Iv :=
  if -(n : Int) ≤ e then ⟨m * 2 ^ (e + n).toNat, m * 2 ^ (e + n).toNat⟩
  else ⟨m / 2 ^ (-e - n).toNat, m / 2 ^ (-e - n).toNat + 1⟩

/-- e^u for 0 <= u <= 1: 1 + u/1 (1 + u/2 (1 + ...)), with `k` terms from `j`. -/
def expTerms (n : Nat) (u : Iv) : Nat → Nat → Iv
  | 0, _ => ⟨2 ^ n, 3 * 2 ^ n⟩
  | k + 1, j => (Iv.nat n 1).add ((Iv.mul n u (expTerms n u k (j + 1))).quot j)
def squares (n : Nat) : Nat → Iv → Iv
  | 0, x => x
  | k + 1, x => squares n k (Iv.mul n x x)
/-- e^-u for 0 <= u <= 256. -/
def expNeg (n : Nat) (u : Iv) : Iv := squares n 8 (Iv.div n (Iv.nat n 1) (expTerms n (u.quot 256) (n / 2) 1))

/-- Sum over j < k of z^(2j+1) / (2j+1), with zz = z * z and z <= 1/3; the rest is below the last power. -/
def atanhSum (n : Nat) (zz : Iv) : Nat → Nat → Iv → Iv
  | 0, _, p => ⟨0, p.hi⟩
  | k + 1, j, p => (p.quot (2 * j + 1)).add (atanhSum n zz k (j + 1) (Iv.mul n p zz))
/-- ln of m / 2^t in [1, 2]: twice the inverse hyperbolic tangent of (m - 2^t) / (m + 2^t). -/
def lnIv (n m t : Nat) : Iv :=
  let z := (Iv.nat n (m - 2 ^ t)).quot (m + 2 ^ t)
  let s := atanhSum n (Iv.mul n z z) (n / 3 + 2) 0 z
  s.add s

/-- Terms of atan(1/k): those of even and of odd place. -/
def atanEven (n kk : Nat) : Nat → Nat → Iv → Iv
  | 0, _, p => ⟨0, p.hi⟩
  | m + 1, j, p => (p.quot (4 * j + 1)).add (atanEven n kk m (j + 1) (p.quot (kk * kk)))
def atanOdd (n kk : Nat) : Nat → Nat → Iv → Iv
  | 0, _, p => ⟨0, p.hi⟩
  | m + 1, j, p => (p.quot (4 * j + 3)).add (atanOdd n kk m (j + 1) (p.quot (kk * kk)))
def atanInv (n k : Nat) : Iv :=
  (atanEven n (k * k) (n / 8 + 2) 0 ((Iv.nat n 1).quot k)).sub (atanOdd n (k * k) (n / 8 + 2) 0 ((Iv.nat n 1).quot (k * k * k)))
def times (k : Nat) (x : Iv) : Iv := ⟨k * x.lo, k * x.hi⟩
def piIv (n : Nat) : Iv := (times 16 (atanInv n 5)).sub (times 4 (atanInv n 239))
def sqrtIv (n : Nat) (x : Iv) : Iv := ⟨isqrt (x.lo * 2 ^ n), isqrt (x.hi * 2 ^ n) + 1⟩

/-- erf(x) / x for x = m * 2^e, 0 < x < 4: 2/sqrt(pi) e^-(x^2) times the sum of t_j with t_0 = 1, t_(j+1) = t_j 2x^2/(2j+3).
-/
def erfSum (n : Nat) (xx2 : Iv) : Nat → Nat → Iv → Iv
  | 0, _, t => ⟨0, 2 * t.hi⟩
  | k + 1, j, t => t.add (erfSum n xx2 k (j + 1) ((Iv.mul n t xx2).quot (2 * j + 3)))
def erfRatio (n m : Nat) (e : Int) : Iv :=
  let xx := Iv.dyadic n (m * m) (2 * e)
  let s := erfSum n (times 2 xx) (n + 64) 0 (Iv.nat n 1)
  Iv.mul n (Iv.mul n (sqrtIv n (Iv.div n (Iv.nat n 4) (piIv n))) (expNeg n xx)) s

/-- The correctly rounded functions of R253. -/
inductive CrFun where
  | exp2 | log2 | rcp | sqrt | rsqrt | tanh | erf | sigm
  deriving DecidableEq, Repr
def CrFun.code : CrFun → Nat
  | .exp2 => 0 | .log2 => 1 | .rcp => 2 | .sqrt => 3 | .rsqrt => 4 | .tanh => 5 | .erf => 6 | .sigm => 7

/-- An interval of units 2^(-N + k) with a sign, rounded at both ends. -/
def settled (n : Nat) (k : Int) (neg : Bool) (x : Iv) : Option Nat :=
  let lo := toF32 (.fin neg x.lo (k - n))
  let hi := toF32 (.fin neg x.hi (k - n))
  if lo = hi then some lo else none

/-- The result at N bits for a finite operand that no rule settles exactly; x = (-1)^neg * m * 2^e, m > 0. -/
def crAt (f : CrFun) (n : Nat) (neg : Bool) (m : Nat) (e : Int) : Option Nat :=
  match f with
  | .exp2 =>
    -- 2^x = 2^i * e^(f ln 2) with 0 <= f < 1; written as 2^(i+1) * e^-((1-f) ln 2)
    let w := (-e).toNat
    let x : Int := if neg then -(m : Int) else m
    let i := x / (2 ^ w : Nat)
    let g := 2 ^ w - (x % (2 ^ w : Nat)).toNat
    settled n (i + 1) false (expNeg n (Iv.mul n (Iv.dyadic n g e) (lnIv n 2 0)))
  | .log2 =>
    -- log2 x = t + ln(m / 2^l) / ln 2
    let l := Nat.log2 m
    let t := e + l
    let y := Iv.div n (lnIv n m l) (lnIv n 2 0)
    if 0 ≤ t then settled n 0 false (y.add (Iv.nat n t.toNat)) else settled n 0 true ((Iv.nat n t.natAbs).sub y)
  | .tanh =>
    let q := expNeg n (Iv.dyadic n (2 * m) e)
    settled n 0 neg (Iv.div n ((Iv.nat n 1).sub q) ((Iv.nat n 1).add q))
  | .erf =>
    let r := erfRatio n m e
    settled n e neg ⟨r.lo * m, r.hi * m⟩
  | .sigm =>
    let q := expNeg n (Iv.dyadic n m e)
    settled n 0 false (Iv.div n (if neg then q else Iv.nat n 1) ((Iv.nat n 1).add q))
  | _ => none

/-- The first precision at which the interval settles. -/
def crTry (f : CrFun) (neg : Bool) (m : Nat) (e : Int) : List Nat → Option Nat
  | [] => none
  | n :: t =>
    match crAt f n neg m e with
    | some r => some r
    | none => crTry f neg m e t

/-- Whether |x| = m * 2^e is at least a power of two or below it. -/
def geTwo (m : Nat) (e k : Int) : Bool := decide (k ≤ e + Nat.log2 m)

/-- Results that need no interval: NaNs, infinities, zeros, exact values, and the ranges where every interval agrees (R253
Table 6): |tanh| and |erf| round to 1 from 16 and 4 on, tanh x to x below 2^-13, sigmoid to 1 or 0 from 128 on. -/
def crEasy (f : CrFun) (x : XR) : Option XR :=
  match f, x with
  | _, .nan => some .nan
  | .exp2, .inf s => some (if s then .fin false 0 0 else .inf false)
  | .exp2, .fin s m e =>
    if m = 0 then some (.fin false 1 0)
    else if geTwo m e 8 then some (if s then .fin false 0 0 else .inf false)
    else if 0 ≤ e ∨ m % 2 ^ (-e).toNat = 0 then
      let n : Int := if 0 ≤ e then m * 2 ^ e.toNat else m / 2 ^ (-e).toNat
      some (.fin false 1 (if s then -n else n))
    else none
  | .log2, .inf s => some (if s then .nan else .inf false)
  | .log2, .fin s m e =>
    if m = 0 then some (.inf true)
    else if s then some .nan
    else if m = 2 ^ Nat.log2 m then some (.ofInt (e + Nat.log2 m)) else none
  | .rcp, x => some ((XR.fin false 1 0).div x)
  | .sqrt, x => some x.sqrt
  | .rsqrt, .inf s => some (if s then .nan else .fin false 0 0)
  | .rsqrt, .fin s m e =>
    if m = 0 then some (.inf s)
    else if s then some .nan
    else
      -- 1 / sqrt(m 2^e) with e even: floor(sqrt(2^2k / m)) 2^(-e/2-k)
      let m' := if e % 2 = 0 then m else 2 * m
      let e' := if e % 2 = 0 then e else e - 1
      let k := 80 + Nat.log2 m'
      let r := isqrt (2 ^ (2 * k) / m')
      some (.fin false (2 * r + (if r * r * m' = 2 ^ (2 * k) then 0 else 1)) (-(e' / 2) - k - 1))
  | .tanh, .inf s => some (.fin s 1 0)
  | .tanh, .fin s m e => if m = 0 ∨ !geTwo m e (-13) then some (.fin s m e) else if geTwo m e 4 then some (.fin s 1 0) else none
  | .erf, .inf s => some (.fin s 1 0)
  | .erf, .fin s m e => if m = 0 then some (.fin s 0 0) else if geTwo m e 2 then some (.fin s 1 0) else none
  | .sigm, .inf s => some (if s then .fin false 0 0 else .fin false 1 0)
  | .sigm, .fin s m e =>
    if m = 0 then some (.fin false 1 (-1)) else if geTwo m e 7 then some (if s then .fin false 0 0 else .fin false 1 0) else none

/-- A correctly rounded function of an exact value, in FP32 (R253); the free value only where no precision settles it
(log 8). -/
def crVal (f : CrFun) (x : XR) : Nat :=
  match crEasy f x with
  | some v => toF32 v
  | none =>
    match x with
    | .fin s m e =>
      match crTry f s m e [96, 256, 1024] with
      | some r => r
      | none => (Config.crOpen (f.code + 8 * (m * 2 ^ 20 + (e + 2 ^ 19).toNat)) (if s then 1 else 0)).toNat
    | _ => Fmt.fp32.nan
/-- A correctly rounded function of an FP32 code. -/
def crFun (f : CrFun) (x : Nat) : Nat := crVal f (f32 x)

/-! ### IC8 (R246) and block quantising (R245) -/

/-- Weight `k` of an IC8 codeword with a codebook entry. -/
def ic8Weight (entry cw k : Nat) : XR :=
  let sign := if k < 7 then bitOf cw (8 + k) else (List.range 7).foldl (fun x j => xor x (bitOf cw (8 + j))) false
  let t := bits entry (4 * k + 3) (4 * k)
  let c := bits cw 15 15
  if t = 0 ∧ c = 0 then .fin false 0 0 else .fin sign (2 * t + c) (-2)

/-- EMAX of a target format (R245). -/
def Fmt.emax : Fmt → Int
  | .e4m3 => 8 | .e5m2 => 15 | .e2m1 => 2 | .int8 => 6 | _ => 2

/-- Magnitude as a non-negative value. -/
def XR.abs : XR → XR
  | .nan => .nan | .inf _ => .inf false | .fin _ m e => .fin false m e

/-- The scale of a block (R245). -/
def blockScale (f : Fmt) (xs : List XR) : Nat :=
  if xs.any XR.isNan then 0xFF
  else match xs.foldl (fun a x => XR.max a x.abs) (.fin false 0 0) with
    | .nan => 0xFF
    | .inf _ => 254
    | .fin _ m e => if m = 0 then 127 else (min 254 (max 0 (e + Nat.log2 m - f.emax + 127))).toNat
/-- An element of a quantised block. -/
def blockElem (f : Fmt) (e : Nat) (x : XR) : Nat :=
  if e = 0xFF then (if f.isInt then 0 else f.nan) else f.encode 4 (x.scale (127 - (e : Int)))

end Sys2Proof.Machine
end

