-- ==== Sys2Proof/Machine/Qu.lean ====
section
/-! DEFINITION. The queue and synchronisation unit (R368-R379): objects, atomics, tasks, put with handler, monitored waits and
barriers. -/

namespace Sys2Proof.Machine

/-! ### Atomics -/

/-- An ATOMIC's SUBOP fields (R41). -/
def subWide (sub : Nat) : Bool := bitOf sub 4
def subBytes (sub : Nat) : Nat := if bitOf sub 4 then 8 else 4
/-- A SUBOP that is answered MALFORMED (R41). -/
def subBad (sub : Nat) : Bool :=
  let op := sub % 16
  decide (13 ≤ op) || (bitOf sub 4 && (op == 5 || op == 6 || op == 12)) || decide (sub / 64 ≠ 0)
/-- The new value of an atomic: old value, operand, compare value (R41, R372). -/
def atomicNew (sub old a c : Nat) : Nat :=
  let w := 8 * subBytes sub
  match sub % 16 with
  | 0 => (old + a) % 2 ^ w
  | 1 => if sint w a < sint w old then a else old
  | 2 => if sint w old < sint w a then a else old
  | 3 => min old a
  | 4 => max old a
  | 5 => toF32 (XR.min (f32 old) (f32 a))
  | 6 => toF32 (XR.max (f32 old) (f32 a))
  | 7 => Nat.land old a
  | 8 => Nat.lor old a
  | 9 => Nat.xor old a
  | 10 => a
  | 11 => if old = c then a else old
  | _ => toF32 ((f32 old).add (f32 a))

/-- A free value where the spec states none (log 9). -/
def State.openWord (s : State) (salt : Nat) : Word := Config.freeWord (2 ^ 20 + s.free * 64 + salt)

/-! ### Requests and their results -/

def State.quStream (s : State) : Nat := (s.opE .qu).toNat % 16
def State.quScope (s : State) : Nat := bits (s.opE .qu).toNat 6 4
/-- Where a trigger reads SCOPE, 6 and 7 raise ILLB with reason 11 (R369). -/
def State.withScope (s : State) (f : Nat → State → State) : State :=
  if 6 ≤ s.quScope then s.raise (illb [] 0 11) else f s.quScope s

/-- The results of a qu trigger that a join will read: b0 with the slot's lend, b1 with the status (R369, R277). -/
def State.quExpect (s : State) (id : Nat) (b0 b1 : Bool) : State :=
  let s := if b0 then s.expect s.cur s.curCx 15 0 id s.lendNow else s
  if b1 then s.expect s.cur s.curCx 15 1 id 0xFF else s
/-- They are delivered. -/
def State.quDeliver (s : State) (k i id : Nat) (v0 v1 : Val) : State := (s.deliver k i 15 0 id v0).deliver k i 15 1 id v1
/-- A trigger whose results are there at once. -/
def State.quDone (s : State) (b0 b1 : Bool) (v0 v1 : Val) : State :=
  ({ s with nextId := s.nextId + 1 }.quExpect s.nextId b0 b1).quDeliver s.cur s.curCx s.nextId v0 v1

/-- The request record of a qu trigger in issue. -/
def State.quReq (s : State) (op va : Nat) (g : Tgt) (size : Nat) (key : Option Nat) : Req :=
  { id := 0, core := s.cur, ctx := s.curCx, launch := s.launchOf s.cur s.curCx, unit := 15, op := op, tag := 0, stream := 0, key := key,
    va := va, loc := tgtKey g, size := size }

/-- One address, aligned and translated; the access lies in one page, and performs at its home (R164). -/
def State.reachOne (s : State) (va n align acc : Nat) (f : Tgt → State → State) : State :=
  match s.reach va n align acc with
  | .error s' => s'
  | .ok ((g, _) :: _) => s.afterWrites true [(g, n)] fun s => f g s
  | .ok [] => s

/-! ### Objects (R368-R371) -/

/-- Header fields (R368 Table 6) of its first 24 bytes. -/
def objNat (bs : List Byte) (hi lo : Nat) : Nat := bits (leNat (bs.take 24)) hi lo

/-- A read that meets a fault raises it (R147, R211). -/
def State.mayRead (s : State) (va : Nat) (g : Tgt) (n : Nat) (f : State → State) : State :=
  match s.readFault va g n with
  | some t => s.raise t
  | none => f s
/-- Send a PUSH or POP with the header's type, class and size (R370, R44). -/
def State.objSend (s : State) (op ty va : Nat) (g : Tgt) (hdr : List Byte) (payload : List Byte) (b0 : Bool) : State :=
  let id := s.nextId
  let s := { s with nextId := id + 1 }.quExpect id b0 true
  let t := s.txn s.cur ty s.quStream (s.homeEp g)
  s.request { t with subop := objNat hdr 8 6, otype := objNat hdr 1 0, oclass := objNat hdr 5 2, payload := payload }
    { s.quReq op va g 64 (some id) with nr := false }

/-- QU_PUSH (R370): push an element; b1 := status. -/
def execQuPush (t : Tr) (s : State) : Host.Outcome State Fault Refusal :=
  s.acting t false false fun v s => s.gate fun s =>
    s.reachOne (s.opB .qu).toNat 64 64 accAtomic fun g s => s.withHome 3 (s.opB .qu).toNat g 8 fun hdr s =>
      let n := 2 ^ objNat hdr 8 6
      let el := if (s.curCx = 1 ∨ s.curCx = 2) then v.toNat % 2 ^ 64 else v.toNat
      s.objSend 4 tyPush (s.opB .qu).toNat g hdr (leBytes n el) false

/-- QU_POP (R370): pop an element; b0 := element, b1 := status. -/
def execQuPop (t : Tr) (s : State) : Host.Outcome State Fault Refusal :=
  s.acting t false false fun v s => s.gate fun s =>
    s.reachOne (valWord v).toNat 64 64 accAtomic fun g s => s.withHome 3 (valWord v).toNat g 8 fun hdr s =>
      s.objSend 5 tyPop (valWord v).toNat g hdr [] true

/-- QU_QWAIT (R371): a holding wait on an object's COUNT as read at its home. -/
def execQuQwait (t : Tr) (s : State) : Host.Outcome State Fault Refusal :=
  s.acting t false false fun v s => s.gate fun s =>
    s.reachOne (valWord v).toNat 64 64 accLoad fun g s => s.mayRead (valWord v).toNat g 24 fun s => s.withHome 3 (valWord v).toNat g 24 fun hdr s =>
      let cap := objNat hdr 95 64
      let head := objNat hdr 159 128
      let count := objNat hdr 191 160
      let n := (s.opC .qu).toNat % 2 ^ 32
      let l := (s.opB .qu).toNat % 2 ^ 32
      s.holdOn (decide (n ≤ count) || (bitOf (s.opC .qu).toNat 32 && decide (n ≤ cap - count))) l
        [valWord v, BitVec.ofNat 64 head, BitVec.ofNat 64 (head + count), BitVec.ofNat 64 l]

/-! ### amo and red (R372) -/

/-- An atomic of the issuing core on its own scratchpad performs in place (R372): the status and old value. -/
def State.atomicHere (s : State) (q off sub a c : Nat) : Nat × Nat × State :=
  let n := subBytes sub
  if subBad sub then (stMalformed, 0, s)
  else if poisoned (s.core q).spPoison off n then (stPoison, 0, s)
  else
    let old := leNat (s.spRead q off n)
    (stOk, old, s.spWrite q off (leBytes n (atomicNew sub old (a % 2 ^ (8 * n)) (c % 2 ^ (8 * n)))) (.cx s.cur s.curCx))

/-- UE of a poisoned response (R181). -/
def poisonTrap (va : Nat) : TrapInfo := { cause := 0x0E, d := [0, 2, 0, BitVec.ofNat 64 va] }
/-- The results of an atomic or object operation with a value and a status: b0 of a poisoned one is UE at its join (R38,
R211), of any other refused one a free value (log 9). -/
def State.quAnswer (s : State) (k i id va status : Nat) (v : Val) : State :=
  let s := s.deliver k i 15 1 id (natVal status)
  if status = stPoison then s.deliver k i 15 0 id 0 (some (poisonTrap va))
  else s.deliver k i 15 0 id (if status = stOk ∨ status = stEmpty then v else wordVal (s.openWord 0))

/-- Send the ATOMIC of amo, red, amoacq or amorel (R372): the operand, then a compare value (log 77). -/
def State.amoSend (s : State) (sub va : Nat) (g : Tgt) (a c op : Nat) (acq : Option Nat) : State :=
  let n := subBytes sub
  let id := s.nextId
  let s := if op = 8 then s else { s with nextId := id + 1 }.quExpect id true true
  s.request { s.txn s.cur tyAtomic s.quStream (s.homeEp g) with
      subop := sub, payload := leBytes n a ++ (if sub % 16 = 11 then leBytes n c else []) }
    { s.quReq op va g n (if op = 8 then none else some id) with nr := op == 8, acq := acq }

/-- What amo, amoacq, amorel and red share: operand a at address b, compare value c, operation d (R372). -/
def State.amo (s : State) (v : Val) (op : Nat) (acq : Option Nat) : State :=
  let d := (s.opD .qu).toNat
  let sub := d % 32 + (if op = 8 then 32 else 0)
  let n := subBytes sub
  let va := (s.opB .qu).toNat
  let a := v.toNat % 2 ^ (8 * n)
  let c := (s.opC .qu).toNat % 2 ^ (8 * n)
  s.reachOne va n n accAtomic fun g s =>
    let s := s.fixLate (tgtKey g) n
    let id := s.nextId
    match g with
    | .sp q off =>
      if s.localTgt s.cur g then
        let r := s.atomicHere q off sub a c
        if op = 8 then (if r.1 = stOk then r.2.2 else r.2.2.addFailed s.cur s.curCx r.1 off s.quStream)
        else
          let s := ({ r.2.2 with nextId := id + 1 }.quExpect id true true).quAnswer s.cur s.curCx id va r.1 (natVal r.2.1)
          match acq with
          | some sc => s.acquired s.cur sc
          | none => s
      else s.amoSend sub va g a c op acq
    | .hbm pa _ => (s.dropL1 s.cur pa n).amoSend sub va g a c op acq
    | _ => s.amoSend sub va g a c op acq

/-- QU_AMO (R372): an atomic; b0 := old value, b1 := status. -/
def execQuAmo (t : Tr) (s : State) : Host.Outcome State Fault Refusal :=
  s.acting t false false fun v s => s.gate fun s => s.amo v 7 none

/-- QU_RED (R372): an atomic that returns nothing. -/
def execQuRed (t : Tr) (s : State) : Host.Outcome State Fault Refusal :=
  s.acting t false false fun v s => s.gate fun s => s.amo v 8 none

/-- QU_AMOACQ (R372): an atomic that is an acquire at SCOPE. -/
def execQuAmoacq (t : Tr) (s : State) : Host.Outcome State Fault Refusal :=
  s.acting t false false fun v s => s.withScope fun sc s => s.gate fun s => s.amo v 9 (some sc)

/-- QU_AMOREL (R372): an atomic that is a release at SCOPE. -/
def execQuAmorel (t : Tr) (s : State) : Host.Outcome State Fault Refusal :=
  s.acting t false false fun v s => s.withScope fun sc s => s.gate fun s => s.settle sc 0xFFFF fun s => s.amo v 0x0A none

/-! ### Tasks (R373, R374, R103) -/

/-- A launch of a partition by its LID: on the core's own die first (R103). -/
def State.findLaunch (s : State) (die ptag lid : Nat) : Option LKey :=
  ([die, 0, 1, 2, 3].map fun d => (⟨d, ptag, lid⟩ : LKey)).find? fun l => (s.launch l).isSome

/-- A task's CR is appended to its ready queue (R103): one with a reserved code is discarded and logged. -/
def State.appendTask (s : State) (k : Nat) (c : Cr) : State :=
  match s.findLaunch (dieOf k) c.ptag c.lid with
  | none => s
  | some l =>
    let s := s.updLaunch l fun x => { x with waits := x.waits.filter (· != c.image) }
    if c.reserved then (s.updLaunch l fun x => { x with tasks := x.tasks - 1 }).logFault l 2 c.x c.y c.z
    else
      let set := ((s.launch l).map Launch.clset).getD 0
      let cl := if c.aff ≠ 0xFF then c.aff else if bitOf set (clusterOf k) then clusterOf k else lowestCluster set
      let c := { c with die := l.die }
      match s.launch l with
      | some x => if x.saved || x.preempting then s.updLaunch l fun y => { y with crs := y.crs ++ [{ c with aff := cl }] } else s.enqueueCr cl c
      | none => s.enqueueCr cl c

/-- The aligned words of 8 bytes that a trigger stores at a target: in place in the own scratchpad, else one STORE each, that
answer to the result `id` (R373, R378). -/
def State.quStores (s : State) (op va : Nat) (g : Tgt) (id : Nat) (ws : List Nat) : State :=
  match g with
  | .sp q off => if s.localTgt s.cur g then
      (s.spWrite q off (ws.flatMap (leBytes 8)) (.cx s.cur s.curCx)).quDeliver s.cur s.curCx id 0 0
    else send s
  | .hbm pa _ => send (s.dropL1 s.cur pa (8 * ws.length))
  | _ => send s
where
  /-- The STOREs. -/
  send (s : State) : State :=
    let h := s.homeEp g
    ws.zipIdx.foldl (fun s x =>
      s.request { s.txn s.cur tyStore s.quStream (h.1, h.2 + 8 * x.2) with payload := leBytes 8 x.1 }
        { s.quReq op (va + 8 * x.2) g 8 (some id) with loc := tgtKey g + 8 * x.2 }) s

/-- Bytes of an operand range at its home (R373, R375), or the wait or fault that they meet. -/
def State.withBytes (s : State) (va : Nat) : List (Tgt × Nat) → (List Byte → State → State) → State
  | [], f => f [] s
  | (g, n) :: r, f =>
    s.mayRead va g n fun s => s.withHome 0 va g n fun bs s => s.withBytes va r fun bs' s => f (bs ++ bs') s

/-- QU_TALLOC (R373): write a task's CR, word by word; with a counter of 0 it is queued at once. -/
def execQuTalloc (t : Tr) (s : State) : Host.Outcome State Fault Refusal :=
  s.acting t false false fun v s => s.gate fun s =>
    let va := (valWord v).toNat
    s.reachOne va 64 64 accStore fun g s =>
      match s.reach (s.opD .qu).toNat 32 1 accLoad with
      | .error s' => s'
      | .ok ts => s.withBytes (s.opD .qu).toNat ts fun bs s =>
        let c := (s.opC .qu).toNat
        let pt := s.myCore.point
        let l := pt.bind fun p => s.launch p.l
        let lid := match pt with | some p => p.l.lid + p.x * 2 ^ 16 + p.y * 2 ^ 32 + p.z * 2 ^ 48 | none => 0
        let state := if c % 2 ^ 32 = 0 then 2 else 1
        let ws := [bits (s.opB .qu).toNat 51 4, lid,
            c % 2 ^ 32 + ((l.map Launch.tokens).getD 0) * 2 ^ 32 + state * 2 ^ 36 + bits c 39 32 * 2 ^ 40,
            (pt.map (·.frame)).getD 0]
          ++ (List.range 4).map fun j => leNat ((bs.drop (8 * j)).take 8)
        let id := s.nextId
        let s := ({ s with nextId := id + 1 }.quExpect id false true).quStores 0x0B va g id ws
        let s := match pt with
          | some p => s.updLaunch p.l fun x => { x with tasks := x.tasks + 1, waits := if state = 1 then va :: x.waits else x.waits }
          | none => s
        if state = 2 then s.appendTask s.cur (crOfWords (s.ptagOf s.cur) (dieOf s.cur) va true ws) else s

/-- Take `n` from a WAITING CR at its home: the counter afterwards, the new word 2, and whether it became READY (R374). -/
def tdecWord (w n : Nat) : Nat × Nat × Bool :=
  let c := w % 2 ^ 32
  if bits w 39 36 = 1 ∧ c ≠ 0 then
    let c' := c - min n c
    (c', w - c + c' + (if c' = 0 then 2 ^ 36 else 0), c' == 0)
  else (c, w, false)

/-- What a tdec's words give (R374): a READY record is queued. -/
def State.tdecReady (s : State) (k va : Nat) (ws : List Nat) (r : Nat × Nat × Bool) : State :=
  if r.2.2 then s.appendTask k (crOfWords (s.ptagOf k) (dieOf k) va true (ws.set 2 r.2.1)) else s
/-- The compare-and-swap of a tdec on a record in another package, whose words are thought to be `ws`; it is tried until they were: one
atomic step at the home (R374). -/
def State.tdecTry (s : State) (r : Req) (ws : List Nat) : State :=
  let w := ws.getD 2 0
  let x := tdecWord w r.arg.toNat
  if x.2.1 = w then s.quDeliver r.core r.ctx (r.key.getD 0) (natVal x.1) 0
  else
    let d := s.homeOf r.loc
    s.request { s.txn r.core tyAtomic r.stream (d.1, d.2 + 16) with subop := 27, payload := leBytes 8 x.2.1 ++ leBytes 8 w }
      { r with seen := ws.map (BitVec.ofNat 64) }
def State.tdecRemote (s : State) (va : Nat) (g : Tgt) (n : Nat) (ws : List Nat) : State :=
  let id := s.nextId
  ({ s with nextId := id + 1 }.quExpect id true true).tdecTry
    { s.quReq 0x0C va g 64 (some id) with stream := s.quStream, arg := BitVec.ofNat 64 n } ws
/-- Its answer: the word as it was (R374). -/
def State.tdecAnswer (s : State) (r : Req) (status old : Nat) : State :=
  let ws := r.seen.map BitVec.toNat
  if status ≠ stOk then s.quAnswer r.core r.ctx (r.key.getD 0) r.va status 0
  else if old = ws.getD 2 0 then
    let x := tdecWord old r.arg.toNat
    (s.tdecReady r.core r.va ws x).quDeliver r.core r.ctx (r.key.getD 0) (natVal x.1) 0
  else s.tdecTry r (ws.set 2 old)

/-- QU_TDEC (R374): count a task's CR down in one atomic step at its home; at 0 it is queued. -/
def execQuTdec (t : Tr) (s : State) : Host.Outcome State Fault Refusal :=
  s.acting t false false fun v s => s.gate fun s =>
    let va := (valWord v).toNat
    let n := if (s.opB .qu).toNat % 2 ^ 32 = 0 then 1 else (s.opB .qu).toNat % 2 ^ 32
    s.reachOne va 64 64 accAtomic fun g s =>
      let fail := fun (s : State) (st : Nat) =>
        ({ s with nextId := s.nextId + 1 }.quExpect s.nextId true true).quAnswer s.cur s.curCx s.nextId va st 0
      if s.writePending (tgtKey g) 64 then s.wait .prior
      else match g with
        | .sp q off =>
          if poisoned (s.core q).spPoison off 64 then fail s stPoison
          else
            let ws := (List.range 8).map fun j => leNat (s.spRead q (off + 8 * j) 8)
            let r := tdecWord (ws.getD 2 0) n
            let s := if r.2.1 = ws.getD 2 0 then s else s.spWrite q (off + 16) (leBytes 8 r.2.1) (.cx s.cur s.curCx)
            (s.tdecReady s.cur va ws r).quDone true true (natVal r.1) 0
        | .hbm pa _ =>
          if !s.ownerOk (s.ptagOf s.cur) pa then fail s stPerm
          else if poisoned s.hbmPoison pa 64 then fail s stPoison
          else
            let s := (s.toHome (dieOf s.cur) pa 64).dropL1 s.cur pa 64
            let ws := (List.range 8).map fun j => leNat (s.hbmRead (pa + 8 * j) 8)
            let r := tdecWord (ws.getD 2 0) n
            let s := if r.2.1 = ws.getD 2 0 then s else s.hbmWrite (pa + 16) (leBytes 8 r.2.1) (.cx s.cur s.curCx)
            (s.tdecReady s.cur va ws r).quDone true true (natVal r.1) 0
        | .remote _ _ _ => s.withHome 3 va g 64 fun bs s =>
          s.tdecRemote va g n ((List.range 8).map fun j => leNat ((bs.drop (8 * j)).take 8))
        | _ => fail s stMalformed

/-! ### Put with handler (R375) -/

/-- QU_PUTH (R375): send bytes of the own scratchpad and a handler's address to the core of a scratchpad. -/
def execQuPuth (t : Tr) (s : State) : Host.Outcome State Fault Refusal :=
  s.acting t false false fun v s => s.gate fun s =>
    let d := (s.opD .qu).toNat
    let len := d % 4096
    let off := (s.opC .qu).toNat
    let va := (s.opB .qu).toNat
    if len % 16 ≠ 0 ∨ len < 16 ∨ 2032 < len ∨ off % 16 ≠ 0 ∨ spSize < off + len then s.raise (alignTrap off len)
    else match s.reach va 1 1 accStore with
      | .error s' => s'
      | .ok ((.sp q o, _) :: _) =>
        let me := s.logical s.cur
        if poisoned (s.core me).spPoison off len then s.raise (ueTrap off 1 off)
        else
          let id := s.nextId
          let s := { s with nextId := id + 1 }.quExpect id false true
          s.request { s.txn s.cur tyPuth s.quStream (⟨s.pkg.pkgId, q / 40, q % 40⟩, o) with
              subop := bits d 17 16, payload := s.spRead me off len ++ leBytes 8 (valWord v).toNat }
            (s.quReq 0x0D va (.sp q o) len (some id))
      | .ok _ => s.quDone false true 0 (natVal stMalformed)

/-! ### Monitored wait (R376) -/

/-- QU_MWAIT (R376): wait for a write to the line of a word; b0 := the word, b1 := the reason. -/
def execQuMwait (t : Tr) (s : State) : Host.Outcome State Fault Refusal :=
  s.acting t false false fun v s => s.withScope fun sc s => s.gate fun s =>
    let va := (valWord v).toNat
    s.reachOne va 8 8 accLoad fun g s =>
      s.mayRead va g 8 fun s => s.withHome sc va g 8 fun bs s =>
        if BitVec.ofNat 64 (leNat bs) ≠ s.opB .qu then (s.acquired s.cur sc).quDone true true (natVal (leNat bs)) 1
        else
          let id := s.nextId
          let d := dieOf s.cur
          let near : Bool := match g with | .sp _ _ => true | .hbm _ _ => true | _ => false
          let m : Monitor :=
            { core := s.cur, ctx := s.curCx, id := id, tgt := g, limit := if s.opC .qu = 0 then none else some (s.pkg.ticks + (s.opC .qu).toNat), scope := sc,
              polling := !near || decide (256 ≤ ((s.die d).monitors.filter fun m => !m.polling).length) }
          let s := { s with nextId := id + 1, nextTag := s.nextTag + 1 }.quExpect id true true
          (s.updDie d fun x => { x with monitors := x.monitors ++ [m] }).addReq
            { s.quReq 0x0E va g 8 (some id) with id := id, tag := s.nextTag - 1, stream := s.quStream, acq := some sc }

/-! ### Barriers (R377-R379) -/

/-- The agent whose add completes the phase writes the next one (R378). -/
def State.barComplete (s : State) (k i stream va : Nat) (key : Nat) (old : Nat) (cond : Bool) : State :=
  if !cond then s
  else if spBase ≤ key ∧ (key - spBase) / 2 ^ 20 = s.logical k then
    s.spWrite (s.logical k) (key % 2 ^ 20) (leBytes 8 (barNext old)) (.cx k i)
  else
    s.request { s.txn k tyStore stream (s.homeOf key) with payload := leBytes 8 (barNext old) }
      { id := 0, core := k, ctx := i, launch := s.launchOf k i, unit := 8, op := 0x12, tag := 0, stream := stream, va := va, loc := key,
        size := 8, nr := true }

/-- An arrival's add has its old value (R378): the phase may complete; a bara delivers, a barx begins to wait. -/
def State.barArrived (s : State) (r : Req) (status old : Nat) : State :=
  let id := r.key.getD 0
  if status ≠ stOk then s.quAnswer r.core r.ctx id r.va status 0
  else
    let s := s.barComplete r.core r.ctx r.stream r.va r.loc old (decide (barArr old + 1 = barCount old) && barPend old == 0)
    if r.op = 0x0F then s.quAnswer r.core r.ctx id r.va stOk (natVal (barPhase old))
    else
      let n := s.nextTag
      { s with nextTag := n + 1 }.addReq { r with tag := n, phase := barPhase old + 1, size := 0 }

/-- bara and barx issue their add (R378). -/
def State.barArrive (s : State) (v : Val) (op : Nat) : State :=
  s.withScope fun sc s => s.gate fun s =>
    let va := (valWord v).toNat
    s.reachOne va 16 16 accAtomic fun g s => s.settle sc 0xFFFF fun s =>
      let id := s.nextId
      let r : Req := { s.quReq op va g 8 (some id) with id := id, stream := s.quStream, acq := if op = 0x11 then some sc else none }
      let s := { s with nextId := id + 1 }.quExpect id true true
      let send := fun (s : State) =>
        s.request { s.txn s.cur tyAtomic s.quStream (s.homeEp g) with subop := 16, payload := leBytes 8 (2 ^ 36) } r
      match g with
      | .sp q off =>
        if s.localTgt s.cur g then
          let x := s.atomicHere q off 16 (2 ^ 36) 0
          x.2.2.barArrived r x.1 x.2.1
        else send s
      | .hbm pa _ => send (s.dropL1 s.cur pa 16)
      | _ => send s

/-- QU_BARA (R378): arrive; b0 := the phase of the arrival. -/
def execQuBara (t : Tr) (s : State) : Host.Outcome State Fault Refusal :=
  s.acting t false false fun v s => s.barArrive v 0x0F

/-- QU_BARX (R378): arrive, then wait for the next phase as a join; b0 := the new phase. -/
def execQuBarx (t : Tr) (s : State) : Host.Outcome State Fault Refusal :=
  s.acting t false false fun v s => s.barArrive v 0x11

/-- QU_BARW (R378, R379): a holding wait until PHASE differs from p; then an acquire; b0 := the phase. -/
def execQuBarw (t : Tr) (s : State) : Host.Outcome State Fault Refusal :=
  s.acting t false false fun v s => s.withScope fun sc s => s.gate fun s =>
    let va := (valWord v).toNat
    s.reachOne va 16 16 accLoad fun g s => s.mayRead va g 16 fun s => s.withHome sc va g 16 fun bs s =>
      let w0 := leNat (bs.take 8)
      let w1 := leNat (bs.drop 8)
      let l := (s.opC .qu).toNat % 2 ^ 32
      if barPhase w0 ≠ (s.opB .qu).toNat % 2 ^ 20 then (s.acquired s.cur sc).quDone true false (natVal (barPhase w0)) 0
      else if bitOf w0 60 ∧ !s.me.barSeen.contains (BitVec.ofNat 64 w1) then s.raise (barTrap va w1)
      else s.holdOn false l [valWord v, BitVec.ofNat 64 (barArr w0), BitVec.ofNat 64 (barCount w0), BitVec.ofNat 64 l]

/-- A waiting barx tries its barrier (R378, R379): a new phase ends it with an acquire; a fault not yet reported is held for
its join. -/
def State.barxLook (s : State) (r : Req) (bs : List Byte) : State :=
  let w0 := leNat (bs.take 8)
  let w1 := BitVec.ofNat 64 (leNat (bs.drop 8))
  let id := r.key.getD 0
  if barPhase w0 + 1 ≠ r.phase then
    let s := { s with reqs := s.reqs.filter fun (x : Req) => x.id != r.id }
    (s.acquired r.core (r.acq.getD 0)).quAnswer r.core r.ctx id r.va stOk (natVal (barPhase w0))
  else if bitOf w0 60 ∧ !r.seen.contains w1 then
    let s := { s with reqs := s.reqs.map fun (x : Req) => if x.id = r.id then { x with seen := w1 :: x.seen } else x }
    s.updResult r.core r.ctx 15 0 id fun q => { q with fault := some (barTrap r.va w1.toNat) }
  else s

/-- QU_BARI (R378): set a barrier up for COUNT parties. -/
def execQuBari (t : Tr) (s : State) : Host.Outcome State Fault Refusal :=
  s.acting t false false fun v s => s.withScope fun sc s => s.gate fun s =>
    let n := (s.opB .qu).toNat % 65536
    let va := (valWord v).toNat
    if n = 0 then s.quDone false true 0 (natVal stMalformed)
    else s.reachOne va 16 16 accStore fun g s => s.settle sc 0xFFFF fun s =>
      let id := s.nextId
      ({ s with nextId := id + 1 }.quExpect id false true).quStores 0x12 va g id [n * 2 ^ 20, 0]

end Sys2Proof.Machine
end

