-- ==== Sys2Proof/Machine/Frontier.lean ====
section
/-! DEFINITION. Firing points, the ready queues, gang reservation, and how a core takes a continuation record (R96, R102-R106,
R110, R111, R138). -/

namespace Sys2Proof.Machine

/-! ### Firing (R100, R102, R106) -/

/-- Whether a launch has points on a core of the clusters in `set`. -/
def Core.runsLaunch (c : Core) (l : LKey) : Bool := match c.point with
  | some p => p.l == l
  | none => false

/-- Clusters on which the points of a launch may fire now: those of its set that are in service and that it does not drain
(R12, R96, R114). -/
def State.fireClusters (s : State) (l : Launch) : List Nat :=
  (List.range 20).filter fun c =>
    bitOf l.clset c && !s.pkg.offClusters.contains c
    && !(l.drainFor.any fun n => s.hasWork n && match s.launch n with
        | some x => bitOf x.clset c
        | none => false)

/-- The lowest free frame of a launch (R102). -/
def Launch.freeFrame (l : Launch) : Option Nat := (List.range l.nframe).find? fun f => !(l.frames.any fun x => x.1 == f)

/-- Gang ids of a die that are live: on its launches' CRs, ready entries and running points (R102). -/
def State.liveGangs (s : State) (die : Nat) : List Nat :=
  ((s.die die).launches.flatMap fun (x : Nat × Launch) => x.2.crs.map (·.gang))
  ++ (s.clusters.flatMap fun (x : Nat × Cluster) => ((x.2.ready ++ x.2.overflow).filter fun r => r.cr.die == die).map (·.cr.gang))
  ++ (s.cores.filterMap fun (x : Nat × Core) => match x.2.point with
      | some p => if p.l.die = die then some p.gang else none
      | none => none)
/-- A gang id that no live gang of the die has; 0 is a lone point's. -/
def State.newGang (s : State) (die : Nat) : Nat :=
  let live := s.liveGangs die
  ((List.range 65535).map fun i => ((s.die die).nextGang + i) % 65535 + 1).find? (fun g => !live.contains g) |>.getD 0

/-- The CR of kernel `i` of a point that fires (R102). -/
def Launch.newCr (l : Launch) (k : LKey) (o i cl gang f : Nat) : Cr :=
  let p := l.coords o
  { pc := l.entry i, flags := i, lid := k.lid, x := p.1, y := p.2.1, z := p.2.2, prio := l.tokens, state := 2, aff := cl, gang := gang,
    frame := l.frameAddr f, args := (l.words.drop 10).take 4, ptag := k.ptag, die := k.die, entry := l.entry i }

/-- The point that fires next, its frame and the clusters it may fire on, if any. -/
def State.fireable (s : State) (k : LKey) : Option (Launch × Nat × Nat × List Nat) :=
  match s.launch k with
  | none => none
  | some l =>
    if !s.runs k.ptag || !l.live || l.evicted then none
    else match s.firstReady k l, l.freeFrame, s.fireClusters l with
      | some o, some f, c :: cs => some (l, o, f, c :: cs)
      | _, _, _ => none

/-- A point fires on cluster `cl` with frame `f` (R102, R106). -/
def State.firePoint (s : State) (k : LKey) (l : Launch) (o f cl : Nat) : State :=
  let gang := if l.nkern = 1 then 0 else s.newGang k.die
  let s := if l.nkern = 1 then s else s.updDie k.die fun d => { d with nextGang := gang }
  let s := s.updLaunch k fun x => { x with
    fired := x.fired ++ [o], frames := x.frames ++ [(f, o)],
    reserved := if s.needsOoo k l o then x.reserved ++ [o] else x.reserved,
    firstTick := match x.firstTick with
      | some t => some t
      | none => some s.pkg.ticks }
  (List.range l.nkern).foldl (fun s i => s.enqueueCr cl (l.newCr k o i cl gang f)) s

/-- POINT_FIRE (R100, R102, R106): the first fireable point of a launch fires, on a cluster of its set. -/
def execPointFire (l : LKey) (s : State) : Host.Outcome State Fault Refusal :=
  .next (match s.fireable l with
    | some (x, o, f, cs) => s.firePoint l x o f (cs.getD ((Config.freeWord (2 ^ 22 + s.free)).toNat % cs.length) 0)
    | none => s)

/-! ### A core takes a CR (R104, R138) -/

/-- A core that can take a point: in service, idle, with no activation that runs or waits on it (R104, R131, R205). -/
def State.coreFree (s : State) (k : Nat) : Bool :=
  let c := s.core k
  decide (k < 160) && s.serves (dieOf k) && !s.pkg.offClusters.contains (clusterOf k) && c.point.isNone && c.restore.isNone && c.acts.isEmpty
  && c.cx0.run == .idle && c.cx1.run == .idle && c.cx2.run == .idle && c.cx3.run == .idle && c.queuesEmpty
  && !((s.part (s.ptagOf k)).prot && k % 2 == 1)

def crKidx (c : Cr) : Nat := c.flags % 4
def crSusp (c : Cr) : Bool := bitOf c.flags 2
def crFrozen (c : Cr) : Bool := bitOf c.flags 3
def crLaunch (c : Cr) : LKey := ⟨c.die, c.ptag, c.lid⟩

/-- The core as a point finds it that fires fresh or resumes at a suspension point (R138, R343, R154, R108): the values of R137, ft
and ct and the control store of its kernel, ports and bypass registers and MX state 0, and nothing cached from before. -/
def Core.fresh (c : Core) (i : KernelImage) : Core :=
  { c with
    cx0 := { run := .running }, v := [], m := [], ft := SMap.cells 0 0 i.ft,
    ct := SMap.cells 0 0 (i.ct.zipIdx.map fun x => x.1 ^^^ ctDefault (x.2 % 256)),
    ports := [], byp := [], joins := [], mask := [], mxd := [], fifo := [], gidx := 0, rbuf := [], l1 := {}, icache := {},
    poolA := c.bpoolA, poolN := c.bpoolN, burst := false, suspReq := false, freezeReq := false }

/-- The control store is loaded from the kernel's .cstore section (R136). -/
def Core.loadStore (c : Core) (i : KernelImage) : Core :=
  if i.cstore.isEmpty then c
  else { c with cstore := SMap.cells 0 0 i.cstore, cstoreSrc := (List.range i.cstore.length).map fun n => (n, i.src + 16 * n) }

/-- The random key of a point (R138). -/
def pointKey (seed : Word) (c : Cr) : Word :=
  seed ^^^ BitVec.ofNat 64 (c.lid * 2 ^ 48) ^^^ BitVec.ofNat 64 (c.x * 2 ^ 32) ^^^ BitVec.ofNat 64 (c.y * 2 ^ 16) ^^^ BitVec.ofNat 64 c.z

/-- The 64-byte block of a suspended point at its frame (R196); one that cannot be read is a free value (log 9). -/
def State.suspBlock (s : State) (k : Nat) (c : Cr) : Nat :=
  match s.sysRead (dieOf k) c.ptag c.frame 64 with
  | some bs => leNat bs
  | none => (Config.freeWord (2 ^ 23 + s.free)).toNat
/-- The VCC that a CR starts at. -/
def State.crVcc (s : State) (k : Nat) (c : Cr) : Nat := if crSusp c then bits (s.suspBlock k c) 255 192 else 0

/-- Core `k` takes a CR that is not frozen (R104, R138, R196). -/
def State.startCr (s : State) (k : Nat) (c : Cr) (vcc : Nat) : State :=
  let s := s.acquired k (s.scopeOf (crLaunch c))
  let b := s.suspBlock k c
  let seed := (s.part c.ptag).rngseed
  let img := s.kernelAt c.ptag c.entry
  s.updCore k fun x =>
    let x := (x.fresh img).loadStore img
    { x with
      point := some { l := crLaunch c, x := c.x, y := c.y, z := c.z, kidx := crKidx c, gang := c.gang, frame := c.frame, task := c.task,
                      entry := c.entry },
      cx0 := { x.cx0 with
        pc := c.pc, upc := c.upc, vcc := vcc, arg := SMap.cells 0 0 c.args,
        rqkey := if crSusp c then BitVec.ofNat 64 (bits b 63 0) else pointKey seed c,
        rqpos := if crSusp c then BitVec.ofNat 64 (bits b 127 64) else BitVec.ofNat 64 (crKidx c * 2 ^ 56),
        g := if crSusp c then SMap.cells false 0 ((List.range 8).map fun j => j != 0 && bitOf b (128 + j)) else [] } }

/-- A frozen CR waits on its core for the restore (R198). -/
def State.startFrozen (s : State) (k : Nat) (c : Cr) : State := s.updCore k fun x => { x with restore := some c }

/-! ### Pipes (R110, R364, R367) -/

/-- A run of 16 pipe numbers of a cluster that no pipe uses. -/
def Cluster.pipeBase (c : Cluster) : Nat :=
  ((List.range 16).map (· * 16)).find? (fun b => !(c.pipes.any fun (x : Nat × Pipe) => decide (b ≤ x.1) && decide (x.1 < b + 16))) |>.getD 256

/-- The core that runs kernel `i` of a starting gang. -/
def coreOfKernel (asg : List (Nat × Cr)) (i : Nat) : Nat := ((asg.find? fun a => crKidx a.2 == i).map (·.1)).getD 0

/-- Bind one pipe: HEAD and TAIL 0, and a handle in a cb register of each of its two kernels. -/
def State.bindPipe (s : State) (cl : Nat) (l : LKey) (gang : Nat) (asg : List (Nat × Cr)) (n d : Nat) : State :=
  let p : Pipe := { gang := gang, l := l, slots := pdSlots d, size := pdSize d, off := pdOff d, prod := coreOfKernel asg (pdProd d),
                    cons := coreOfKernel asg (pdCons d) }
  let s := s.updCluster cl fun c => { c with pipes := SMap.put c.pipes n p }
  let s := s.updCx p.prod 0 fun x => x.setCb (finOf 16 (pdProdCb d)) (BitVec.ofNat 32 (n + 2 ^ 31))
  s.updCx p.cons 0 fun x => x.setCb (finOf 16 (pdConsCb d)) (BitVec.ofNat 32 (n + 2 ^ 12 + 2 ^ 31))

/-- The named pipes of a gang are bound before its first bundle, and again when it resumes at a suspension point (R110, R367). -/
def State.bindPipes (s : State) (cl : Nat) (l : LKey) (gang : Nat) (asg : List (Nat × Cr)) : State :=
  match s.launch l with
  | none => s
  | some x =>
    let b := (s.cluster cl).pipeBase
    (x.pipes.take x.npipe).zipIdx.foldl (fun s d => s.bindPipe cl l gang asg (b + d.2) d.1) s

/-! ### Dispatch (R104, R111) -/

/-- Take an entry out of a cluster's queue; overflow entries move in (R104). -/
def Cluster.take (now : Nat) (c : Cluster) (r : Ready) : Cluster :=
  Cluster.refill now { c with ready := c.ready.erase r, overflow := if c.ready.contains r then c.overflow else c.overflow.erase r }
/-- The entries of the gang of an entry. -/
def gangOf (c : Cluster) (r : Ready) : List Ready :=
  (c.ready ++ c.overflow).filter fun x =>
    x.cr.gang == r.cr.gang && x.cr.lid == r.cr.lid && x.cr.ptag == r.cr.ptag && x.cr.die == r.cr.die && !x.cr.task

/-- Whether a hold is for the gang of an entry. -/
def Hold.isFor (h : Hold) (r : Ready) : Bool := h.gang == r.cr.gang && h.l == crLaunch r.cr
/-- Cores of a cluster that are free and not held for another gang. -/
def State.freeFor (s : State) (cl : Nat) (r : Ready) : List Nat :=
  ((List.range 8).map (coreOfCluster cl)).filter fun k => s.coreFree k && match (s.cluster cl).hold with
    | some h => h.isFor r || !h.cores.contains k
    | none => true

/-- An order of a list that the free value picks: a rotation, and whether it is reversed. -/
def State.shuffle {α : Type} (s : State) (l : List α) : List α :=
  let n := (Config.freeWord (2 ^ 22 + s.free)).toNat % (l.length + 1)
  let r := l.drop n ++ l.take n
  if s.choose 76 then r.reverse else r

/-- The cores that a gang starts on, with its CRs: core `k` and others that are free, or the cores that its images name; none if
there are too few. -/
def State.gangCoresFor (s : State) (k : Nat) (rs : List Ready) (free : List Nat) : Option (List (Nat × Cr)) :=
  if rs.any fun r => crFrozen r.cr then
    let asg := rs.map fun r => (r.cr.home.getD goneCore, r.cr)
    if asg.all fun a => free.contains a.1 then some asg else none
  else
    let others := s.shuffle (free.filter (· != k))
    let cores := s.shuffle (k :: others.take (rs.length - 1))
    if rs.length ≤ free.length then some (cores.zip (rs.map (·.cr))) else none

/-- A gang starts: all its kernels on one cycle of a shared counter (R111). -/
def State.startGang (s : State) (cl : Nat) (rs : List Ready) (asg : List (Nat × Cr)) : State :=
  let s := s.updCluster cl fun c => rs.foldl (Cluster.take s.pkg.ticks) c
  let s := match rs with
    | r :: _ => s.updCluster cl fun c => { c with hold := match c.hold with
        | some h => if h.isFor r then none else some h
        | none => none }
    | [] => s
  match asg with
  | [] => s
  | (k0, c0) :: _ =>
    if asg.any fun a => crFrozen a.2 then asg.foldl (fun s a => s.startFrozen a.1 a.2) s
    else
      let vcc := (asg.map fun a => s.crVcc a.1 a.2).foldl max 0
      let s := asg.foldl (fun s a => s.startCr a.1 a.2 vcc) s
      s.bindPipes (clusterOf k0) (crLaunch c0) c0.gang asg

/-- The head of a class tries to start on an idle core: the state after it started, or after the core was held for it; none if
neither (R104, R111). -/
def State.tryHead (s : State) (cl k : Nat) (r : Ready) : Option State :=
  let c := r.cr
  let h := (s.cluster cl).hold
  let held : Bool := match h with
    | some x => x.cores.contains k
    | none => false
  if !s.runs c.ptag then none
  else if c.gang = 0 ∨ c.task then
    if held ∨ (crFrozen c ∧ c.home ≠ some k) then none
    else
      let s' := s.updCluster cl fun x => x.take s.pkg.ticks r
      some (if crFrozen c then s'.startFrozen k c else s'.startCr k c (s'.crVcc k c))
  else
    let rs := gangOf (s.cluster cl) r
    let free := s.freeFor cl r
    if !free.contains k then none
    else match s.gangCoresFor k rs free with
      | some asg => some (s.startGang cl rs asg)
      | none =>
        let useful := rs.all fun x => !crFrozen x.cr || rs.any fun y => y.cr.home == some k
        match h with
        | none => if useful then some (s.updCluster cl fun x => { x with hold := some ⟨c.gang, crLaunch c, [k], r.fails⟩ }) else none
        | some x => if x.isFor r ∧ !held ∧ useful then
              some (s.updCluster cl fun y => { y with hold := some { x with cores := x.cores ++ [k] } })
            else none

/-- The highest class whose head can start, or be reserved for, on a core (R104). -/
def State.dispatchOn (s : State) (k : Nat) : List Nat → Option State
  | [] => none
  | c :: t =>
    let cl := clusterOf k
    match (s.cluster cl).ready.find? fun r => r.cls == c with
    | some r => match s.tryHead cl k r with
      | some s' => some s'
      | none => s.dispatchOn k t
    | none => s.dispatchOn k t
/-- What an idle core takes, if anything. -/
def State.dispatch (s : State) (k : Nat) : Option State := if s.coreFree k then s.dispatchOn k [3, 2, 1, 0] else none

/-- READY_QUEUE_DISPATCH (R104, R111): an idle core takes a CR from its cluster's ready queue, starts a gang or is held for one. -/
def execReadyQueueDispatch (core : Nat) (s : State) : Host.Outcome State Fault Refusal := .next ((s.dispatch core).getD s)

/-! ### Aging and holds (R104, R111) -/

/-- An entry has waited AGEQ ticks in a class below 3. -/
def State.aged (s : State) (r : Ready) : Bool :=
  let q := (s.part r.cr.ptag).ageq
  decide (q ≠ 0) && decide (r.cls < 3) && decide (r.since + q ≤ s.pkg.ticks)

/-- READY_QUEUE_AGING (R104): entries that have waited AGEQ ticks move to the tail of the next class. -/
def execReadyQueueAging (cluster : Nat) (s : State) : Host.Outcome State Fault Refusal :=
  .next (s.updCluster cluster fun c =>
    { c with ready := c.ready.filter (fun r => !s.aged r) ++
        (c.ready.filter s.aged).map fun (r : Ready) => { r with cls := r.cls + 1, since := s.pkg.ticks } })

/-- GANG_HOLD_EXPIRE (R111): 50 us after its first hold the cores held for a gang are released, and the gang goes to the tail of its
class with one failure more; after 4 failures a hold has no limit. -/
def execGangHoldExpire (cluster : Nat) (s : State) : Host.Outcome State Fault Refusal :=
  .next (match (s.cluster cluster).hold with
    | some h =>
      if 4 ≤ h.failures then s
      else s.updCluster cluster fun c => { c with
        hold := none,
        ready := c.ready.filter (fun r => !h.isFor r) ++
          (c.ready.filter h.isFor).map fun (r : Ready) => { r with fails := r.fails + 1 } }
    | none => s)

end Sys2Proof.Machine
end

