-- ==== Sys2Proof/Machine/Preempt.lean ====
section
/-! DEFINITION. Pre-emption, saving and taking back launches, and the two forms of checkpoint of a running point (R107, R114-R116,
R196-R199). -/

namespace Sys2Proof.Machine

/-! ### Saving (R107, R115) -/

/-- The WAITING tasks of a launch, as their homes hold them now (R103). -/
def State.waitingCrs (s : State) (l : LKey) (x : Launch) : List Cr :=
  x.waits.filterMap fun va => (s.sysRead l.die l.ptag va 64).map fun bs =>
    crOfWords l.ptag l.die va true ((List.range 8).map fun j => leNat ((bs.drop (8 * j)).take 8))
/-- Ready entries of a launch leave every queue for its CR list, frozen ones the cores that have yet to restore them, and WAITING ones are
listed too; a hold for one of its gangs ends (R115). -/
def State.takeReady (s : State) (l : LKey) : State :=
  let crs := s.clusters.flatMap fun (x : Nat × Cluster) => (readyOf x.2 l).map fun r => { r.cr with aff := x.1 }
  let back := s.cores.filterMap fun (x : Nat × Core) => x.2.restore.bind fun c => if crLaunch c = l then some c else none
  let mine := fun (r : Ready) => r.cr.ptag == l.ptag && r.cr.die == l.die && r.cr.lid == l.lid
  let strip := fun (c : Cluster) =>
    let c' : Cluster := { c with
      ready := c.ready.filter fun r => !mine r, overflow := c.overflow.filter fun r => !mine r,
      hold := match c.hold with
        | some h => if h.l = l then none else some h
        | none => none }
    (List.range 256).foldl (fun (x : Cluster) _ => x.refill s.pkg.ticks) c'
  let s := { s with
    clusters := s.clusters.map fun (x : Nat × Cluster) => (x.1, strip x.2),
    cores := s.cores.map fun (x : Nat × Core) => (x.1, match x.2.restore with
      | some c => if crLaunch c = l then { x.2 with restore := none } else x.2
      | none => x.2) }
  s.updLaunch l fun x => { x with crs := x.crs ++ crs ++ back ++ s.waitingCrs l x }

/-- A CR of a list comes to its ready queue: one that still counts stays WAITING, one with a reserved code is discarded and logged (R102,
R103). -/
def State.giveCr (s : State) (l : LKey) (set : Nat) (c : Cr) : State :=
  if c.wait ≠ 0 then s
  else if c.reserved then s.logFault l 2 c.x c.y c.z
  else s.enqueueCr (if c.aff = 0xFF then lowestCluster set else c.aff) { c with state := 2 }
/-- CRs of a list go to the ready queues of their affinity clusters, in list order (R116). -/
def State.giveReady (s : State) (l : LKey) : State :=
  match s.launch l with
  | none => s
  | some x =>
    let s := x.crs.foldl (fun s c => s.giveCr l x.clset c) s
    s.updLaunch l fun y => { y with crs := [] }

/-- A launch of which nothing runs any more is saved (R115), and one that waits for its tracker entry takes it (R116). -/
def State.saveLaunch (s : State) (k : LKey) : State :=
  let s := s.takeReady k
  match s.launch k with
  | none => s
  | some l =>
    ((s.writeFrontier k l 1).updLaunch k fun x => { x with
      saved := true, preempting := false, preemptBy := none, npreempt := sat32 (x.npreempt + 1),
      crs := x.crs.map fun (c : Cr) => { c with state := 4 } }).takeInAll k.die

/-! ### The decision (R114) -/

/-- A parked group is not taken (R199). -/
def Core.parkedPoint (c : Core) : Bool := match c.cx0.run with
  | .parked _ => true
  | _ => false

/-- The cores that run points of a launch. -/
def State.coresOf (s : State) (l : LKey) : List Nat := (s.cores.filter fun (x : Nat × Core) => x.2.runsLaunch l).map (·.1)

/-- The launch with the fewest tokens among those that run points on the clusters of a set, the last enqueued among equals. -/
def State.victim (s : State) (set : Nat) : Option (LKey × Launch) :=
  let vs := s.cores.filterMap fun (x : Nat × Core) => match x.2.point with
    | some p => if x.1 < 160 ∧ bitOf set (clusterOf x.1) then (s.launch p.l).map fun l => (p.l, l) else none
    | none => none
  vs.foldl (fun (a : Option (LKey × Launch)) v => match a with
    | none => some v
    | some b => if v.2.tokens < b.2.tokens ∨ (v.2.tokens = b.2.tokens ∧ b.2.enq < v.2.enq) then some v else some b) none

/-- REM in microseconds (R114). -/
def Launch.remaining (l : Launch) : Option Nat :=
  if l.est = 0xFFFFFF then none else some (l.est * (l.npoints - l.done) / l.npoints)

/-- What Table 8 of R114 says of a waiting launch and a victim: 0 nothing, 1 drain, 2 checkpoint, 3 kill. -/
def State.preemptAction (s : State) (n v : Launch) (ptag : Nat) : Nat :=
  if n.tokens ≤ v.tokens then 0
  else if (match v.remaining with
    | some r => decide (r ≤ (s.part ptag).drainth)
    | none => false) then 1
  else if v.pclass = 1 then 2
  else if v.pclass = 2 then 3 else 1

/-- A launch has work, and no core of its clusters is idle or held for it (R114). -/
def State.starved (s : State) (k : LKey) (l : Launch) : Bool :=
  s.hasWork k && ((List.range 20).all fun c => !bitOf l.clset c ||
    ((List.range 8).all fun j => !s.coreFree (coreOfCluster c j)) && match (s.cluster c).hold with
      | some h => h.l != k
      | none => true)

/-- The victim drains: no further point of it fires on the clusters of `n` while `n` has work (R114). -/
def State.drainVictim (s : State) (n v : LKey) : State :=
  s.updLaunch v fun x => if x.drainFor.contains n then x else { x with drainFor := n :: x.drainFor }

/-- A point of a killed launch stops and is discarded; it fires again from its entry, a task goes back to the list (R115). -/
def State.killCore (s : State) (k : Nat) : State :=
  match (s.core k).point with
  | none => s
  | some p =>
    let c := s.core k
    let s := match SMap.find s.segs k with
      | some g => if g.ctx = 0 then { s with segs := SMap.del s.segs k } else s
      | none => s
    let s := (s.freeCore k).updCore k fun c => { c with
      mxq := [], gq := [], atq := [], cpq := [], tags := [], joins := [], rbuf := [], cx0 := { c.cx0 with joins := [], sysq := [] } }
    let s := s.unbindPipes (clusterOf k) p.gang p.l
    s.updLaunch p.l fun l =>
      if p.task then
        let cr : Cr :=
          { pc := p.entry, flags := p.kidx, lid := p.l.lid, x := p.x, y := p.y, z := p.z, prio := l.tokens, state := 4,
            aff := clusterOf k, frame := p.frame, args := (List.range 4).map (c.cx0.argv ·), ptag := p.l.ptag, die := p.l.die,
            task := true, entry := p.entry }
        { l with crs := l.crs ++ [cr] }
      else
        let o := l.ord p.x p.y p.z
        { l with fired := l.fired.filter (· != o), frames := l.frames.filter (·.2 != o), reserved := l.reserved.filter (· != o),
                 ended := l.ended.filter (·.1 != o) }

/-- A handler that runs at a suspension point is followed by the suspension (R131). -/
def askSuspend (c : Core) : Core :=
  { c with suspReq := true, cx0 := if c.cx0.pause = .handlers then { c.cx0 with pause := .suspending } else c.cx0 }

/-- Checkpoint: every running point of the victim is asked to suspend; its ready CRs go to the list (R114, R115). -/
def State.checkpointVictim (s : State) (n v : LKey) : State :=
  let s := (s.coresOf v).foldl (fun s k => if (s.core k).parkedPoint then s else s.updCore k askSuspend) s
  (s.takeReady v).updLaunch v fun x => { x with preempting := true, preemptBy := some n }

/-- The running points of a launch that is being saved are gone, but for parked ones (R115, R199). -/
def State.saveDue (s : State) (k : LKey) : Bool :=
  match s.launch k with
  | some l => l.preempting && (s.coresOf k).all fun q => (s.core q).parkedPoint
  | none => false

/-- Whether PREEMPTION of a launch does anything. -/
def State.preemptDue (s : State) (k : LKey) : Bool :=
  s.saveDue k || match s.launch k with
    | some n => s.starved k n && match s.victim n.clset with
      | some (vk, v) =>
        let a := s.preemptAction n v vk.ptag
        vk != k && a != 0 && !v.preempting && !(a == 1 && v.drainFor.contains k)
      | none => false
    | none => false

/-- PREEMPTION (R114, R115): a waiting launch chooses a victim to drain, checkpoint or kill; the save of one whose running points are
gone is done. -/
def execPreemption (l : LKey) (s : State) : Host.Outcome State Fault Refusal :=
  .next (if !s.preemptDue l then s
    else if s.saveDue l then s.saveLaunch l
    else match s.launch l with
      | none => s
      | some n => match s.victim n.clset with
        | none => s
        | some (vk, v) =>
          match s.preemptAction n v vk.ptag with
          | 2 => s.checkpointVictim l vk
          | 3 => ((s.coresOf vk).foldl (fun (s : State) q => if (s.core q).parkedPoint then s else s.killCore q) s).saveLaunch vk
          | _ => s.drainVictim l vk)

/-! ### Taking a launch back (R107, R116) -/

/-- Whether two cluster sets meet. -/
def meets (a b : Nat) : Bool := (List.range 20).any fun c => bitOf a c && bitOf b c
/-- A saved launch has the most tokens among the work that waits for cores of its clusters (R116). -/
def State.takeBackDue (s : State) (k : LKey) : Bool :=
  match s.launch k with
  | none => false
  | some l => l.saved && s.runs k.ptag && (!l.evicted || decide ((s.die k.die).tracked < 32) || (s.die k.die).evictable.isSome) &&
    s.dies.all fun (d : Nat × Die) => d.2.launches.all fun (x : Nat × Launch) =>
      let xk : LKey := ⟨d.1, x.1 / 65536, x.1 % 65536⟩
      xk == k || !meets x.2.clset l.clset || decide (x.2.tokens ≤ l.tokens) || !(x.2.saved || s.hasWork xk)

/-- The record in the work area names the launch and is complete (R107). -/
def State.recordOk (s : State) (k : LKey) (l : Launch) : Bool :=
  match s.sysWord k.die k.ptag l.area with
  | some w => w % 65536 == l.lid && bitOf w 48
  | none => false
/-- A CR of the list as the record gives it; what the record does not hold is that of the entry which the scheduler kept. -/
def rereadCr (l : LKey) (x : Launch) (old : Option Cr) (ws : List Nat) : Cr :=
  let c := crOfWords l.ptag l.die 0 false ws
  let o := old.getD { c with entry := x.entry (c.flags % 4) }
  { c with task := o.task, entry := o.entry, home := o.home, kept := o.kept, image := if crFrozen c then c.pc * 65536 else o.image }
/-- A launch as its record gives it (R105, R107): the rows of its window, the out-of-order set, BASEROW, DONE and the CRs. Those past the
list's room, and tasks that have become READY since the save, are the scheduler's own. -/
def State.readFrontier (s : State) (k : LKey) (l : Launch) : Launch :=
  let w := fun off => (s.sysWord k.die k.ptag (l.area + off)).getD 0
  let base := bits (w 8) 31 0
  let ooo := (List.range 256).filterMap fun i =>
    let x := w (64 + 8 * l.nrow + 8 * i)
    if bitOf x 63 then some (l.ord (bits x 15 0) (bits x 31 16) (bits x 47 32)) else none
  let n := min l.nframe (bits (w 0) 47 32)
  let crs := (List.range n).map fun i => rereadCr k l l.crs[i]? ((List.range 8).map fun j => w (2112 + 8 * l.nrow + 64 * i + 8 * j))
  { l with
    counts := ((List.range (min 4096 (l.nrow - base))).map fun r => (base + r, w (64 + 8 * (base + r)))).filter fun x => x.2 != 0,
    ooo := ooo, base := base, done := w 16, crs := crs ++ l.crs.drop n, evicted := false }

/-- LAUNCH_TAKE_BACK (R116, R107): a saved launch is taken back from its record, and its CRs return to the ready queues; a record that fails
its check ends the launch with FAULT. -/
def execLaunchTakeBack (l : LKey) (s : State) : Host.Outcome State Fault Refusal :=
  .next (if !s.takeBackDue l then s
    else match s.launch l with
      | none => s
      | some x =>
        if !s.recordOk l x then
          let x' := { x with nfault := max 1 x.nfault }
          ((s.log (.launch l.ptag l.lid 2)).updLaunch l fun _ => x').retireLaunch l x'
        else
          let s := if x.evicted then s.makeRoom l.die else s
          (s.updLaunch l fun _ => { s.readFrontier l x with saved := false }).giveReady l)

/-- SUSPEND_TIMEOUT (R114, R199): a point that pre-emption asks to suspend has not reached a suspension point within 20 us; a freeze save of
its group is ordered. -/
def execSuspendTimeout (core : Nat) (s : State) : Host.Outcome State Fault Refusal :=
  .next (if (s.core core).suspReq ∧ (s.core core).point.isSome ∧ (s.cx core 0).pause ≠ .suspending then
      (s.gangCores core).foldl (fun s q => s.updCore q fun c => { c with freezeReq := true }) s
    else s)

/-! ### Suspension at a suspension point (R196, R289) -/

/-- The queue fence of a member is complete, and no handler runs or may start on it (R131, R196). -/
def State.memberQuiet (s : State) (k : Nat) : Bool :=
  let c := s.core k
  c.queuesEmpty && c.cx0.pause == .suspending && c.cx1.run == .idle && c.cx2.run == .idle && c.cx3.run == .idle && !s.actEligible k

/-- The fault that a member's queue fence raises. -/
def State.suspFault (s : State) (k : Nat) : Option TrapInfo :=
  let c := s.core k
  if c.cx0.run = .running ∧ c.cx0.pause = .suspending then [11, 12, 13].findSome? fun u => (c.headFault u).map queueTrap else none

/-- A suspension can go on: a fault of a queue is to be raised, or every member is quiet (R196). -/
def State.suspendDue (s : State) (k : Nat) : Bool :=
  !isStream k && (s.core k).point.isSome
  && (((s.gangCores k).any fun q => (s.suspFault q).isSome) || (s.gangCores k).all s.memberQuiet)

/-- The block of R196. -/
def Cx.block (c : Cx) : List Byte :=
  leBytes 8 c.rqkey.toNat ++ leBytes 8 c.rqpos.toNat
  ++ leBytes 8 ((List.range 8).foldl (fun n j => n + (if c.getG (finOf 8 j) then 2 ^ j else 0)) 0) ++ leBytes 8 c.vcc ++ leBytes 32 0

/-- The CR of a point that leaves its core (R102, R196, R197). -/
def State.crOf (s : State) (k : Nat) (p : Point) (pc upc flag : Nat) : Cr :=
  let c := s.cx k 0
  { pc := pc, upc := upc, flags := p.kidx + flag, lid := p.l.lid, x := p.x, y := p.y, z := p.z,
    prio := ((s.launch p.l).map Launch.tokens).getD 0, state := 2, aff := clusterOf k, gang := p.gang, frame := p.frame,
    args := (List.range 4).map (c.argv ·), ptag := p.l.ptag, die := p.l.die, task := p.task, entry := p.entry }

/-- The victim of a failed checkpoint drains instead, and its CRs go back to the queues (R196, R197). -/
def State.checkpointFailed (s : State) (k : Nat) (p : Point) : State :=
  let s := (s.gangCores k).foldl (fun s q => s.updCore q fun c => { c with
    suspReq := false, freezeReq := false,
    cx0 := { c.cx0 with suspReq := false, pause := if c.cx0.pause = .suspending then .none else c.cx0.pause } }) s
  match s.launch p.l with
  | some l => match l.preempting, l.preemptBy with
    | true, some n =>
      let s := (s.coresOf p.l).foldl (fun s q => s.updCore q fun c => { c with suspReq := false, freezeReq := false }) s
      ((s.updLaunch p.l fun x => { x with preempting := false, preemptBy := none }).drainVictim n p.l).giveReady p.l
    | _, _ => s
  | none => s

/-- A CR goes to the list of a launch that is being saved, or to the tail of its class (R115, R289). -/
def State.placeCr (s : State) (k : Nat) (l : LKey) (c : Cr) : State :=
  match s.launch l with
  | some x => if x.preempting then s.updLaunch l fun y => { y with crs := y.crs ++ [{ c with state := 4 }] } else s.enqueueCr (clusterOf k) c
  | none => s.enqueueCr (clusterOf k) c

/-- What a group writes when it suspends (R196 steps 3 and 4): each member's block at its frame, and its CR in the next entry of the launch's
list, if the list has room (log 81). -/
def State.suspWrites (s : State) (ms : List Nat) : List (Nat × Nat × List Byte) :=
  ms.zipIdx.flatMap fun q => match (s.core q.1).point with
    | some r => (r.l.ptag, r.frame, (s.cx q.1 0).block) :: (match s.launch r.l with
        | some l => if l.crs.length + q.2 < l.nframe then
            [(r.l.ptag, l.area + 2112 + 8 * l.nrow + 64 * (l.crs.length + q.2),
              ((s.crOf q.1 r (s.cx q.1 0).pc (s.cx q.1 0).upc 4).toWords).flatMap (leBytes 8))] else []
        | none => [])
    | none => []
/-- The members of a group suspend (R196 steps 3 to 5), or, if a write faults, go on (R196). -/
def State.suspendGroup (s : State) (k : Nat) (p : Point) : State :=
  let ms := s.gangCores k
  let ws := s.suspWrites ms
  match ws.findSome? fun w => s.sysWriteCause w.1 w.2.1 w.2.2.length with
  | some cause => ((s.log (.trap p.l.ptag k 0 cause)).logFault p.l cause p.x p.y p.z).checkpointFailed k p
  | none =>
    let s := ws.foldl (fun s w => s.sysWrite (dieOf k) w.1 w.2.1 w.2.2) s
    let s := ms.foldl (fun s q => match (s.core q).point with
      | some r => let cr := s.crOf q r (s.cx q 0).pc (s.cx q 0).upc 4
                  (s.freeCore q).placeCr q r.l cr
      | none => s) s
    s.unbindPipes (clusterOf k) p.gang p.l

/-- SUSPEND_AT_SUSPENSION_POINT (R196): every member of the group stands at its suspension point with its queues empty. -/
def execSuspendAtSuspensionPoint (core : Nat) (s : State) : Host.Outcome State Fault Refusal :=
  .next (match (s.core core).point with
    | none => s
    | some p =>
      if !s.suspendDue core then s
      else match (s.gangCores core).findSome? fun q => (s.suspFault q).map fun t => (q, t) with
        | some (q, t) => s.takeTrap q 0 t
        | none => s.suspendGroup core p)

/-! ### The full freeze save (R197) -/

/-- Operand ports and bypass registers of each unit, in unit-id order (R122 Table 1). -/
def unitPorts : List (Nat × Nat × Nat) :=
  [(4, 2, 1), (5, 2, 2), (6, 2, 2), (7, 4, 2), (8, 4, 4), (9, 4, 4), (10, 4, 2), (11, 4, 1), (12, 4, 1), (13, 4, 1), (14, 2, 1), (15, 4, 2),
   (16, 4, 1)]
/-- The keys of the port slots and of the bypass slots of an image: unit and number. -/
def portSlots : List (Nat × Nat) := unitPorts.flatMap fun u => (List.range u.2.1).map fun p => (u.1, p)
def bypSlots : List (Nat × Nat) := unitPorts.flatMap fun u => (List.range u.2.2).map fun p => (u.1, p)

/-- Bytes with fields put in. -/
def renderFields (n : Nat) (fs : List FrameField) : List Byte :=
  SMap.run 0 (fs.foldl (fun (m : SMap Byte) f => SMap.setRun 0 m f.1 (leBytes f.2.1 f.2.2)) []) 0 n

/-- A port of context 0 of a core, and one of its bypass registers. -/
def State.portAt (s : State) (k u p : Nat) : Val :=
  if unitPerCtx u then SMap.get 0 (s.cx k 0).ports (u * 4 + p) else SMap.get 0 (s.core k).ports (u * 4 + p)

/-- The freeze image of a core: offsets and bytes (R197 Table 7, R343). -/
def State.freezeImage (s : State) (k : Nat) : List (Nat × List Byte) :=
  let c := s.core k
  let pipes := (List.range 16).map fun i =>
    match (s.cluster (clusterOf k)).pipes.find? fun (x : Nat × Pipe) => x.1 % 16 == i && match c.point with
        | some p => x.2.gang == p.gang && x.2.l == p.l
        | none => false with
    | some x => x.2.head.toNat + x.2.tail.toNat * 2 ^ 32
    | none => 0
  [(0, renderFields 0x4000 (trapFields c.cx0 0 { cause := 0 } ++ c.cx0.imageFields)),
   (0x4000, (List.range 64).flatMap fun i => leBytes 128 (c.getV (finOf 64 i)).toNat),
   (0x6000, (List.range 16).flatMap fun i => leBytes 256 (c.getM (finOf 16 i)).toNat),
   (0x7000, (List.range 1024).flatMap fun i => leBytes 4 (c.getCt (finOf 4 (i / 256)) (i % 256)).toNat),
   (0x8000, (List.range 16).flatMap fun i => leBytes 2 (c.getFt (finOf 16 i)).toNat),
   (0x8020, pipes.flatMap (leBytes 8)),
   (0x80A0, List.replicate 0x3F60 0),
   (0xC000, (portSlots.flatMap fun u => leBytes 256 (s.portAt k u.1 u.2).toNat)
     ++ (bypSlots.flatMap fun u => leBytes 256 (s.bypAt k 0 u.1 u.2).toNat)
     ++ SMap.run 0 c.mask 0 512
     ++ ((List.range 4).flatMap fun i => leBytes 32 ((SMap.get none c.mxd i).getD 0)) ++ leBytes 128 c.fifo.length
     ++ (c.fifo ++ List.replicate (2048 - c.fifo.length) 0) ++ leBytes 256 c.gidx),
   (0x11000, List.replicate 0xF000 0),
   (0x20000, (List.range 131072).flatMap fun e => leBytes 4 (SMap.get 0 c.acc e).toNat),
   (0xA0000, SMap.run 0 c.sp 0 spSize)]

/-- The lowest free image slot of a partition, with its address. -/
def State.freezeSlot (s : State) (ptag : Nat) : Option (Nat × Nat) :=
  let p := s.part ptag
  ((List.range p.frzn).find? fun i => !p.frzUsed.contains i).map fun i => (i, p.frzbase + 0x200000 * i)

/-- A member that a freeze can take: running, with no handler or trap; it may wait at its suspension point for a peer (R131, R197,
R199). -/
def State.freezable (s : State) (k : Nat) : Bool :=
  let c := s.core k
  c.freezeReq && c.cx0.run == .running && c.cx0.pause != .ending
  && c.cx1.run == .idle && c.cx2.run == .idle && c.cx3.run == .idle

/-- A held fault of a member: of a result or of the head of a queue. -/
def State.heldFault (s : State) (k : Nat) : Bool :=
  let c := s.core k
  ([11, 12, 13].any fun u => (c.headFault u).isSome) || c.cx0.joins.any (fun x => x.2.any fun r => r.fault.isSome)
  || c.joins.any (fun x => x.2.any fun r => r.fault.isSome)

/-- The queues of a member are empty and its results are in (R197 step 3). -/
def State.memberEmpty (s : State) (k : Nat) : Bool :=
  let c := s.core k
  c.queuesEmpty && c.cx0.sysq.isEmpty && !(c.cx0.flights.any fun f => f.late) && !(s.reqs.any fun r => r.core == k && r.ctx == 0 && r.key.isSome)
  && c.cx0.joins.all (fun x => x.2.all QRes.done) && c.joins.all fun x => x.2.all QRes.done

/-- Every queued result of context 0 is written to its bypass register (R197 step 3). -/
def State.writeResults (s : State) (k : Nat) : State :=
  bypSlots.foldl (fun s u =>
    ((s.joinsAt k 0 u.1 u.2).foldl (fun s r => s.setBypAt k 0 u.1 u.2 r.val) s).setJoinsAt k 0 u.1 u.2 []) s

/-- A freeze save can go on: a segment is to be rewound, a fault makes it fail, or the queues are empty (R197). -/
def State.freezeDue (s : State) (k : Nat) : Bool :=
  !isStream k && (s.core k).point.isSome && (s.gangCores k).all s.freezable
  && (((s.gangCores k).any fun q => (SMap.find s.segs q).isSome || s.heldFault q) || (s.gangCores k).all s.memberEmpty)

/-- One member is saved: its image, its CR, its core freed; none if no slot is free or a write faults (R197 steps 4 to 6). -/
def State.freezeMember (s : State) (k : Nat) (p : Point) : Option State :=
  match s.freezeSlot p.l.ptag with
  | none => none
  | some (i, va) =>
    if !s.sysWritable p.l.ptag va 0x160000 then none
    else
      let s := s.writeResults k
      let s := (s.freezeImage k).foldl (fun s x => s.sysWrite (dieOf k) p.l.ptag (va + x.1) x.2) s
      let s := s.updPart p.l.ptag fun x => { x with frzUsed := i :: x.frzUsed }
      let cr := { s.crOf k p (va / 65536) 0 8 with image := va, home := some k, kept := s.cx k 0, state := 4 }
      let s := (s.freeCore k).updCore k fun c => { c with joins := [], cx0 := { c.cx0 with joins := [] } }
      some (s.placeCr k p.l cr)

/-- The members of a group are saved, all of them or none. -/
def State.freezeGroup (s : State) : List Nat → Option State
  | [] => some s
  | q :: t => match (s.core q).point with
    | some p => match s.freezeMember q p with
      | some s' => s'.freezeGroup t
      | none => none
    | none => s.freezeGroup t

/-- FREEZE_SAVE (R197): the group of a core is frozen: segments rewind, queues empty, images and CRs are written. -/
def execFreezeSave (core : Nat) (s : State) : Host.Outcome State Fault Refusal :=
  .next (match (s.core core).point with
    | none => s
    | some p =>
      let ms := s.gangCores core
      if !s.freezeDue core then s
      else if ms.any fun q => (SMap.find s.segs q).isSome then
        ms.foldl (fun s q => { s.rewindSeg q with segs := SMap.del s.segs q }) s
      else if ms.any s.heldFault then (s.log (.trap p.l.ptag core 0 0)).checkpointFailed core p
      else match s.freezeGroup ms with
        | some s' => s'
        | none => (s.log (.trap p.l.ptag core 0 0)).checkpointFailed core p)

/-! ### Restoring a frozen group (R198) -/

/-- Registers of an image: `n` values of `w` bytes, without zeros. -/
def imgVals (bs : List Byte) (off w n : Nat) : List (Nat × Nat) :=
  ((List.range n).map fun j => (j, leNat ((bs.drop (off + w * j)).take w))).filter (·.2 != 0)

/-- A frozen core reads its image and runs again (R198 steps 1 to 4). -/
def State.restoreCore (s : State) (k : Nat) (cr : Cr) (img : List Byte) (vcc : Nat) (gang : Bool) : State :=
  let i := s.kernelAt cr.ptag cr.entry
  let pa := (s.translateNow k cr.ptag cr.image accLoad)
  let cx := match pa with
    | .ok (.hbm a _) _ _ => s.loadImage k a cr.kept
    | _ => cr.kept
  let w := fun off n => leNat ((img.drop off).take n)
  let np := portSlots.length
  let slots := fun (l : List (Nat × Nat)) (base : Nat) => l.zipIdx.filterMap fun (x : (Nat × Nat) × Nat) =>
    let v := w (0xC000 + 256 * (base + x.2)) 256
    if v = 0 then none else some (x.1.1, x.1.1 * 4 + x.1.2, natVal v)
  let ps := slots portSlots 0
  let bs := slots bypSlots np
  let pick := fun (mine : Bool) (l : List (Nat × Nat × Val)) => (l.filter fun x => unitPerCtx x.1 == mine).map fun x => (x.2.1, x.2.2)
  let mx := 0xC000 + 256 * (np + bypSlots.length)
  let nfifo := w (mx + 640) 2
  let pl := s.core k
  let s := s.updPart cr.ptag fun p => { p with frzUsed := p.frzUsed.filter fun j => p.frzbase + 0x200000 * j != cr.image }
  s.setCore k (({ pl with
    cx0 := { cx with run := .running, pause := .none, pc := w 8 8 % 2 ^ 48, upc := w 8 8 / 2 ^ 48 % 2 ^ 12, vcc := vcc, wd := w 56 8,
                     ports := pick true ps, byp := pick true bs, joins := [], hold := none, desync := gang, rdvPass := false,
                     arg := SMap.cells 0 0 cr.args, suspReq := false },
    v := (imgVals img 0x4000 128 64).map fun x => (x.1, BitVec.ofNat 1024 x.2),
    m := (imgVals img 0x6000 256 16).map fun x => (x.1, natVal x.2),
    ct := SMap.cells 0 0 ((List.range 1024).map fun j => BitVec.ofNat 32 (w (0x7000 + 4 * j) 4) ^^^ ctDefault (j % 256)),
    ft := (imgVals img 0x8000 2 16).map fun x => (x.1, BitVec.ofNat 16 x.2),
    ports := pick false ps, byp := pick false bs, joins := [],
    mask := SMap.cells 0 0 ((img.drop mx).take 512),
    mxd := (List.range 4).filterMap fun j => if w (mx + 512 + 32 * j) 32 = 0 then none else some (j, some (w (mx + 512 + 32 * j) 32)),
    fifo := (img.drop (mx + 768)).take nfifo, gidx := w (mx + 2816) 256,
    acc := SMap.cells 0 0 ((List.range 131072).map fun e => BitVec.ofNat 32 (w (0x20000 + 4 * e) 4)), accPoison := [],
    sp := SMap.cells 0 0 ((img.drop 0xA0000).take spSize), spPoison := [],
    restore := none, l1 := {}, icache := {}, rbuf := [], burst := false, suspReq := false, freezeReq := false,
    point := some { l := crLaunch cr, x := cr.x, y := cr.y, z := cr.z, kidx := crKidx cr, gang := cr.gang, frame := cr.frame,
                    task := cr.task, entry := cr.entry } } : Core).loadStore i)

/-- HEAD and TAIL of a gang's pipes come from an image (R367). -/
def State.restorePipes (s : State) (k : Nat) (cr : Cr) (img : List Byte) : State :=
  s.updCluster (clusterOf k) fun c => { c with
    pipes := c.pipes.map fun (x : Nat × Pipe) =>
      if x.2.gang = cr.gang ∧ x.2.l = crLaunch cr then
        (x.1, { x.2 with head := BitVec.ofNat 32 (leNat ((img.drop (0x8020 + 8 * (x.1 % 16))).take 4)),
                         tail := BitVec.ofNat 32 (leNat ((img.drop (0x8024 + 8 * (x.1 % 16))).take 4)) })
      else x }

/-- The cores that wait for the restore of one group, with their CRs and images; none while an image cannot be read (R198). -/
def State.restoreGroup (s : State) (k : Nat) : Option (List (Nat × Cr × List Byte)) :=
  match (s.core k).restore with
  | none => none
  | some c =>
    let ms := s.cores.filterMap fun (x : Nat × Core) => match x.2.restore with
      | some d => if x.1 = k ∨ (c.gang ≠ 0 ∧ !c.task ∧ d.gang = c.gang ∧ crLaunch d = crLaunch c ∧ !d.task) then some (x.1, d) else none
      | none => none
    let rs := ms.filterMap fun a => (s.sysRead (dieOf a.1) a.2.ptag a.2.image 0x160000).map fun b => (a.1, a.2, b)
    if rs.length = ms.length then some rs else none

/-- FROZEN_RESTORE (R198): a frozen group is restored on its cores and starts on one cycle, at the largest saved VCC. -/
def execFrozenRestore (core : Nat) (s : State) : Host.Outcome State Fault Refusal :=
  .next (match s.restoreGroup core with
    | none => s
    | some rs =>
      let vcc := (rs.map fun x => leNat ((x.2.2.drop 16).take 8)).foldl max 0
      rs.foldl (fun s x => (s.restoreCore x.1 x.2.1 x.2.2 vcc (decide (1 < rs.length))).restorePipes x.1 x.2.1 x.2.2) s)

end Sys2Proof.Machine
end

