-- ==== Sys2Proof/Machine/Sys.lean ====
section
/-! DEFINITION. The system unit (R382-R397): registers, traps and returns, launches, handlers, maintenance, slot tables, the control
store, interrupts and debug. -/

namespace Sys2Proof.Machine

/-! ### Control and status registers (R383-R385) -/

/-- The partition that a partition-scope register names: a[15:12] from a privileged path, else the issuer's own (R383). -/
def State.csrPart (s : State) (k a : Nat) : Nat := if s.privileged k then bits a 15 12 else s.ptagOf k

def b2n (b : Bool) : Nat := if b then 1 else 0

/-- SCHPART, TRAPPART, FRZCFG, FCTL, IDPKG and IDCNT as words (R121, R194, R384). A link port whose peer is lost is not in service, one at
half rate is (R11, R24; log 84). -/
def Part.schpart (p : Part) : Nat := p.drainth + p.ageq * 2 ^ 20 + b2n p.dlen * 2 ^ 36
def Part.frzcfg (p : Part) : Nat := p.frzn + p.frzbase
def Pkg.fctl (p : Pkg) : Nat := p.nextTickNs.getD p.tickNs + b2n (!p.stoppers.isEmpty) * 2 ^ 20
def State.idpkg (k : Nat) : Nat := 0x0880 + Config.step.toNat * 2 ^ 16 + 2 ^ 24 + dieOf k * 2 ^ 32
def State.idcnt (s : State) : Nat :=
  let clus := 20 - s.pkg.offClusters.length
  8 * clus + clus * 2 ^ 8 + (8 - s.pkg.offStacks.length) * 2 ^ 16
    + ((List.range 18).filter fun p => (s.port p).up).length * 2 ^ 20 + 8 * 2 ^ 25

/-- The value of a register, read by context `i` of core `k` (R383 Table 2). A number not listed reads 0; so does CLHND on a stream core,
which has no cluster (log 83). -/
def State.csrVal (s : State) (k i num part : Nat) : Word :=
  let c := s.core k
  if num = 0x000 then (s.cx k i).rqkey
  else if num = 0x001 then (s.cx k i).rqpos
  else if 0x010 ≤ num ∧ num < 0x014 then SMap.get 0 c.bpa (num - 0x010)
  else if 0x014 ≤ num ∧ num < 0x018 then SMap.get 0 c.bpc (num - 0x014)
  else if num = 0x020 then (if isStream k then 0 else (s.cluster (clusterOf k)).clhnd.setWidth 64)
  else if num = 0x021 then c.bpoolA
  else if num = 0x022 then c.bpoolN.setWidth 64
  else if num = 0x030 then (s.part part).rngseed
  else if num = 0x031 then BitVec.ofNat 64 (s.part part).schpart
  else if num = 0x032 then BitVec.ofNat 64 (s.part part).wdlim
  else if num = 0x033 then BitVec.ofNat 64 (s.part part).frzcfg
  else if num = 0x040 then BitVec.ofNat 64 s.pkg.fctl
  else if num = 0x050 then BitVec.ofNat 64 (State.idpkg k)
  else if num = 0x051 then BitVec.ofNat 64 s.idcnt
  else 0

/-- Registers that only a privileged path writes (R383 Table 2). -/
def csrPrivileged (num : Nat) : Bool := [0x021, 0x022, 0x031, 0x032, 0x033, 0x040].contains num

/-- A register takes a new value under its access codes (R383, R385). A write of CLHND on a stream core is ignored (log 83). -/
def State.csrWrite (s : State) (k i num part : Nat) (w : Word) : State :=
  let n := w.toNat
  if num = 0x000 then s.updCx k i fun c => { c with rqkey := w, rqbuf := 0 }
  else if num = 0x001 then s.updCx k i fun c => { c with rqpos := w, rqbuf := 0 }
  else if 0x010 ≤ num ∧ num < 0x014 then s.updCore k fun c => { c with bpa := SMap.set 0 c.bpa (num - 0x010) w }
  else if 0x014 ≤ num ∧ num < 0x018 then
    s.updCore k fun c => { c with bpc := SMap.set 0 c.bpc (num - 0x014) (BitVec.ofNat 64 (n % 2 ^ 37)) }
  else if num = 0x020 then
    (if isStream k then s else s.updCluster (clusterOf k) fun c => { c with clhnd := BitVec.ofNat 8 n })
  else if num = 0x021 then s.updCore k fun c => { c with bpoolA := BitVec.ofNat 64 (n % 2 ^ 57) }
  else if num = 0x022 then s.updCore k fun c => { c with bpoolN := BitVec.ofNat 16 n }
  else if num = 0x030 then s.updPart part fun p => { p with rngseed := w }
  else if num = 0x031 then s.updPart part fun p => { p with drainth := bits n 19 0, ageq := bits n 35 20, dlen := bitOf n 36 }
  else if num = 0x032 then s.updPart part fun p => { p with wdlim := bits n 39 0 }
  else if num = 0x033 then s.updPart part fun p => { p with frzn := bits n 7 0, frzbase := bits n 56 21 * 2 ^ 21 }
  else if num = 0x040 then
    (if 100 ≤ bits n 19 0 ∧ bits n 19 0 ≤ 1000000 then { s with pkg := { s.pkg with nextTickNs := some (bits n 19 0) } } else s)
  else s

/-- What csrw, csrs and csrc make of the old value (R383). -/
def csrNew (op : Nat) (old b : Word) : Word := if op = 5 then b else if op = 6 then old ||| b else old &&& ~~~b

/-! ### Entering the sys queue (R382) -/

/-- PERM with D1 = 5: a trigger refused in its context or on its core (R382). -/
def State.sysRefuse (s : State) : State := s.raise (permTrap 0 5)

/-- A trigger enters the context's sys queue; b0 will hold its result (R382). With 8 entries the VCC pauses. -/
def State.sysEnter (s : State) (op : Nat) (a b c : Val) : State :=
  if 8 ≤ s.me.sysq.length then s.wait (.full 16)
  else
    let id := s.nextId
    ({ s with nextId := id + 1 }.updMe fun x => { x with sysq := x.sysq ++ [({ id := id, op := op, a := a, b := b, c := c, ctx := s.curCx } : QEntry)] }).expect
      s.cur s.curCx 16 0 id s.lendNow

def State.sysB (s : State) : Val := wordVal (s.opB .sys)
def State.sysC (s : State) : Val := wordVal (s.opC .sys)

/-- A fixed-latency read: now, or late while an earlier entry of the context is pending (R382). `sel` says what is read then. -/
def State.sysRead2 (s : State) (v : Word) (sel : Nat) : State :=
  match s.me.sysq.getLast? with
  | none => s.result .sys 0 2 (wordVal v)
  | some e => s.pushFlight s.cur s.curCx
      { unit := 16, byp := some 0, val := wordVal v, remain := 2, lend := s.lendNow, slot := s.bnd.slot, late := true,
        tag := some (e.id * 2 ^ 20 + sel) }

/-- The value of frd (R390). -/
def State.frdVal (s : State) (k i sel : Nat) : Word :=
  match sel with
  | 0 => BitVec.ofNat 64 s.pkg.ticks
  | 1 => BitVec.ofNat 64 s.pkg.fctl
  | 2 => match (s.core k).point with
    | some p => if i = 0 then BitVec.ofNat 64 p.frame else 0
    | none => 0
  | _ => match (s.core k).point with
    | some p => if i = 0 then BitVec.ofNat 64 (p.l.lid + p.kidx * 2 ^ 16) else 0
    | none => 0

/-- The late read of a sys flight (R382): `sel` is a register number and partition, 2^16 + a selector of frd, or 2^17 for a value
fixed at issue. -/
def State.lateSys (s : State) (k i : Nat) (f : Flight) : Val :=
  let sel := f.tag.getD 0 % 2 ^ 20
  if 2 ^ 17 ≤ sel then f.val
  else if 2 ^ 16 ≤ sel then wordVal (s.frdVal k i (sel % 4))
  else wordVal (s.csrVal k i (sel % 4096) (sel / 4096))

/-- SYS_CSRR (R383, R385): b0 := a register. -/
def execSysCsrr (t : Tr) (s : State) : Host.Outcome State Fault Refusal :=
  s.acting t false false fun v s =>
    let a := v.toNat % 65536
    let num := a % 4096
    let part := s.csrPart s.cur a
    if num = 1 ∧ !s.me.rqPending then
      s.sysRead2 (s.me.rqpos - BitVec.ofNat 64 (s.popsBelow s.bnd.words s.bnd.slot)) (2 ^ 17)
    else s.sysRead2 (s.csrVal s.cur s.curCx num part) (num + part % 16 * 4096)

/-- csrw, csrs and csrc (R383). -/
def State.csrOp (s : State) (t : Tr) (op : Nat) : Host.Outcome State Fault Refusal :=
  s.acting t false false fun v s =>
    if csrPrivileged (v.toNat % 4096) && !s.privileged s.cur then s.sysRefuse
    else s.sysEnter op (natVal (v.toNat % 4096 + s.csrPart s.cur (v.toNat % 65536) % 16 * 4096)) s.sysB 0

/-- SYS_CSRW (R383): write a register; b0 := the old value. -/
def execSysCsrw (t : Tr) (s : State) : Host.Outcome State Fault Refusal := s.csrOp t 5
/-- SYS_CSRS (R383): set bits of a register. -/
def execSysCsrs (t : Tr) (s : State) : Host.Outcome State Fault Refusal := s.csrOp t 6
/-- SYS_CSRC (R383): clear bits of a register. -/
def execSysCsrc (t : Tr) (s : State) : Host.Outcome State Fault Refusal := s.csrOp t 7

/-- SYS_FRD (R390): b0 := the frame counter, FCTL, the frame pointer, or LID and KIDX. -/
def execSysFrd (t : Tr) (s : State) : Host.Outcome State Fault Refusal :=
  s.acting t false false fun v s => s.sysRead2 (s.frdVal s.cur s.curCx (v.toNat % 4)) (2 ^ 16 + v.toNat % 4)

/-! ### Traps, returns and point end (R386, R387, R389) -/

/-- SYS_TRAP (R386): SWT with the code and the argument. -/
def execSysTrap (t : Tr) (s : State) : Host.Outcome State Fault Refusal :=
  s.acting t false false fun v s => s.raise { cause := 0x11, d := [BitVec.ofNat 64 (v.toNat % 256), s.opB .sys] }

/-- SYS_TRET (R387): context 3 ends after this bundle. -/
def execSysTret (t : Tr) (s : State) : Host.Outcome State Fault Refusal :=
  s.acting t false false fun _ s => if s.curCx = 3 then { s with bnd := { s.bnd with ended := 2 } } else s.sysRefuse

/-- SYS_HRET (R387): a drain at package scope, then the activation ends. -/
def execSysHret (t : Tr) (s : State) : Host.Outcome State Fault Refusal :=
  s.acting t false false fun _ s =>
    if s.curCx ≠ 1 ∧ s.curCx ≠ 2 then s.sysRefuse
    else if !s.me.sysq.isEmpty then s.wait .sysEntry
    else s.settle 3 0xFFFF fun s =>
      let s := s.evictAll (dieOf s.cur)
      { s with bnd := { s.bnd with ended := 3 } }

/-- The fault that a point end raises first: of a queue's head, or of a result that no join has read (R183). -/
def State.endFault (s : State) : Option TrapInfo :=
  match [11, 12, 13].findSome? fun u => (s.myCore.headFault u).map queueTrap with
  | some t => some t
  | none =>
    let find := fun (js : SMap (List QRes)) => js.findSome? fun x => x.2.findSome? fun r => r.fault.map fun t => { t with held := some x.1 }
    (find s.me.joins).or (find s.myCore.joins)

/-- SYS_RETIRE (R389): the point end: with the queues empty and the release of R108 done, the kernel ends with this bundle. -/
def execSysRetire (t : Tr) (s : State) : Host.Outcome State Fault Refusal :=
  s.acting t false false fun _ s =>
    if s.curCx ≠ 0 ∨ isStream s.cur then s.sysRefuse
    else match s.endFault with
      | some t => s.raise t
      | none =>
        let scope := s.endScope s.cur
        if !s.myCore.queuesEmpty ∨ s.endWaits s.cur scope then s.wait (.fence 31)
        else if 3 ≤ scope ∧ !(s.remoteDirty (dieOf s.cur) (s.ptagOf s.cur)).isEmpty then s.wait (.drain 3 0xFFFF)
        else match s.fenceTrap 0xFFFF with
          | some t => s.raise t
          | none =>
            let s := s.backLocal s.cur scope
            { s with bnd := { s.bnd with ended := 1 } }

/-! ### The queued triggers (R388, R391-R397) -/

/-- SYS_LAUNCH (R388): release at package scope, then enqueue the record at a. -/
def execSysLaunch (t : Tr) (s : State) : Host.Outcome State Fault Refusal :=
  s.acting t false false fun v s => s.gate fun s =>
    if (valWord v).toNat % 64 ≠ 0 then s.raise (alignTrap (valWord v).toNat 128)
    else s.settle 3 0xFFFF fun s => s.sysEnter 0x0B v 0 0

/-- SYS_LAUNCHI (R388, R119): as launch, with the count at b. -/
def execSysLaunchi (t : Tr) (s : State) : Host.Outcome State Fault Refusal :=
  s.acting t false false fun v s => s.gate fun s =>
    if (valWord v).toNat % 64 ≠ 0 then s.raise (alignTrap (valWord v).toNat 128)
    else if (s.opB .sys).toNat % 8 ≠ 0 then s.raise (alignTrap (s.opB .sys).toNat 8)
    else s.settle 3 0xFFFF fun s => s.sysEnter 0x0C v s.sysB 0

/-- SYS_HINST (R391): install a trap handler. -/
def execSysHinst (t : Tr) (s : State) : Host.Outcome State Fault Refusal :=
  s.acting t false false fun v s => s.gate fun s =>
    if s.curCx ≠ 0 then s.sysRefuse
    else if (valWord v).toNat % 64 ≠ 0 then s.raise (alignTrap (valWord v).toNat 64)
    else s.sysEnter 0x0F v 0 0

/-- SYS_TLBI (R392): invalidate translations that are not pinned. -/
def execSysTlbi (t : Tr) (s : State) : Host.Outcome State Fault Refusal :=
  s.acting t false false fun v s => s.sysEnter 0x10 v s.sysB 0

/-- SYS_TLBUN (R392): remove pinned translations that no handler uses. -/
def execSysTlbun (t : Tr) (s : State) : Host.Outcome State Fault Refusal :=
  s.acting t false false fun v s => s.sysEnter 0x11 v s.sysB 0

/-- SYS_CINV (R393): invalidate the core's L1 or instruction cache. -/
def execSysCinv (t : Tr) (s : State) : Host.Outcome State Fault Refusal :=
  s.acting t false false fun v s => if isStream s.cur then s.sysRefuse else s.sysEnter 0x12 v 0 0

/-- SYS_CWB (R393): write dirty L2 lines of a range back. -/
def execSysCwb (t : Tr) (s : State) : Host.Outcome State Fault Refusal :=
  s.acting t false false fun v s => s.gate fun s => s.sysEnter 0x13 v s.sysB s.sysC

/-- SYS_SLOTLD (R394): load slot tables; a privileged path only. -/
def execSysSlotld (t : Tr) (s : State) : Host.Outcome State Fault Refusal :=
  s.acting t false false fun v s => s.gate fun s =>
    if !s.privileged s.cur then s.sysRefuse
    else if (valWord v).toNat % 16 ≠ 0 then s.raise (alignTrap (valWord v).toNat 16)
    else s.sysEnter 0x14 v 0 0

/-- SYS_CSW (R395): write the control store from memory. -/
def execSysCsw (t : Tr) (s : State) : Host.Outcome State Fault Refusal :=
  s.acting t false false fun v s => s.gate fun s =>
    if s.curCx ≠ 0 ∨ isStream s.cur then s.sysRefuse
    else if (valWord v).toNat % 16 ≠ 0 then s.raise (alignTrap (valWord v).toNat 16)
    else s.sysEnter 0x15 v s.sysB s.sysC

/-- SYS_IRQ (R396): send an MSI-X vector. -/
def execSysIrq (t : Tr) (s : State) : Host.Outcome State Fault Refusal :=
  s.acting t false false fun v s => s.sysEnter 0x16 v 0 0

/-- SYS_DBG (R397): log a value, or halt the group after this bundle. -/
def execSysDbg (t : Tr) (s : State) : Host.Outcome State Fault Refusal :=
  s.acting t false false fun v s =>
    let s := s.sysEnter 0x17 v s.sysB 0
    if v.toNat % 16 = 1 then { s with bnd := { s.bnd with halt := true } } else s

/-! ### The head of a sys queue performs (R382) -/

def QEntry.aw (e : QEntry) : Nat := (valWord e.a).toNat
def QEntry.bw (e : QEntry) : Nat := (valWord e.b).toNat

def State.updSysq (s : State) (k i id : Nat) (f : QEntry → QEntry) : State :=
  s.updCx k i fun c => { c with sysq := c.sysq.map fun (e : QEntry) => if e.id = id then f e else e }
/-- An entry completes with a value, or with the fault that its join raises. -/
def State.sysDone (s : State) (k i : Nat) (e : QEntry) (v : Val) (fault : Option TrapInfo := none) : State :=
  let s := (s.updCx k i fun c => { c with sysq := c.sysq.filter fun x => x.id != e.id }).updCore k fun c => c.clearBuf 16
  s.deliver k i 16 0 e.id v fault
/-- Requests of an entry that are not answered. -/
def State.sysBusy (s : State) (id : Nat) : Bool := s.reqs.any fun r => r.unit == 16 && r.key == some id
/-- Go on with what an access gives, fetch what is missing, wait, or end with the fault. -/
def State.sysTry {α : Type} (s : State) (k i : Nat) (e : QEntry) (x : Eng α) (f : α → State) : State :=
  match x with
  | .ok a => f a
  | .hold => s
  | .need t va n => s.engFetch k 16 e.id 0 t va n
  | .bad t => s.sysDone k i e 0 (some t)

/-- Little-endian words of bytes. -/
def wordsOf : Nat → List Byte → List Nat
  | 0, _ => []
  | n + 1, bs => leNat (bs.take 8) :: wordsOf n (bs.drop 8)

/-- Word 0 of each pipe descriptor, read as the issuer where the launch is its own partition's (R110, R388). -/
def State.pipeWords (s : State) (k ptag : Nat) (l : Launch) : Eng (Option (List Nat)) :=
  if l.nkern < 2 ∨ l.npipe = 0 ∨ 16 < l.npipe then .ok (some [])
  else if ptag = s.ptagOf k then
    match s.engRead 16 k l.pipetab (16 * l.npipe) with
    | .ok bs => .ok (some ((List.range l.npipe).map fun j => leNat ((bs.drop (16 * j)).take 8)))
    | .need t va n => .need t va n
    | .hold => .hold
    | .bad _ => .ok none
  else .ok ((s.sysRead (dieOf k) ptag l.pipetab (16 * l.npipe)).map fun bs =>
    (List.range l.npipe).map fun j => leNat ((bs.drop (16 * j)).take 8))

/-- launch and launchi read their record and enqueue it, once the die has room (R388, R120). -/
def State.sysLaunch (s : State) (k i : Nat) (e : QEntry) : State :=
  s.sysTry k i e (s.engRead 16 k e.aw 128) fun bs =>
    let words := (wordsOf 16 bs).map (BitVec.ofNat 64)
    let l : Launch := { words := words }
    let ptag := s.launchPtag k l
    s.sysTry k i e (s.pipeWords k ptag l) fun ps =>
      if (s.die (l.die (dieOf k))).full then s
      else (s.enqueue k words (if e.op = 0x0C then some e.bw else none) ps).sysDone k i e 0

/-- The pages of a range, with the leaf that maps each. -/
def State.rangeLeaves (s : State) (ptag va n : Nat) : List (Nat × Option (Nat × Nat)) :=
  (List.range ((va % 65536 + n + 65535) / 65536)).map fun j =>
    let a := (va / 65536 + j) * 65536
    (a, if a < 2 ^ 25 then none else match s.walk ptag a with
      | .ok (lvl, _, leaf) => some (leaf, pageSize lvl)
      | .error _ => none)
/-- A page that a handler's code (`x`) or data may lie in (R190). -/
def pageFit (x : Bool) (p : Nat × Option (Nat × Nat)) : Bool :=
  match p.2 with
  | some (leaf, _) => ptePinned leaf && pteType leaf == 0 && (if x then pteX leaf else pteW leaf)
  | none => false
def pinnedOf (ptag : Nat) (p : Nat × Option (Nat × Nat)) : Option Tlb :=
  p.2.map fun x => { ptag := ptag, base := p.1 / x.2 * x.2, size := x.2, leaf := x.1, pinned := true }

/-- Add pinned translations that are not there yet. -/
def addPinned (tlb : List Tlb) (ps : List Tlb) : List Tlb :=
  ps.foldl (fun l p => if l.any fun e => e.pinned && e.ptag == p.ptag && e.base == p.base && e.size == p.size then l else p :: l) tlb

/-- hinst: the checks of R190 in order, then the handler and its pinned translations (R149, R391). -/
def State.sysHinst (s : State) (k i : Nat) (e : QEntry) : State :=
  s.sysTry k i e (s.engRead 16 k e.aw 64) fun bs =>
    let w := wordsOf 8 bs
    let g := fun n => w.getD n 0
    let p := s.ptagOf k
    let cause := bits (g 0) 7 0
    let h : Handler := ⟨bits (g 1) 56 0, bits (g 2) 56 0, bits (g 4) 31 0, bits (g 3) 56 0, bits (g 5) 31 0, p⟩
    let code := s.rangeLeaves p h.cbase h.clen
    let data := s.rangeLeaves p h.dbase h.dlen
    let cl := s.cluster (clusterOf k)
    let tlb := addPinned cl.tlb ((code ++ data).filterMap (pinnedOf p))
    let reason : Nat :=
      if cause = 0 ∨ 0x11 < cause then 1
      else if h.dlen < 0x20000 ∨ h.dbase % 0x4000 ≠ 0 then 2
      else if !code.all (pageFit true) then 3
      else if !data.all (pageFit false) then 4
      else if 256 < (tlb.filter (·.pinned)).length then 5
      else if h.entry % 16 ≠ 0 ∨ h.entry < h.cbase ∨ h.cbase + h.clen ≤ h.entry then 6 else 0
    let s := if reason = 0 then s.updCluster (clusterOf k) fun c => { c with handlers := SMap.put c.handlers cause h, tlb := tlb } else s
    s.sysDone k i e (natVal reason)

/-- The bytes that an extent of tlbi or tlbun covers: base and size, none for all (R392). -/
def extentOf (a b : Nat) : Option (Nat × Nat) :=
  match b % 4 with
  | 0 => some (a / 2 ^ 16 * 2 ^ 16, 2 ^ 16)
  | 1 => some (a / 2 ^ 21 * 2 ^ 21, 2 ^ 21)
  | 2 => some (a / 2 ^ 30 * 2 ^ 30, 2 ^ 30)
  | _ => none
def inExtent (x : Option (Nat × Nat)) (base size : Nat) : Bool :=
  match x with
  | none => true
  | some (a, n) => decide (base < a + n) && decide (a < base + size)

/-- Translations of a partition in an extent go from every cluster and stream, and from the caches of NMA units and of BAR2 (R392). -/
def State.dropTlb (s : State) (ptag : Nat) (x : Option (Nat × Nat)) (pinned : Bool) : State :=
  let keep := fun (e : Tlb) => !(e.ptag == ptag && e.pinned == pinned && inExtent x e.base e.size)
  { s with
    clusters := s.clusters.map fun (c : Nat × Cluster) => (c.1, { c.2 with tlb := c.2.tlb.filter keep }),
    xlc := s.xlc.map fun (c : Nat × List Tlb) => (c.1, c.2.filter keep) }

/-- An installed handler of the partition's clusters uses a page of the extent (R392). -/
def State.handlerIn (s : State) (ptag : Nat) (x : Option (Nat × Nat)) : Bool :=
  (List.range 20).any fun c => (s.part ptag).clmask.getLsbD c && (s.cluster c).handlers.any fun h =>
    inExtent x h.2.cbase h.2.clen || inExtent x h.2.dbase h.2.dlen

/-- The dirty lines of the issuer's partition that cwb names (R393): all, or those that hold a byte of [a, a + b). -/
def State.cwbLine (s : State) (k a n : Nat) : Nat × L2Byte → Bool :=
  let p := s.ptagOf k
  if n = 0 then fun x => x.2.ptag == p
  else
    let ts := (pageRuns a n).filterMap fun r => match s.translateNow k p r.1 accLoad with
      | .ok t _ _ => some (tgtKey t, r.2)
      | _ => none
    fun x => x.2.ptag == p && ts.any fun t => decide (t.1 / 128 ≤ x.1 / 128) && decide (x.1 / 128 ≤ (t.1 + t.2 - 1) / 128)

/-- cwb (R393): the dirty lines perform at their homes; with INV the L2 keeps none of them. `tags`: the write-backs it waits for. -/
def State.sysCwb (s : State) (k i : Nat) (e : QEntry) : State :=
  if e.sent then (if s.reqs.any fun r => e.tags.contains r.id then s else s.sysDone k i e 0)
  else
    let d := dieOf k
    let dirty := (s.die d).l2.filter (s.cwbLine k e.aw e.bw)
    let s := (s.remoteBack d (dirty.filter fun x => decide (2 ^ 52 ≤ x.1))).writeBack d (s.cwbLine k e.aw e.bw)
    let s := if bitOf (valWord e.c).toNat 0 then dirty.foldl (fun (s : State) x => s.evictLine d x.1) s else s
    s.updSysq k i e.id fun x => { x with sent := true, tags := (s.reqs.filter fun r => r.back && backDie r == d).map (·.id) }

/-- The SLOTCTL transactions that write one router record (R31, R394): 50 entries at most in each, and the tick. -/
def slotMsgs (tick : Nat) : Nat → List Byte → List (List Byte)
  | 0, _ => []
  | n + 1, bs => (bs.take 2000 ++ leBytes 8 tick) :: (if bs.length ≤ 2000 then [] else slotMsgs tick n (bs.drop 2000))
/-- The router records of a slot image (R233, R394): endpoint and entry bytes. -/
def slotRecords : Nat → List Byte → List (Ep × List Byte)
  | 0, _ => []
  | n + 1, bs =>
    let w := leNat (bs.take 8)
    (⟨bits w 7 0, bits w 11 8, 0⟩, (bs.drop 8).take (40 * bits w 20 12)) :: slotRecords n (bs.drop (8 + 40 * bits w 20 12))
/-- Bytes of the router records of an image: what lies at each record says how long it is. -/
def State.slotBytes (s : State) (k : Nat) : Nat → Nat → Eng (List Byte)
  | 0, _ => .ok []
  | n + 1, va => (s.engRead 16 k va 8).bind fun h =>
      let len := 40 * bits (leNat h) 20 12
      (s.engRead 16 k (va + 8) len).bind fun bs => (s.slotBytes k n (va + 8 + len)).bind fun r => .ok (h ++ bs ++ r)

/-- One SLOTCTL of a slotld entry. -/
def State.sendSlotctl (s : State) (k i : Nat) (e : QEntry) (dst : Ep) (subop : Nat) (bs : List Byte) : State :=
  let rid := s.nextId
  let x := { s with nextId := rid + 1 }.sendReq
    { ty := tySlotctl, priv := true, ptag := s.ptagOf k, src := s.epOf k, dst := dst, subop := subop, payload := bs }
  x.1.addReq { id := rid, core := k, ctx := i, unit := 16, op := 0x14, tag := x.2, stream := 0, key := some e.id,
               arg := BitVec.ofNat 64 (dst.die + 16 * dst.pkg) }

/-- slotld (R394): the entries are written; then, with ARM, the routers that accepted theirs are armed. A router that refuses keeps
its bank; b0 := the first status other than OK. `aux` holds the refusals with their routers, `tags` the routers named. -/
def State.sysSlotld (s : State) (k i : Nat) (e : QEntry) : State :=
  if !e.sent then
    s.sysTry k i e (s.engRead 16 k e.aw 24) fun h =>
      s.sysTry k i e (s.slotBytes k (leNat (h.take 8) % 65536) (e.aw + 24)) fun bs =>
        let tick := leNat ((h.drop 8).take 8)
        let rs := slotRecords (leNat (h.take 8) % 65536) bs
        let s := rs.foldl (fun s r => (slotMsgs tick 12 r.2).foldl (fun s m => s.sendSlotctl k i e r.1 1 m) s) s
        s.updSysq k i e.id fun x => { x with
          sent := true, prog := if bitOf (leNat (h.drop 16)) 0 then 1 else 0, e := natVal tick,
          tags := (rs.map fun r => r.1.die + 16 * r.1.pkg).eraseDups }
  else if s.sysBusy e.id then s
  else if e.prog = 1 then
    let ok := e.tags.filter fun r => !(e.aux.any fun x => x / 16 == r)
    (ok.foldl (fun s r => s.sendSlotctl k i e ⟨r / 16, r % 16, 0⟩ 2 (leBytes 8 e.e.toNat)) s).updSysq k i e.id fun x => { x with prog := 2 }
  else s.sysDone k i e (natVal (e.aux.headD 0 % 16))

/-- csw (R395): the entries written remember where they came from (R210). -/
def State.sysCsw (s : State) (k i : Nat) (e : QEntry) : State :=
  let first := e.bw % 1024
  let n := min ((valWord e.c).toNat % 2048) (1024 - first)
  s.sysTry k i e (s.engRead 16 k e.aw (16 * n)) fun bs =>
    let vs := (List.range n).map fun j => BitVec.ofNat 128 (leNat ((bs.drop (16 * j)).take 16))
    let s := s.updCore k fun c => { c with
      cstore := SMap.setRun 0 c.cstore first vs,
      cstoreSrc := (List.range n).foldl (fun (m : SMap Nat) j => SMap.put m (first + j) (e.aw + 16 * j)) c.cstoreSrc }
    s.sysDone k i e (natVal n)

/-- irq (R396): after the host-bound writes of its core. -/
def State.sysIrq (s : State) (k i : Nat) (e : QEntry) : State :=
  if !(s.core k).wcb.isEmpty then s.wcFlush k (s.ptagOf k)
  else if s.hostWrites k then s
  else
    let r := s.msix (s.irqPart k) (e.aw % 64)
    r.2.sysDone k i e (natVal r.1)

/-- dbg (R397): a halt completes when its context runs again. -/
def State.sysDbg (s : State) (k i : Nat) (e : QEntry) : State :=
  match e.aw % 16 with
  | 0 => (s.log (.debug k (bits e.aw 15 8) (valWord e.b))).sysDone k i e 0
  | 1 => if e.sent then s.sysDone k i e 0 else s
  | _ => s.sysDone k i e 1

/-- The entry at the head of a sys queue takes its next step. -/
def State.sysHead (s : State) (k i : Nat) (e : QEntry) : State :=
  match e.op with
  | 0x0B => s.sysLaunch k i e
  | 0x0C => s.sysLaunch k i e
  | 0x0F => s.sysHinst k i e
  | 0x10 => (s.dropTlb (s.ptagOf k) (extentOf e.aw e.bw) false).sysDone k i e 0
  | 0x11 =>
    let x := extentOf e.aw e.bw
    if s.handlerIn (s.ptagOf k) x then s.sysDone k i e 1
    else ((s.dropTlb (s.ptagOf k) x true).dropTlb (s.ptagOf k) x false).sysDone k i e 0
  | 0x12 => (s.updCore k fun c => { c with
      l1 := if bitOf e.aw 0 then {} else c.l1, icache := if bitOf e.aw 1 then {} else c.icache }).sysDone k i e 0
  | 0x13 => s.sysCwb k i e
  | 0x14 => s.sysSlotld k i e
  | 0x15 => s.sysCsw k i e
  | 0x16 => s.sysIrq k i e
  | 0x17 => s.sysDbg k i e
  | op =>
    let num := e.aw % 4096
    let part := e.aw / 4096
    let old := s.csrVal k i num part
    (s.csrWrite k i num part (csrNew op old (valWord e.b))).sysDone k i e (wordVal old)

/-- What the sys queue of a context does next. A core of a fenced partition does nothing (R87). -/
def State.sysStep (s : State) (k i : Nat) : State :=
  match (s.cx k i).sysq with
  | [] => s
  | e :: _ =>
    if (s.part (s.ptagOf k)).fenced then s
    else if s.reqs.any (fun r => r.unit == 16 && r.op == 1 && r.key == some e.id) then s
    else s.sysHead k i e

/-- SYS_ENTRY_COMPLETE (R382): the head of a context's sys queue takes its next step or completes. -/
def execSysEntryComplete (core ctx : Nat) (s : State) : Host.Outcome State Fault Refusal := .next (s.sysStep core ctx)

end Sys2Proof.Machine
end

