-- ==== Sys2Proof/Machine/Events.lean ====
section
/-! DEFINITION. The events of a context: late data, joins, walks, drains, timeouts, rendezvous, the watchdog, activations, monitored
waits (R125, R130-R135, R139, R148, R167, R192, R201, R353, R376). -/

namespace Sys2Proof.Machine

/-- The state with context `i` of core `k` acting. -/
def State.as (s : State) (k i : Nat) : State := { s with cur := k, curCx := i, bnd := {} }

/-! ### Late results (R133, R382) -/

/-- Bytes of a location on this package that a core reads at a scope's point of coherence without the fabric, HBM or a scratchpad, with
the state that reading them leaves (R163). -/
def State.nearBytes (s : State) (k scope key n : Nat) : Option (State × List Byte) :=
  if key < 2 ^ 52 then some (s.readPoc (dieOf k) scope key n)
  else if spBase ≤ key ∧ key < 2 ^ 61 then some (s, s.spRead ((key - spBase) / 2 ^ 20) ((key - spBase) % 2 ^ 20) n)
  else none

/-- Whether the data of a late result can arrive: its entry or requests are done. -/
def State.lateReady (s : State) (k i : Nat) (f : Flight) : Bool :=
  f.late && (if f.unit = 16 then !((s.cx k i).sysq.any fun e => e.id == f.tag.getD 0 / 2 ^ 20)
    else match f.tag with
      | some key => !s.waiting key
      | none => true)

/-- A late result with its data: a read of a register, or a load that may still read what its location holds now (R162). -/
def State.lateValue (s : State) (k i : Nat) (f : Flight) : Flight :=
  let v := if f.unit = 16 then s.lateSys k i f
    else match f.src with
      | some (key, n, sign) => match s.nearBytes k 1 key n with
        | some x => if s.choose 79 then extendLoad sign n (natVal (leNat x.2)) else f.val
        | none => f.val
      | none => f.val
  { f with val := v, late := false, src := none }

/-- Data that has come for a result issued before the context's open segment is there for the retry too (R203). -/
def State.noteArrived (s : State) (k i : Nat) (f : Flight) : State :=
  match SMap.find s.segs k with
  | some g => if g.ctx = i ∧ f.seq < g.entry.seq then { s with segs := SMap.put s.segs k { g with arrived := f :: g.arrived } } else s
  | none => s

/-- The data of a context's first late result that is ready arrives. One that is due is written as at the end of its cycle, and with none
due the VCC goes on (R133). -/
def State.lateArrive (s : State) (k i : Nat) : State :=
  let c := s.cx k i
  match c.flights.find? (s.lateReady k i) with
  | none => s
  | some f =>
    let g := s.lateValue k i f
    let s := s.noteArrived k i g
    if g.remain ≠ 0 then s.updCx k i fun c => { c with flights := c.flights.map fun (x : Flight) => if x.seq = f.seq then g else x }
    else
      let fs := c.flights.filter fun x => x.seq != f.seq
      let more := fs.any fun x => x.late && x.remain == 0
      (s.updCx k i fun c => { c with
        flights := fs, wrote := if more then g.marks ++ c.wrote else [], pause := if c.pause = .late ∧ !more then .none else c.pause }).landAll
        k i [g.kept c.wrote]

/-- LATE_RESULT_ARRIVAL (R133): data of a late fixed-latency access arrives. -/
def execLateResultArrival (core ctx : Nat) (s : State) : Host.Outcome State Fault Refusal := .next (s.lateArrive core ctx)

/-! ### Joins and other waits (R125, R133) -/

/-- Whether what a paused context waits for has come (R133). -/
def State.pauseOver (s : State) (k i : Nat) : Bool :=
  let c := s.core k
  let x := s.cx k i
  match x.pause with
  | .join key =>
    let js := s.joinsAt k i (key / 4) (key % 4)
    js.all (·.done) || js.any (fun r => r.fault.isSome) || (c.headFault (key / 4)).isSome
  | .full u =>
    if u = 0 then !s.stillWaits k i (.full 0)
    else if u = 16 then decide (x.sysq.length < 8)
    else if u = 11 then decide (c.mxq.length < 32)
    else if u = 12 then decide (c.atq.length < 16)
    else if u = 13 then decide (c.cpq.length < 64) else decide (c.gq.length < 8)
  | .cpyw id => x.cpyGot.isSome || !(c.cpq.any fun e => e.id == id) || (c.headFault 13).isSome
  | .snap va => !(s.ckpts.any fun q => q.ptag == s.ptagOf k && q.chunks.contains (va / 65536) && !q.copied.contains (va / 65536))
  | .sysEntry => !x.rqPending && !(c.cx0.sysq.any fun e => e.op == 0x15)
  | .peek t _ _ _ => match t with
    | .sp _ _ => true
    | .hbm _ _ => true
    | _ => false
  | p => !s.stillWaits k i p

/-- A LOAD that reads a location for a waiting operation of a context: OP says which (R371, R378). -/
def State.pollLoad (s : State) (k i op va key n stream : Nat) (id : Option Nat) (slot : Nat) : State :=
  let lg := if n ≤ 8 then 3 else if n ≤ 16 then 4 else if n ≤ 32 then 5 else 6
  let d : Ep × Nat :=
    if 2 ^ 62 ≤ key then (s.hostEp, key - 2 ^ 62) else if 2 ^ 61 ≤ key then (s.smcEp, key - 2 ^ 61) else s.homeOf key
  let rid := s.nextId
  let x := { s with nextId := rid + 1 }.sendReq { s.txn k tyLoad stream d with subop := lg }
  x.1.addReq { id := rid, core := k, ctx := i, unit := 15, op := op, tag := x.2, stream := stream, key := id, addr := d.2, va := va,
               loc := key, size := 2 ^ lg, off := slot }

/-- Whether a context has a read of that kind out. -/
def State.polling (s : State) (k i op : Nat) : Bool := s.reqs.any fun r => r.core == k && r.ctx == i && r.unit == 15 && r.op == op

/-- A barx that has arrived looks at its barrier: at once where it is near, else by a LOAD (R378). -/
def State.barxPoll (s : State) (r : Req) : State :=
  match s.nearBytes r.core (r.acq.getD 0) r.loc 16 with
  | some x => x.1.barxLook r x.2
  | none => if s.polling r.core r.ctx 0x41 then s else s.pollLoad r.core r.ctx 0x41 r.va r.loc 16 r.stream (some r.id) 0

/-- The barriers that a context's barx operations wait for are looked at. -/
def State.barxPolls (s : State) (k i : Nat) : State :=
  (s.reqs.filter fun r => r.core == k && r.ctx == i && r.unit == 15 && r.op == 0x11 && r.size == 0).foldl State.barxPoll s

/-- What a context's join or wait does next. -/
def State.joinStep (s : State) (k i : Nat) : State :=
  if s.pauseOver k i then s.updCx k i fun c => { c with pause := .none }
  else match (s.cx k i).pause with
    | .ending => s.endStep k i
    | .flush key n =>
      let bs := s.remoteIn (dieOf k) key n
      if bs.isEmpty then s.barxPolls k i else s.remoteBack (dieOf k) bs
    | .peek t n slot va => if s.polling k i 0x40 then s.barxPolls k i else s.pollLoad k i 0x40 va (tgtKey t) n 0 none slot
    | _ => s.barxPolls k i

/-- JOIN_RESULT_READY (R125, R133): what a join or another wait of a context needs has come, or is looked for. -/
def execJoinResultReady (core ctx : Nat) (s : State) : Host.Outcome State Fault Refusal := .next (s.joinStep core ctx)

/-- The walk that a context waits for ends: its translation is loaded, or its page is noted as failed (R148). -/
def State.walkDone (s : State) (k i : Nat) : State :=
  match (s.cx k i).pause with
  | .xlate va _ _ =>
    let p := s.ptagOf k
    match s.walk p va with
    | .ok (lvl, _, leaf) => (s.tlbLoad k p va leaf (pageSize lvl) false).updCx k i fun c => { c with pause := .none }
    | .error _ => s.updCx k i fun c => { c with pause := .none, xok := va / 65536 :: c.xok }
  | _ => s

/-- TRANSLATION_COMPLETE (R148): a page walk that a context waits for ends, in a translation or a fault. -/
def execTranslationComplete (core ctx : Nat) (s : State) : Host.Outcome State Fault Refusal := .next (s.walkDone core ctx)

/-- What a drain or release still has to do (R155, R167, R176). -/
def State.drainStep (s : State) (k i : Nat) : State :=
  match (s.cx k i).pause with
  | .drain scope mask => if s.unsettled k i scope mask then s.pushOut k scope else s.updCx k i fun c => { c with pause := .none }
  | _ => s

/-- DRAIN_COMPLETE (R167): every covered access has performed, and the drain ends; first its write-backs leave. -/
def execDrainComplete (core ctx : Nat) (s : State) : Host.Outcome State Fault Refusal := .next (s.drainStep core ctx)

/-- The random buffer of a waiting context fills by one (R139). -/
def State.rndFill (s : State) (k i : Nat) : State :=
  match (s.cx k i).pause with
  | .rnd need => s.updCx k i fun c =>
    let n := min 4 (c.rqbuf + 1)
    { c with rqbuf := n, pause := if min need 4 ≤ n then .none else c.pause }
  | _ => s
/-- RANDOM_VECTOR_AVAILABLE (R139): hardware supplies a vector to a context that waits for one. -/
def execRandomVectorAvailable (core ctx : Nat) (s : State) : Host.Outcome State Fault Refusal := .next (s.rndFill core ctx)

/-! ### Bounds (R192, R201, R353) -/

/-- A trap of a context that waits or is about to issue. -/
def State.trapCx (s : State) (k i : Nat) (t : TrapInfo) : State :=
  ((s.as k i).updMe fun c => { c with pause := .none, hold := none }).trapNow t

/-- HOLDING_WAIT_TIMEOUT (R353): the limit of a holding wait has passed; QTIMEOUT is raised. -/
def execHoldingWaitTimeout (core ctx : Nat) (s : State) : Host.Outcome State Fault Refusal :=
  .next (match (s.cx core ctx).pause with
    | .limit t => s.trapCx core ctx t
    | _ => s)

/-- WATCHDOG_EXPIRE (R192): the watchdog count has reached WDLIM. -/
def execWatchdogExpire (core ctx : Nat) (s : State) : Host.Outcome State Fault Refusal :=
  .next (let c := s.cx core ctx
    if c.run = .running ∧ c.pause = .none ∧ s.wdDue core ctx then
      s.trapCx core ctx { cause := 0x0C, d := [BitVec.ofNat 64 c.wd, BitVec.ofNat 64 (s.part (s.ptagOf core)).wdlim] }
    else s)

/-- SEGMENT_BUNDLE_LIMIT (R201): the 513th bundle of a segment commits it and opens another. -/
def execSegmentBundleLimit (core : Nat) (s : State) : Host.Outcome State Fault Refusal :=
  .next (match SMap.find s.segs core with
    | some g => if 512 ≤ g.bundles then ((s.commitSeg core g.ctx).as core g.ctx).openSeg else s
    | none => s)

/-- Every member of a group waits at its rendezvous (R135). -/
def State.rdvReady (s : State) (k : Nat) : Bool :=
  let ms := s.gangCores k
  ms.contains k && (s.core k).point.isSome && ms.all fun q => (s.cx q 0).pause == .rdv && (s.cx q 0).run == .running

/-- RENDEZVOUS_COMPLETE (R135): the members issue their bundles together, at the largest of their counts. -/
def execRendezvousComplete (core : Nat) (s : State) : Host.Outcome State Fault Refusal :=
  .next (if s.rdvReady core then
      let ms := s.gangCores core
      let v := (ms.map fun q => (s.cx q 0).vcc).foldl max 0
      ms.foldl (fun s q => s.updCx q 0 fun c => { c with vcc := v, pause := .none, rdvPass := true, desync := false }) s
    else s)

/-- EMPTY_BUNDLE (R258): the bundle of four empty slots advances the PC by one bundle and does nothing else. -/
def execEmptyBundle (s : State) : Host.Outcome State Fault Refusal := .next (if s.bnd.live then s.finishBundle else s)

/-! ### Activations (R130, R131) -/

/-- Context 0 lets an activation start: it is idle or stands at a suspension point, and no freeze is in progress (R130, R131). -/
def State.actMayStart (s : State) (k : Nat) : Bool :=
  let c := s.core k
  s.actEligible k && c.restore.isNone && !(s.part (s.ptagOf k)).fenced
  && (c.cx0.run == .idle || (c.cx0.run == .running && (c.cx0.pause == .handlers || c.cx0.pause == .suspending)))

/-- The next activation in queue order starts in its context (R130 step 4). -/
def State.startActivation (s : State) (k : Nat) (a : Activation) : State :=
  let c := s.core k
  let i := if a.hint = 0 then (if c.cx1.run = .idle then 1 else 2) else a.hint
  let src := a.txn.src
  let s := s.updCore k fun c => { c with acts := c.acts.map fun (x : Activation) => if x = a then { x with running := some i } else x }
  s.setCx k i { run := .running, pc := a.handler.toNat / 16, rqkey := (s.part (s.ptagOf k)).rngseed,
                rqpos := BitVec.ofNat 64 ((4 + i) * 2 ^ 56), sysq := (s.cx k i).sysq,
                arg := SMap.set 0 (SMap.set 0 (SMap.set 0 [] 0 a.addr) 1 (BitVec.ofNat 64 a.len)) 2
                  (BitVec.ofNat 64 (src.pkg * 2 ^ 16 + src.die * 2 ^ 8 + src.ep)) }

/-- HANDLER_ACTIVATION_START (R130): the next queued activation starts. -/
def execHandlerActivationStart (core : Nat) (s : State) : Host.Outcome State Fault Refusal :=
  .next (if s.actMayStart core then
      match (s.core core).acts.find? fun a => a.running.isNone with
      | some a => s.startActivation core a
      | none => s
    else s)

/-! ### Monitored waits (R376) -/

/-- The monitored wait of a context. -/
def State.monitorOf (s : State) (k i : Nat) : Option Monitor := (s.die (dieOf k)).monitors.find? fun m => m.core == k && m.ctx == i

/-- The scope of the acquire that ends a wait: after a host write it is system scope (R177). -/
def Monitor.acq (m : Monitor) : Nat := if m.host then 5 else m.scope
/-- A monitored wait ends: b0 := the word, b1 := the reason. -/
def State.mwaitEnd (s : State) (m : Monitor) (w reason : Nat) : State :=
  let s := s.updDie (dieOf m.core) fun d => { d with monitors := d.monitors.filter fun (x : Monitor) => x.id != m.id }
  let s := { s with reqs := s.reqs.filter fun (r : Req) => !(r.id == m.id || (r.unit == 15 && r.key == some m.id && r.op == 0x42)) }
  (s.acquired m.core m.acq).quDeliver m.core m.ctx m.id (natVal w) (natVal reason)

/-- Whether the word of a wait is near its core. -/
def Monitor.near (m : Monitor) : Bool := match m.tgt with
  | .sp _ _ => true
  | .hbm _ _ => true
  | _ => false
/-- A wait ends with the word near its core; poison is held for the join (R211). -/
def State.mwaitNow (s : State) (m : Monitor) (reason : Nat) : State :=
  let key := tgtKey m.tgt
  let bad := match m.tgt with
    | .sp q off => poisoned (s.core q).spPoison off 8
    | .hbm pa _ => poisoned s.hbmPoison pa 8
    | _ => false
  match s.nearBytes m.core m.acq key 8 with
  | some x =>
    let s := x.1.mwaitEnd m (leNat x.2) reason
    if bad then s.deliver m.core m.ctx 15 0 m.id 0 (some (poisonTrap key)) else s
  | none => s

/-- MWAIT_WAKE (R376): another agent has written the line. -/
def execMwaitWake (core ctx : Nat) (s : State) : Host.Outcome State Fault Refusal :=
  .next (match s.monitorOf core ctx with
    | some m => if m.woken then s.mwaitNow m 0 else s
    | none => s)

/-- The limit of a wait has passed. -/
def State.mwaitLate (s : State) (m : Monitor) : Bool := match m.limit with
  | some l => decide (l ≤ s.pkg.ticks)
  | none => false

/-- A LOAD for the word of a wait on memory that is not near: `reason` goes with it. -/
def State.mwaitLoad (s : State) (m : Monitor) (reason : Nat) : State :=
  if s.polling m.core m.ctx 0x42 then s
  else s.pollLoad m.core m.ctx 0x42 0 (tgtKey m.tgt) 8 0 (some m.id) reason

/-- MWAIT_TIMEOUT (R376): the tick limit of a wait has passed. -/
def execMwaitTimeout (core ctx : Nat) (s : State) : Host.Outcome State Fault Refusal :=
  .next (match s.monitorOf core ctx with
    | some m =>
      if !s.mwaitLate m then s
      else if m.near then s.mwaitNow m 2 else s.mwaitLoad m 2
    | none => s)

/-- MWAIT_POLL (R376): a wait without a monitor reads its word; it may complete after any poll. -/
def execMwaitPoll (core ctx : Nat) (s : State) : Host.Outcome State Fault Refusal :=
  .next (match s.monitorOf core ctx with
    | some m =>
      if !m.polling then s
      else if m.near then (if s.choose 78 then s.mwaitNow m 3 else s) else s.mwaitLoad m 3
    | none => s)

end Sys2Proof.Machine
end

