-- ==== Sys2Proof/Machine/Attn.lean ====
section
/-! DEFINITION. The arithmetic of attention striped by position: the position-map table (R51-R53), the partial record (R62),
a stripe's partial (R64), the merge (R67), the tree (R68, R69) and the final step (R71). -/

namespace Sys2Proof.Machine

/-! ### The position-map table -/

/-- The size of an image (R51). -/
def pmtSize : Nat := 8768
/-- `n` bytes at an offset of an image, as a number. -/
def imgNat (img : List Byte) (off n : Nat) : Nat := leNat ((img.drop off).take n)
/-- Header fields (R51 Table 1). -/
def pmtGen (img : List Byte) : Nat := imgNat img 0 4
def pmtN (img : List Byte) : Nat := bits (imgNat img 0 8) 40 32
def pmtD (img : List Byte) : Nat := bits (imgNat img 0 8) 49 41
def pmtKvfmt (img : List Byte) : Nat := bits (imgNat img 0 8) 52 50
def pmtCoord (img : List Byte) : Nat := imgNat img 8 1
def pmtDeputy (img : List Byte) : Nat := imgNat img 9 1
def pmtPtag (img : List Byte) : Nat := bits (imgNat img 8 8) 19 16
def pmtNlslot (img : List Byte) : Nat := bits (imgNat img 8 8) 47 32
def pmtMiss (img : List Byte) : Nat := bits (imgNat img 16 8) 56 0
def pmtSeqid (img : List Byte) : Nat := imgNat img 24 4

/-- A stripe entry (R51 Table 2). -/
structure Stripe where
  first : Nat
  last : Nat
  base : Nat
  hslot : Nat
  bslot : Nat
  hpkg : Nat
  hmd : Nat
  bpkg : Nat
  bmd : Nat
  bstate : Nat
  lost : Bool
  deriving DecidableEq, Repr

def pmtStripe (img : List Byte) (i : Nat) : Stripe :=
  let w := fun n => imgNat img (576 + 32 * i + 8 * n) 8
  { first := bits (w 0) 31 0, last := bits (w 0) 63 32, base := bits (w 1) 31 0, hslot := bits (w 1) 47 32,
    bslot := bits (w 1) 63 48, hpkg := bits (w 2) 7 0, hmd := bits (w 2) 10 8, bpkg := bits (w 2) 23 16,
    bmd := bits (w 2) 26 24, bstate := bits (w 2) 28 27, lost := bitOf (w 2) 31 }
def pmtStripes (img : List Byte) : List Stripe := (List.range (pmtN img)).map (pmtStripe img)
/-- The merge unit of node `n` (R51 Table 3), as an endpoint. -/
def pmtNode (img : List Byte) (n : Nat) : Ep :=
  let e := imgNat img (64 + 2 * n) 2
  ⟨bits e 7 0, 12 + bits e 8 8, bits e 13 9⟩

/-- Consecutive stripes meet (R52). -/
def stripesMeet : List Stripe → Bool
  | a :: b :: t => a.last == b.first && stripesMeet (b :: t)
  | _ => true
/-- An image keeps R51 and R52 and holds no reserved code. -/
def pmtOk (img : List Byte) : Bool :=
  img.length == pmtSize
  && decide (1 ≤ pmtN img) && decide (pmtN img ≤ 256) && decide (1 ≤ pmtD img) && decide (pmtD img ≤ 256)
  && decide (pmtKvfmt img ≤ 3) && decide (1 ≤ pmtNlslot img)
  && (pmtStripes img).all (fun x => decide (x.first < x.last) && decide (x.last ≤ 16777216) && decide (x.bstate ≠ 3)
      && !(x.hpkg == x.bpkg && x.hmd == x.bmd))
  && stripesMeet (pmtStripes img)

/-- Whether generation a is older than b (R53). -/
def genOlder (a b : Nat) : Bool :=
  let d := (b + 2 ^ 32 - a % 2 ^ 32) % 2 ^ 32
  decide (1 ≤ d) && decide (d < 2 ^ 31)

/-- Bytes of an element of a KVFMT, its format, and the bytes of a key or value (R51, R60). -/
def kvBytes (kv : Nat) : Nat := if kv < 2 then 2 else 1
def kvFmt (kv : Nat) : Fmt := match kv with | 0 => .bf16 | 1 => .fp16 | 2 => .e4m3 | _ => .e5m2
def kvPad (kv d : Nat) : Nat := (d * kvBytes kv + 15) / 16 * 16

/-! ### Records -/

/-- A partial record (R62). `e` is meaningless when it is empty or INVAL. -/
structure PRec where
  e : Int
  d : Nat
  empty : Bool := false
  side : Bool := false
  approx : Bool := false
  inval : Bool := false
  stale : Bool := false
  l : Nat := 0
  o : List Nat := []
  deriving DecidableEq, Repr

def PRec.mkEmpty (d : Nat) (approx : Bool) : PRec :=
  { e := 0, d := d, empty := true, approx := approx, o := List.replicate d 0 }
def PRec.mkInval (d : Nat) (approx : Bool) : PRec :=
  { e := 0, d := d, inval := true, approx := approx, l := 0x7FC00000, o := List.replicate d 0x7FC00000 }
def bit1 (b : Bool) : Nat := if b then 1 else 0
/-- FLAGS (R62 Table 7). -/
def PRec.flags (r : PRec) : Nat :=
  r.d % 512 + 2 ^ 9 * bit1 r.side + 2 ^ 10 * bit1 r.approx + 2 ^ 11 * bit1 r.inval + 2 ^ 12 * bit1 r.stale
/-- Zero bytes up to a whole number of 16-byte units. -/
def padTo16 (bs : List Byte) : List Byte := bs ++ List.replicate ((16 - bs.length % 16) % 16) 0
def PRec.bytes (r : PRec) : List Byte :=
  padTo16 (leBytes 4 (if r.empty then 0x80000000 else ofSint 32 r.e) ++ leBytes 4 r.flags ++ leBytes 4 r.l
    ++ r.o.flatMap (leBytes 4))
/-- The size of a record with head dimension d. -/
def recSize (d : Nat) : Nat := (12 + 4 * d + 15) / 16 * 16
def PRec.ofBytes (bs : List Byte) : PRec :=
  let f := imgNat bs 4 4
  let d := f % 512
  { e := sint 32 (imgNat bs 0 4), empty := imgNat bs 0 4 == 0x80000000, d := d, side := bitOf f 9, approx := bitOf f 10,
    inval := bitOf f 11, stale := bitOf f 12, l := imgNat bs 8 4,
    o := (List.range d).map fun c => imgNat bs (12 + 4 * c) 4 }

/-! ### A stripe's partial -/

/-- A valid position: its 32-position tile, its key and value codes, and whether a poisoned unit holds one of their elements. -/
structure Pos where
  tile : Nat
  key : List Nat
  val : List Nat
  keyBad : Bool := false
  valBad : Bool := false
  deriving DecidableEq, Repr

/-- A position from its record's 1,024 bytes. -/
def posOf (tile kv d : Nat) (bs : List Byte) (keyBad valBad : Bool) : Pos :=
  let w := kvBytes kv
  { tile := tile, keyBad := keyBad, valBad := valBad,
    key := (List.range d).map fun c => imgNat bs (w * c) w,
    val := (List.range d).map fun c => imgNat bs (512 + w * c) w }

/-- The products of the dimensions from 32g on, summed group by group (R64). -/
def dotGroups (q k : List XR) : Nat → Nat → Nat → Nat
  | 0, _, acc => acc
  | n + 1, g, acc =>
    let terms := List.zipWith XR.mul ((q.drop (32 * g)).take 32) ((k.drop (32 * g)).take 32)
    dotGroups q k n (g + 1) (toF32 ((f32 acc).add (exactSum terms)))
/-- t_i (R64). -/
def score (q : List XR) (scale : XR) (d : Nat) (k : List XR) : XR :=
  f32 (toF32 ((f32 (dotGroups q k ((d + 31) / 32) 0 0)).mul scale))

/-- The ceiling of a finite value. -/
def XR.ceil (x : XR) : Int :=
  match x with
  | .fin neg m e =>
    let n : Int := if neg then -(m : Int) else m
    if 0 ≤ e then n * (2 ^ e.toNat : Nat) else -(-n / (2 ^ (-e).toNat : Nat))
  | _ => 0
def isFin : XR → Bool
  | .fin _ _ _ => true
  | _ => false
/-- |x| >= 2^30. -/
def bigScore (x : XR) : Bool :=
  match x with
  | .fin _ m e => m != 0 && geTwo m e 30
  | _ => true

/-- One tile of the sums: l and o[] with the weights and values of its positions in C (R64). -/
def addTile (l : Nat) (o : List Nat) (ps : List (XR × List XR)) : Nat × List Nat :=
  (toF32 ((f32 l).add (exactSum (ps.map (·.1)))),
   o.zipIdx.map fun x => toF32 ((f32 x.1).add (exactSum (ps.map fun p => p.1.mul (p.2.getD x.2 (.fin false 0 0))))))
/-- Tiles in position order; positions of one tile are adjacent. -/
def addTiles : List (Nat × XR × List XR) → Nat → List (XR × List XR) → Nat → List Nat → Nat × List Nat
  | [], _, cur, l, o => if cur.isEmpty then (l, o) else addTile l o cur
  | (t, p) :: r, tile, cur, l, o =>
    if t = tile ∨ cur.isEmpty then addTiles r t (cur ++ [p]) l o
    else
      let lo := addTile l o cur
      addTiles r t [p] lo.1 lo.2

/-- The positions that are not masked by a score of minus infinity, with their scores (R64: C). -/
def scored (q : List Nat) (qscale d kv : Nat) (ps : List Pos) : List (Pos × XR) :=
  (ps.map fun p => (p, score ((List.range d).map fun c => Fmt.bf16.decode (q.getD c 0)) (f32 qscale) d (p.key.map (kvFmt kv).decode))).filter
    fun x => x.2 != .inf true
/-- A poisoned read that makes the partial INVAL: a key, or a value of a position of C (R64). -/
def poisonHit (ps : List Pos) (c : List (Pos × XR)) : Bool := ps.any (·.keyBad) || c.any (·.1.valBad)
/-- The partial of the valid positions (R64). -/
def computePartial (q : List Nat) (qscale d kv : Nat) (ps : List Pos) (approx : Bool) : PRec :=
  let dec := fun (l : List Nat) => l.map (kvFmt kv).decode
  let c := scored q qscale d kv ps
  if poisonHit ps c || c.any (fun x => bigScore x.2)
      || c.any (fun x => (dec x.1.val).any fun v => !isFin v) then
    PRec.mkInval d approx
  else match c with
    | [] => PRec.mkEmpty d approx
    | a :: r =>
      let e := r.foldl (fun m x => max m x.2.ceil) a.2.ceil
      let lo := addTiles (c.map fun x => (x.1.tile, f32 (crVal .exp2 (x.2.add (.ofInt (-e)))), dec x.1.val)) 0 [] 0
        (List.replicate d 0)
      { e := e, d := d, approx := approx, l := lo.1, o := lo.2 }

/-! ### The merge and the final step -/

/-- x * 2^k, cut where every finite FP32 value has left the format: the sum of R67 rounds the same. -/
def cutScale (x : Nat) (k : Int) : XR := (f32 x).scale (max (-1000) k)
/-- r of two values of one kind with exponents (R67). -/
def mergeTerm (e : Int) (a b : PRec) (x y : Nat) : Nat := toF32 ((cutScale x (a.e - e)).add (cutScale y (b.e - e)))
/-- The merge of a (left) and b (right) (R67). -/
def mergeRec (a b : PRec) : PRec :=
  let ap := a.approx || b.approx
  if a.d ≠ b.d ∨ a.inval ∨ b.inval then PRec.mkInval a.d ap
  else if a.empty then { b with approx := ap, side := false }
  else if b.empty then { a with approx := ap, side := false }
  else
    let e := max a.e b.e
    { e := e, d := a.d, approx := ap, l := mergeTerm e a b a.l b.l, o := List.zipWith (mergeTerm e a b) a.o b.o }

/-- The final step (R71 Table 9): the output, none where the destination stays, and the row status with APPROX in bit 3. -/
def finalStep (r : PRec) : Option (List Nat) × Nat :=
  let ap := 8 * bit1 r.approx
  if r.inval then (some (List.replicate r.d 0x7FC00000), 2 + ap)
  else if r.stale then (none, 3 + ap)
  else if r.empty then (some (List.replicate r.d 0), 1 + ap)
  else (some (r.o.map fun x => toF32 ((f32 x).div (f32 r.l))), ap)

/-! ### The tree -/

/-- An element of the tree: a stripe or a node. -/
inductive Elem where
  | stripe (i : Nat)
  | node (n : Nat)
  deriving DecidableEq, Repr

/-- Pair the elements of a level from node index `n` on (R68): the next level, and (element, parent, side) for each. -/
def pairLevel : List Elem → Nat → List Elem × List (Elem × Nat × Bool) × Nat
  | a :: b :: t, n =>
    let r := pairLevel t (n + 1)
    (.node n :: r.1, (a, n, false) :: (b, n, true) :: r.2.1, r.2.2)
  | l, n => (l, [], n)
/-- Levels until one element is left: the root and every element's parent. -/
def treeFrom : Nat → List Elem → Nat → Elem × List (Elem × Nat × Bool)
  | 0, l, _ => (l.headD (.stripe 0), [])
  | f + 1, l, n =>
    match l with
    | [x] => (x, [])
    | _ =>
      let p := pairLevel l n
      let r := treeFrom f p.1 p.2.2
      (r.1, p.2.1 ++ r.2)
/-- The tree of N stripes: at most nine levels. -/
def pmtTree (n : Nat) : Elem × List (Elem × Nat × Bool) := treeFrom 9 ((List.range n).map .stripe) 0

/-- Nodes that count as already arrived because both their children do (R69), in node order. -/
def deadNodes (parents : List (Elem × Nat × Bool)) (lost : List Elem) : Nat → Nat → List Elem
  | 0, _ => lost
  | f + 1, n =>
    let kids := (parents.filter fun p => p.2.1 == n).map (·.1)
    deadNodes parents (if !kids.isEmpty && kids.all lost.contains then lost ++ [.node n] else lost) f (n + 1)
/-- The elements of an image's tree that count as already arrived (R69). -/
def pmtDead (img : List Byte) : List Elem :=
  let lost := ((pmtStripes img).zipIdx.filter fun x => x.1.lost).map fun x => Elem.stripe x.2
  deadNodes (pmtTree (pmtN img)).2 lost (pmtN img - 1) 0

/-! ### Replicas -/

/-- The replica key of a SEQID at a cache die or merge unit (R54): a cache die keeps one for its four units. -/
def pmtKey (e : Ep) (seqid : Nat) : Nat := (e.die * 64 + (if e.die < 12 then 0 else e.ep)) * 2 ^ 32 + seqid

/-- The endpoint that an attention request for a cache die names: one of its NMA units, the spec does not say which
(R60; log 9). -/
def nmaEp (pkg md : Nat) : Ep := ⟨pkg, 4 + md, (Config.freeWord 77).toNat % 4⟩
/-- The coordinator's and the deputy's replicas lie at merge unit 0 of XD0 (R349). -/
def coordEp (pkg : Nat) : Ep := ⟨pkg, 12, 0⟩

/-- Without repeats, first occurrences kept. -/
def distinct {α : Type} [BEq α] (l : List α) : List α := l.foldl (fun r x => if r.contains x then r else r ++ [x]) []

/-- The replicas that an image names (R349): holders, buddies, merge units, coordinator and deputy. -/
def pmtReplicas (img : List Byte) : List Ep :=
  (pmtStripes img).flatMap (fun x => nmaEp x.hpkg x.hmd :: (if x.bstate ≠ 0 then [nmaEp x.bpkg x.bmd] else []))
  ++ (List.range (pmtN img - 1)).map (pmtNode img) ++ [coordEp (pmtCoord img), coordEp (pmtDeputy img)]

/-- The reply triple of a query as 20 bits (R60, R63). -/
def replyBits (e : Ep) : Nat := e.pkg % 256 + e.die % 16 * 2 ^ 8 + e.ep % 256 * 2 ^ 12
def replyEp (x : Nat) : Ep := ⟨bits x 7 0, bits x 11 8, bits x 19 12⟩

end Sys2Proof.Machine
end

