-- ==== Sys2Proof/Machine/Att.lean ====
section
/-! DEFINITION. The attention interface of a core (R344-R350): its triggers enter the attention queue, whose entries perform in
order; a qmc that has sent its queries lets a later qmc start (R347). -/

namespace Sys2Proof.Machine

/-! ### Entries -/

/-- Word `n` of the attention descriptor that an entry holds once it has read it (R344 Table 6). -/
def QEntry.adw (e : QEntry) (n : Nat) : Nat := bits e.d.toNat (64 * n + 63) (64 * n)
def QEntry.adVa (e : QEntry) (n : Nat) : Nat := bits (e.adw n) 56 0
def QEntry.isAd (e : QEntry) : Bool := e.op ≠ 6 && e.op ≠ 7
/-- ASTAT (R345). -/
def astat (code gen top : Nat) : Nat := code % 16 + gen % 2 ^ 32 * 2 ^ 16 + top % 2 ^ 16 * 2 ^ 48

def State.updAtq (s : State) (k id : Nat) (f : QEntry → QEntry) : State :=
  s.updCore k fun c => { c with atq := c.atq.map fun e => if e.id = id then f e else e }

/-- The entry holds a fault (R332). -/
def State.attFault (s : State) (k id : Nat) (t : TrapInfo) : State := s.updAtq k id fun e => { e with fault := some t }

/-- Go on with what an access gives, fetch what is missing, wait, or hold the fault. -/
def State.attTry {α : Type} (s : State) (k : Nat) (e : QEntry) (x : Eng α) (f : α → State) : State :=
  match x with
  | .ok a => f a
  | .hold => s
  | .need t va n => s.engFetch k 12 e.id 12 t va n
  | .bad t => s.attFault k e.id t

/-- An entry ends (R345): its result is there for the join. -/
def State.attPop (s : State) (k : Nat) (e : QEntry) (v : Nat) : State :=
  (s.updCore k fun c => { c.clearBuf 12 with atq := c.atq.filter (·.id != e.id) }).deliver k e.ctx 12 0 e.id (natVal v)

/-- Write several ranges: all are translated first, then written in order. -/
def State.attTgts (s : State) (k : Nat) : List (Nat × List Byte) → Eng (List (List (Nat × Nat × Tgt) × List Byte))
  | [] => .ok []
  | (va, bs) :: r => (s.engTgts k va bs.length accStore).bind fun ts => (s.attTgts k r).bind fun l => .ok ((ts, bs) :: l)
def State.attPut (k id : Nat) : List (List (Nat × Nat × Tgt) × List Byte) → State → Eng State
  | [], s => .ok s
  | (ts, bs) :: r, s => (State.engPut k 12 id 12 ts bs s).bind fun s => State.attPut k id r s
def State.attWrites (s : State) (k id : Nat) (ws : List (Nat × List Byte)) : Eng State :=
  (s.attTgts k ws).bind fun l => State.attPut k id l s

/-- The end of an entry: its outputs, and ASTAT in AD word 7; then it holds STALEGEN, or it is done once what it wrote has
performed. -/
def State.attFinish (s : State) (k : Nat) (e : QEntry) (outs : List (Nat × List Byte)) (v : Nat) (stale : Option TrapInfo) :
    State :=
  let ws := outs.filter (fun w => !w.2.isEmpty) ++ (if e.isAd then [((e.a.toNat + 56) % 2 ^ 64, leBytes 8 v)] else [])
  s.attTry k e (s.attWrites k e.id ws) fun s =>
    match stale with
    | some t => s.attFault k e.id t
    | none => if s.entryBusy e.id then s.updAtq k e.id fun e => { e with bound := some v } else s.attPop k e v

/-- STALEGEN, held where TRAPSG is set (R347): the generation held, and the one sent. -/
def QEntry.staleTrap (e : QEntry) (held sent : Nat) : Option TrapInfo :=
  if bitOf (e.adw 2) 44 then
    some { cause := 0x0F, d := [BitVec.ofNat 64 (e.adw 0 % 2 ^ 32), BitVec.ofNat 64 held, BitVec.ofNat 64 sent] }
  else none

/-- Send an ATTREQ for an entry: `idx` says which of its requests it is. -/
def State.attSend (s : State) (k : Nat) (e : QEntry) (op stream : Nat) (dst : Ep) (subop gen addr : Nat) (payload : List Byte)
    (idx : Nat) (tag : Option Nat) : State :=
  let rid := s.nextId
  let s := { s with nextId := rid + 1 }
  let t : Txn :=
    { ty := tyAttreq, priv := s.privileged k, stream := stream, ptag := s.ptagOf k, src := s.epOf k, dst := dst, subop := subop,
      addr := addr, gen := gen, payload := payload }
  let r := match tag with
    | some x => s.sendTagged t x
    | none => s.sendReq t
  r.1.addReq { id := rid, core := k, ctx := e.ctx, launch := s.launchOf k e.ctx, unit := 12, op := op, tag := r.2,
               stream := stream, key := some e.id, addr := addr, arg := BitVec.ofNat 64 idx }

/-- Requests of an entry that are not answered. -/
def State.attWaits (s : State) (id : Nat) : Bool := s.reqs.any fun r => r.unit == 12 && r.key == some id
/-- Of those, memory accesses. -/
def State.attBusy (s : State) (id : Nat) : Bool := s.reqs.any fun r => r.unit == 12 && r.key == some id && decide (r.op ≤ 2)

/-- An answer to an ATTREQ as the entry keeps it: which request, its status and GEN. -/
def ansWord (idx status gen : Nat) : Nat := idx * 2 ^ 40 + status * 2 ^ 32 + gen % 2 ^ 32
def ansIdx (x : Nat) : Nat := x / 2 ^ 40
def ansStatus (x : Nat) : Nat := bits x 39 32
def ansGen (x : Nat) : Nat := x % 2 ^ 32
/-- The answers of an entry in send order. -/
def QEntry.answers (e : QEntry) (n : Nat) : List Nat := (List.range n).filterMap fun i => e.aux.find? fun x => ansIdx x == i

/-! ### The operations -/

/-- A start that has sent its requests: what it keeps, and how many there are. -/
def State.attSent (s : State) (k id gen n : Nat) : State :=
  s.updAtq k id fun e => { e with sent := true, e := natVal gen, prog := n }

/-- The head fields of ATTREQ payloads (R60 Table 5): SEQID, LSLOT, two bytes, a word. -/
def QEntry.reqHead (e : QEntry) (b6 w8 : Nat) : List Byte :=
  leBytes 4 (e.adw 0) ++ leBytes 2 (e.adw 0 / 2 ^ 32) ++ leBytes 2 b6 ++ leBytes 4 w8

/-- The QUERY payload of a qmc of core `k` with the q vector of D elements. -/
def State.queryPayload (s : State) (k : Nat) (e : QEntry) (q : List Byte) : List Byte :=
  e.reqHead (e.adw 0 / 2 ^ 48) (e.adw 1) ++ leBytes 4 (e.adw 1 / 2 ^ 32) ++ leBytes 4 (e.adw 2) ++ leBytes 4 (replyBits (s.epOf k))
    ++ leBytes 8 0 ++ padTo16 q

/-- qmc starts (R347 steps 1 to 3). -/
def State.qmcStart (s : State) (k : Nat) (e : QEntry) : State :=
  s.attTry k e (s.engRead 12 k (e.adVa 3) pmtSize) fun img =>
    if !pmtOk img then s.attFinish k e [] (astat 2 0 0) none
    else s.attTry k e (s.engRead 12 k (e.adVa 4) (2 * pmtD img)) fun q =>
      let c := s.core k
      let tag := c.tagCount.toNat
      let gen := pmtGen img
      let root := (pmtTree (pmtN img)).1
      let dead := (pmtDead img).contains root
      let qtmo := bits (e.adw 0) 63 48
      let at_ : AttTag :=
        { tag := tag, gen := gen, entry := e.id, limit := s.pkg.ticks + (if qtmo = 0 then 4096 else qtmo), done := dead,
          record := if dead then (PRec.mkEmpty (pmtD img) true).bytes else [] }
      let s := s.updCore k fun c => { c with tagCount := c.tagCount + 1, tags := c.tags ++ [at_] }
      let holders := distinct (((pmtStripes img).filter fun x => !x.lost).map fun x => nmaEp x.hpkg x.hmd)
      let s := holders.zipIdx.foldl
        (fun s h => s.attSend k e 3 12 h.1 1 gen 0 (s.queryPayload k e q) h.2 (some tag)) s
      s.attSent k e.id gen holders.length

/-- qmc ends with its record, a STALEGEN or nothing (R347 step 4, R71). -/
def State.qmcEnd (s : State) (k : Nat) (e : QEntry) (t : AttTag) : State :=
  let s := s.updCore k fun c => { c with tags := c.tags.filter (·.entry != e.id) }
  match t.staleGen with
  | some g => s.attFinish k e [] (astat 3 g t.tag) (e.staleTrap g t.gen)
  | none =>
    if t.record.isEmpty then s.attFinish k e [] (astat 4 t.gen t.tag) none
    else
      let r := finalStep (PRec.ofBytes t.record)
      s.attFinish k e [(e.adVa 5, (r.1.getD []).flatMap (leBytes 4))] (astat r.2 t.gen t.tag) none

/-- CODE of part and merge (R345 Table 7). -/
def recCode (r : PRec) : Nat := (if r.inval then 2 else if r.empty then 1 else 0) + 8 * bit1 r.approx

/-- The bytes at a virtual address that part reads, and which of them lie in poisoned units: R64 gives an INVAL record for
those (R346). -/
def State.partRead1 (s : State) (k va n : Nat) (t : Tgt) : Eng (List Byte × List Bool) :=
  let marks := match t with
    | .sp q off => (List.range n).map fun j => poisoned (s.core q).spPoison (off + j) 1
    | .hbm pa _ => (List.range n).map fun j => poisoned s.hbmPoison (pa + j) 1
    | _ => List.replicate n false
  let clean := match t with
    | .sp q _ => s.updCore q fun c => { c with spPoison := [] }
    | _ => { s with hbmPoison := [] }
  (clean.engRead1 12 k va n t).bind fun bs => .ok (bs, marks)
def State.partRecord (s : State) (k tile kv d va : Nat) : Eng Pos :=
  (engMap (fun (p : Nat × Nat) => (s.engTgt1 k p.1 accLoad).bind fun t => s.partRead1 k p.1 p.2 t) (pieces va 1024)).bind fun l =>
    let bs := (l.map (·.1)).flatten
    let ms := (l.map (·.2)).flatten
    let n := d * kvBytes kv
    .ok (posOf tile kv d bs ((ms.take n).any id) (((ms.drop 512).take n).any id))

/-- part (R346): the partial of one block; a poisoned read that makes it INVAL is logged, with word 0 of the AD (R64). -/
def State.partRun (s : State) (k : Nat) (e : QEntry) : State :=
  let d := bits (e.adw 2) 40 32
  let kv := bits (e.adw 2) 43 41
  let first := bits (e.adw 6) 31 0
  let lo := max first (bits (e.adw 1) 31 0)
  let hi := min (bits (e.adw 6) 63 32) (bits (e.adw 1) 63 32)
  if d = 0 ∨ 256 < d ∨ 3 < kv then s.attFinish k e [] (astat 2 0 0) none
  else s.attTry k e (s.engRead 12 k (e.adVa 4) (2 * d)) fun q =>
    let one := fun i => s.partRecord k ((i - first) / 32) kv d ((e.adVa 3 + (i - first) * 1024) % 2 ^ 64)
    s.attTry k e (engMap one ((List.range (hi - lo)).map (lo + ·))) fun ps =>
      let q := (List.range d).map fun c => imgNat q (2 * c) 2
      let r := computePartial q (e.adw 2 % 2 ^ 32) d kv ps false
      let s' := s.attFinish k e [(e.adVa 5, r.bytes)] (astat (recCode r) 0 0) none
      if poisonHit ps (scored q (e.adw 2 % 2 ^ 32) d kv ps) ∧ (s'.core k).atq ≠ (s.core k).atq then s'.log (.query (e.adw 0 % 2 ^ 32))
      else s'

/-- A record in memory. -/
def State.attRecord (s : State) (k va : Nat) : Eng PRec :=
  (s.engRead 12 k va 16).bind fun h => (s.engRead 12 k va (recSize (imgNat h 4 4 % 512))).bind fun bs => .ok (PRec.ofBytes bs)
def val64 (v : Val) : Nat := v.toNat % 2 ^ 64

/-- merge (R346, R67). -/
def State.mergeRun (s : State) (k : Nat) (e : QEntry) : State :=
  s.attTry k e (s.attRecord k (val64 e.a)) fun a => s.attTry k e (s.attRecord k (val64 e.b)) fun b =>
    let r := mergeRec a b
    s.attFinish k e [(val64 e.c, r.bytes)] (astat (recCode r) 0 0) none

/-- final (R346, R71): the status byte goes to c unless c is 0. -/
def State.finalRun (s : State) (k : Nat) (e : QEntry) : State :=
  s.attTry k e (s.attRecord k (val64 e.a)) fun r =>
    let f := finalStep r
    s.attFinish k e ([(val64 e.b, (f.1.getD []).flatMap (leBytes 4))] ++ (if val64 e.c = 0 then [] else [(val64 e.c, leBytes 1 f.2)]))
      (astat f.2 0 0) none

/-- app (R348). -/
def State.appStart (s : State) (k : Nat) (e : QEntry) : State :=
  s.attTry k e (s.engRead 12 k (e.adVa 3) pmtSize) fun img =>
    let pos := bits (e.adw 6) 31 0
    if !pmtOk img then s.attFinish k e [] (astat stMalformed 0 0) none
    else match (pmtStripes img).find? fun x => decide (x.first ≤ pos) && decide (pos < x.last) && !x.lost with
      | none => s.attFinish k e [] (astat stMalformed (pmtGen img) 0) none
      | some x =>
        let n := pmtD img * kvBytes (pmtKvfmt img)
        let m := kvPad (pmtKvfmt img) (pmtD img)
        s.attTry k e (s.engRead 12 k (e.adVa 4) (2 * m)) fun bs =>
          let kv := padTo16 (bs.take n) ++ padTo16 ((bs.drop m).take n)
          (s.attSend k e 4 12 (nmaEp x.hpkg x.hmd) 2 (pmtGen img) 0 (e.reqHead 0 pos ++ leBytes 4 0 ++ kv) 0 none).attSent k e.id
            (pmtGen img) 1

/-- A present HBM leaf of the issuing package at an address (R349), or the fault that is held. -/
def State.attHbm (s : State) (k va acc : Nat) : Eng Nat :=
  (s.engTgt1 k va acc).bind fun t => match t with
    | .hbm pa _ => .ok pa
    | _ => .bad (permTrap va 6)

/-- pmtrd (R349). -/
def State.pmtrdStart (s : State) (k : Nat) (e : QEntry) : State :=
  s.attTry k e (s.attHbm k (e.adVa 3) accStore) fun pa =>
    (s.attSend k e 5 12 (coordEp (e.adw 1 % 256)) 4 0 0 (leBytes 4 (e.adw 0) ++ leBytes 4 0 ++ leBytes 8 pa) 0 none).attSent k e.id 0 1

/-- pmtset sends its PMTSETs (R349). -/
def State.pmtsetSend (s : State) (k : Nat) (e : QEntry) (gen pa : Nat) (dsts : List Ep) : State :=
  let s := dsts.zipIdx.foldl (fun s d => s.attSend k e 6 12 d.1 5 0 0 (leBytes 4 (e.adw 0) ++ leBytes 4 gen ++ leBytes 8 pa) d.2 none) s
  (s.attSent k e.id gen dsts.length).updAtq k e.id fun e => { e with tags := dsts.map replyBits }

/-- pmtset (R349): install, or commit where PMTVA is 0. -/
def State.pmtsetStart (s : State) (k : Nat) (e : QEntry) : State :=
  let va := fun n => e.adVa n
  let at0 := fun (n acc : Nat) => if va n = 0 then Eng.ok 0 else s.attHbm k (va n) acc
  if va 3 = 0 ∧ va 4 = 0 then s.attFinish k e [] (astat stMalformed 0 0) none
  else s.attTry k e (at0 3 accLoad) fun pa => s.attTry k e (at0 4 accLoad) fun _ =>
    s.attTry k e (if va 6 = 0 then Eng.ok (Tgt.mmio 0) else s.engTgt1 k (va 6) accStore) fun _ =>
      let img := fun n => if va n = 0 then Eng.ok [] else s.engRead 12 k (va n) pmtSize
      s.attTry k e (img 3) fun new => s.attTry k e (img 4) fun old =>
        if (va 3 ≠ 0 ∧ !pmtOk new) ∨ (va 4 ≠ 0 ∧ !pmtOk old) then s.attFinish k e [] (astat stMalformed 0 0) none
        else if va 3 = 0 then
          s.pmtsetSend k e (pmtGen old) 0 (distinct [coordEp (pmtCoord old), coordEp (pmtDeputy old)])
        else s.pmtsetSend k e (pmtGen new) pa (distinct (pmtReplicas new ++ (if va 4 = 0 then [] else pmtReplicas old)))

/-- ring (R350) sends its next RINGBLK; `prog` counts those sent. -/
def State.ringStep (s : State) (k : Nat) (e : QEntry) : State :=
  let first := bits (e.adw 6) 31 0
  let n := bits (e.adw 6) 63 32 - first
  if n ≤ e.prog then s.updAtq k e.id fun e => { e with sent := true }
  else
    let p := first + e.prog
    s.attTry k e (s.engRead 12 k ((e.adVa 3 + e.prog * 1024) % 2 ^ 64) 1024) fun bs =>
      let w := e.adw 1
      let last := bit1 (decide (e.prog + 1 = n))
      (s.attSend k e 7 13 ⟨bits w 7 0, bits w 11 8, bits w 19 12⟩ 6 0 (bits (e.adw 5) 51 0 + e.prog * 1024)
        (e.reqHead (bits w 27 20 + 256 * last) p ++ leBytes 4 0 ++ bs) e.prog none).updAtq k e.id
        fun e => { e with prog := e.prog + 1 }

/-- The answers are in: app, pmtrd, pmtset and ring complete (R345, R348-R350). Later entries of the queue see what they wrote (R171). -/
def State.attEnd (s : State) (k : Nat) (e : QEntry) : State :=
  let s := s.evictAll (dieOf k)
  let as := e.answers e.prog
  let bad := as.filter fun x => ansStatus x ≠ stOk
  let sent := e.e.toNat
  let st := (bad.head?.map ansStatus).getD stOk
  let gen := match bad.head? with
    | some x => if ansStatus x = stStale then ansGen x else sent
    | none => sent
  match e.op with
  | 8 => s.attFinish k e [] (astat st gen 0) (if st = stStale then e.staleTrap gen sent else none)
  | 9 =>
    let g := (as.head?.map ansGen).getD 0
    s.attFinish k e [] (astat st g 0) (if st = stStale then e.staleTrap g 0 else none)
  | 0x0A =>
    let list := leBytes 8 e.prog ++ (List.range e.prog).flatMap fun i =>
      leBytes 8 (e.tags.getD i 0 + 2 ^ 20 * (as[i]?.map ansStatus).getD 0)
    s.attFinish k e (if e.adVa 6 = 0 then [] else [(e.adVa 6, list)]) (astat st gen bad.length) none
  | _ => s.attFinish k e [] (astat st 0 0) none

/-- An entry that has not sent anything runs: it reads its descriptor, then acts (R331, R344). -/
def State.attRun (s : State) (k : Nat) (e : QEntry) : State :=
  let go := fun (s : State) (e : QEntry) => match e.op with
    | 4 => s.qmcStart k e
    | 5 => s.partRun k e
    | 6 => s.mergeRun k e
    | 7 => s.finalRun k e
    | 8 => s.appStart k e
    | 9 => s.pmtrdStart k e
    | 0x0A => s.pmtsetStart k e
    | _ => s.ringStep k e
  if !e.isAd then go s e
  else if val64 e.a % 64 ≠ 0 then s.attFault k e.id (alignTrap (val64 e.a) 64)
  else s.attTry k e (s.engRead 12 k (val64 e.a) 64) fun bs =>
    let e' := { e with d := natVal (leNat bs) }
    go (s.updAtq k e.id fun _ => e') e'

/-! ### Which entry moves -/

/-- Ranges that a started qmc will still write, and that a new one reads, do not meet (R171). -/
def apart (a n b m : Nat) : Bool := decide (a + n ≤ b) || decide (b + m ≤ a)
def State.qmcClear (s : State) (k : Nat) (e f : QEntry) : Bool :=
  match s.engRead 12 k (val64 f.a) 64 with
  | .ok bs =>
    let g := { f with d := natVal (leNat bs) }
    let w := [(val64 e.a + 56, 8), (e.adVa 5, 1024)]
    let r := [(val64 f.a, 64), (g.adVa 3, pmtSize), (g.adVa 4, 512)]
    w.all fun x => r.all fun y => apart x.1 x.2 y.1 y.2
  | _ => false
/-- The first entry behind started qmcs that may start too: a qmc whose reads their writes do not touch. -/
def State.qmcNext (s : State) (k : Nat) : List QEntry → List QEntry → Option QEntry
  | _, [] => none
  | pre, f :: t =>
    if f.op ≠ 4 ∨ f.fault.isSome then none
    else if f.sent then s.qmcNext k (pre ++ [f]) t
    else if (pre.all fun e => s.qmcClear k e f) then some f else none
def State.tagRoom (s : State) (k : Nat) : Bool := decide ((s.core k).tags.length < 16)
def State.tagOf (s : State) (k : Nat) (e : QEntry) : Option AttTag := (s.core k).tags.find? fun t => t.entry == e.id && t.done

/-- Whether the head entry can go on. -/
def State.attHeadReady (s : State) (k : Nat) (e : QEntry) : Bool :=
  e.fault.isNone && !s.attBusy e.id
  && (if e.bound.isSome then true
      else if !e.sent then e.op != 4 || s.tagRoom k
      else if e.op = 4 then (s.tagOf k e).isSome else !s.attWaits e.id)
/-- The head of the attention queue takes its next step. -/
def State.attHead (s : State) (k : Nat) (e : QEntry) : State :=
  match e.bound with
  | some v => s.attPop k e v
  | none =>
    if !e.sent then s.attRun k e
    else if e.op = 4 then
      match s.tagOf k e with
      | some t => s.qmcEnd k e t
      | none => s
    else s.attEnd k e
/-- The entry of a core's attention queue that can move, if any. -/
def State.attReady (s : State) (k : Nat) : Option (Bool × QEntry) :=
  match (s.core k).atq with
  | [] => none
  | e :: t =>
    if s.attHeadReady k e then some (true, e)
    else if e.op = 4 ∧ e.sent ∧ e.fault.isNone ∧ e.bound.isNone ∧ s.tagRoom k then
      match s.qmcNext k [e] t with
      | some f => if s.attBusy f.id then none else some (false, f)
      | none => none
    else none

/-- ATTENTION_ENTRY_COMPLETE (R346): the attention queue takes a step: its head, or a qmc behind started ones. -/
def execAttentionEntryComplete (core : Nat) (s : State) : Host.Outcome State Fault Refusal :=
  .next (match s.attReady core with
    | some (true, e) => s.attHead core e
    | some (false, e) => s.attRun core e
    | none => s)

/-- Tags of a core whose QTMO has run out (R71). -/
def State.tagsDue (s : State) (k : Nat) : Bool := (s.core k).tags.any fun t => !t.done && decide (t.limit ≤ s.pkg.ticks)

/-- ATTENTION_QUERY_TIMEOUT (R71): a qmc whose record has not come within its limit ends with TIMEOUT. -/
def execAttentionQueryTimeout (core : Nat) (s : State) : Host.Outcome State Fault Refusal :=
  .next (s.updCore core fun c => { c with
    tags := c.tags.map fun t => if !t.done && decide (t.limit ≤ s.pkg.ticks) then { t with done := true } else t })

/-- PARTIAL_TO_REPLY (R70): the requester takes the first record for an outstanding TAG with the query's GEN; others are
discarded. -/
def execPartialToReply (t : Txn) (s : State) : Host.Outcome State Fault Refusal :=
  let t := { t with ty := tyPartial }
  .next (s.arriveAt t ((coreOfEp t.dst).isSome && t.subop == 0xFF) fun s =>
    let s := s.answer t stOk
    match coreOfEp t.dst with
    | some k => s.updCore k fun c => { c with
        tags := c.tags.map fun x => if x.tag = t.tag ∧ x.gen = t.gen ∧ !x.done then { x with done := true, record := t.payload } else x }
    | none => s)

/-! ### The triggers -/

/-- An att trigger enters the attention queue with its operands as they are at issue (R331, R346); att.b0 will hold ASTAT. -/
def State.attOp (s : State) (t : Tr) (op : Nat) : Host.Outcome State Fault Refusal :=
  s.acting t false false fun v s => s.enter 12 16 s.myCore.atq.length fun s =>
    let e : QEntry := { id := s.nextId, op := op, a := v, b := s.opPort .att 1, c := s.opPort .att 0, ctx := s.curCx }
    ({ s with nextId := s.nextId + 1 }.updMyCore fun c => { c with atq := c.atq ++ [e] }).expect s.cur s.curCx 12 0 e.id s.lendNow

/-- ATT_QMC (R347): a query to every stripe of a sequence, and the final step. -/
def execAttQmc (t : Tr) (s : State) : Host.Outcome State Fault Refusal := s.attOp t 4
/-- ATT_PART (R346): the partial of one block. -/
def execAttPart (t : Tr) (s : State) : Host.Outcome State Fault Refusal := s.attOp t 5
/-- ATT_MERGE (R346, R67): the merge of two records. -/
def execAttMerge (t : Tr) (s : State) : Host.Outcome State Fault Refusal := s.attOp t 6
/-- ATT_FINAL (R346, R71): the final step on a record. -/
def execAttFinal (t : Tr) (s : State) : Host.Outcome State Fault Refusal := s.attOp t 7
/-- ATT_APP (R348): append a position. -/
def execAttApp (t : Tr) (s : State) : Host.Outcome State Fault Refusal := s.attOp t 8
/-- ATT_PMTRD (R349): read the committed map. -/
def execAttPmtrd (t : Tr) (s : State) : Host.Outcome State Fault Refusal := s.attOp t 9
/-- ATT_PMTSET (R349): install or commit a map. -/
def execAttPmtset (t : Tr) (s : State) : Host.Outcome State Fault Refusal := s.attOp t 0x0A
/-- ATT_RING (R350): send a block to the ring successor. -/
def execAttRing (t : Tr) (s : State) : Host.Outcome State Fault Refusal := s.attOp t 0x0B

/-- ATT_STAT (R346): b0 := entries of the attention queue and outstanding TAGs, after 2 cycles. -/
def execAttStat (t : Tr) (s : State) : Host.Outcome State Fault Refusal :=
  s.acting t false false fun _ s =>
    s.result .att 0 2 (natVal (s.myCore.atq.length % 32 + s.myCore.tags.length % 32 * 2 ^ 8))

end Sys2Proof.Machine
end

