-- ==== Sys2Proof/Machine/Nma.lean ====
section
/-! DEFINITION. The near-memory attention units of the cache dies, the merge units and the position-map replicas (R49,
R54-R61, R64-R66, R69-R73, R159, R160). -/

namespace Sys2Proof.Machine

/-! ### What they share -/

/-- An NMA unit of a cache die, with its stack, or a merge unit (R35). -/
def isNma (e : Ep) : Bool := decide (4 ≤ e.die) && decide (e.die < 12) && decide (e.ep < 4)
def isMerge (e : Ep) : Bool := (e.die == 12 || e.die == 13) && decide (e.ep < 32)
def stackOf (e : Ep) : Nat := e.die - 4
/-- A field of a request's payload. -/
def payNat (t : Txn) (off n : Nat) : Nat := imgNat t.payload off n

/-- A replica at an endpoint (R54). -/
def State.replica (s : State) (e : Ep) (seqid : Nat) : Option Pmt := s.pmt (pmtKey e seqid)

/-- Arena descriptor of a cache die and PTAG (R57 Table 4) and its fields. -/
def arenaKey (md ptag : Nat) : Nat := md * 16 + ptag
def State.arena (s : State) (md ptag : Nat) : Nat := (SMap.get 0 s.arenas (arenaKey md ptag)).toNat
def arenaBase (a : Nat) : Nat := bits a 56 16 * 65536
def arenaEn (a : Nat) : Bool := bitOf a 63
def arenaSlotpg (a : Nat) : Nat := bits a 87 64
def arenaNslot (a : Nat) : Nat := bits a 111 88
def arenaPool (a : Nat) : Nat := bits a 184 134 * 64
/-- The position address (R58). -/
def arenaVa (a slot idx : Nat) : Nat := arenaBase a + slot * arenaSlotpg a * 65536 + idx * 1024
/-- EN, LSLOT and slot are in range (R58). -/
def arenaOk (a nlslot lslot slot : Nat) : Bool := arenaEn a && decide (lslot < nlslot) && decide (slot < arenaNslot a)
/-- A position lies in the slot (R58). -/
def posIn (a base i : Nat) : Bool := decide (base ≤ i) && decide (i - base < arenaSlotpg a * 64)

/-- A page of this stack that an arena's page table maps and that its PTAG owns (R59, R64). -/
def State.ownPage (s : State) (md ptag lvl leaf : Nat) : Bool :=
  decide (lvl = 0) && decide (pteType leaf = 0) && decide (bits (pteAddr leaf) 38 36 = md) && s.ownerOk ptag (pteAddr leaf)
/-- The leaf of an address for a cache die's units, with its page size: by their translation cache, or by a walk (R146, R392). -/
def State.nmaLeaf (s : State) (md ptag va : Nat) : Option (Nat × Nat) :=
  match s.xlCached (xlNma md) ptag va accLoad with
  | .ok _ leaf size => some (if size = 65536 then 0 else 1, leaf)
  | _ => none
/-- The physical page behind a position, where it is present (R64). -/
def State.pagePa (s : State) (md ptag va : Nat) : Option Nat :=
  (s.nmaLeaf md ptag va).bind fun x => if s.ownPage md ptag x.1 x.2 then some (pteAddr x.2) else none
/-- A request of an NMA or merge unit whose answer its pending record `id` waits for. -/
def State.nmaSend (s : State) (unit op id idx : Nat) (launch : Option LKey) (t : Txn) : State :=
  let rid := s.nextId
  let r := { s with nextId := rid + 1 }.sendReq t
  r.1.addReq { id := rid, core := 0, ctx := 0, launch := launch, unit := unit, op := op, tag := r.2, stream := t.stream,
               key := some id, addr := t.addr, arg := BitVec.ofNat 64 idx, nr := launch.isSome }

/-- The source's own record of a request of this package, which says whose it is. -/
def State.reqOf (s : State) (t : Txn) : Option Req :=
  (s.outst.find? fun o => o.txn.src == t.src && o.txn.dst == t.dst && o.txn.stream == t.stream && o.txn.seq == t.seq).bind
    fun o => s.reqs.find? fun r => r.tag == o.uid

/-! ### QUERY -/

/-- Stripes that an endpoint holds, with their indices; those not LOST are computed (R64). -/
def State.heldStripes (s : State) (e : Ep) (img : List Byte) : List (Stripe × Nat) :=
  (pmtStripes img).zipIdx.filter fun x => x.1.hpkg == s.pkg.pkgId && x.1.hmd == stackOf e

/-- Send an element's record to its parent, or to the reply endpoint (R63, R68). -/
def State.emit (s : State) (src : Ep) (img : List Byte) (el : Elem) (r : PRec) (reply tag gen stream : Nat) : State :=
  let par := (pmtTree (pmtN img)).2.find? fun p => p.1 == el
  let t : Txn :=
    { ty := tyPartial, stream := stream, ptag := pmtPtag img, src := src, gen := gen, addr := reply % 2 ^ 20 + pmtSeqid img * 2 ^ 20,
      dst := match par with
        | some p => pmtNode img p.2.1
        | none => replyEp reply,
      subop := match par with
        | some p => p.2.1
        | none => 0xFF,
      payload := ({ r with side := match par with
        | some p => p.2.2
        | none => false } : PRec).bytes }
  (s.sendTagged t tag).1

/-- The INVAL partials that follow a refused query (R61): one for each stripe held; a die that computes none sends one to the reply endpoint
(log 82). -/
def State.emitInvals (s : State) (t : Txn) (img : List Byte) : State :=
  let live := (s.heldStripes t.dst img).filter fun x => !x.1.lost
  let reply := payNat t 20 4
  if live.isEmpty then
    (s.sendTagged { ty := tyPartial, stream := t.stream, ptag := pmtPtag img, src := t.dst, dst := replyEp reply, subop := 0xFF, gen := t.gen,
                    addr := reply % 2 ^ 20 + pmtSeqid img * 2 ^ 20, payload := (PRec.mkInval (pmtD img) false).bytes } t.tag).1
  else live.foldl (fun s x => s.emit t.dst img (.stripe x.2) (PRec.mkInval (pmtD img) false) reply t.tag t.gen t.stream) s

/-- One page's positions from `a` to `b - 1` (local page `pg` of the slot). -/
def State.pagePositions (s : State) (img : List Byte) (base pg a b pa : Nat) : List Pos :=
  let d := pmtD img
  let kv := pmtKvfmt img
  let n := d * kvBytes kv
  let lo := max a (base + 64 * pg)
  (List.range (min b (base + 64 * pg + 64) - lo)).map fun j =>
    let i := lo + j - base
    let at_ := pa + (i - 64 * pg) * 1024
    posOf (i / 32) kv d (s.hbmRead at_ 1024) (poisoned s.hbmPoison at_ n) (poisoned s.hbmPoison (at_ + 512) n)

/-- MISSCNT and the add to MISSADDR (R66). -/
def State.missed (s : State) (t : Txn) (img : List Byte) (n : Nat) : State :=
  let ptag := pmtPtag img
  let k := arenaKey (stackOf t.dst) ptag
  let s := { s with arenas := SMap.put s.arenas k (BitVec.ofNat 256
    (s.arena (stackOf t.dst) ptag % 2 ^ 192 + min (2 ^ 64 - 1) (s.arena (stackOf t.dst) ptag / 2 ^ 192 + n) * 2 ^ 192)) }
  if pmtMiss img = 0 then s
  else
    let launch := (s.reqOf t).bind (·.launch)
    match s.writable ptag (pmtMiss img) with
    | some g =>
      let h := s.homeEp g
      s.nmaSend 23 0 0 0 launch { ty := tyAtomic, stream := 15, ptag := ptag, src := t.dst, dst := h.1, subop := 0x30, addr := h.2,
                                  payload := leBytes 8 n }
    | none =>
      match launch with
      | some l => s.logDrop l
      | none => s.log (.drop ptag 0)

/-- The partial of one held stripe, and its sending (R64, R66). -/
def State.stripePartial (s : State) (t : Txn) (img : List Byte) (x : Stripe × Nat) : State :=
  let ptag := pmtPtag img
  let ar := s.arena (stackOf t.dst) ptag
  let slot := x.1.hslot + payNat t 4 2
  let a := max x.1.first (payNat t 8 4)
  let b := min x.1.last (payNat t 12 4)
  let p0 := (a - x.1.base) / 64
  let pages := if a < b then (List.range ((b - 1 - x.1.base) / 64 + 1 - p0)).map (p0 + ·) else []
  let found := pages.map fun pg => (pg, s.pagePa (stackOf t.dst) ptag (arenaVa ar slot (64 * pg)))
  let s := found.foldl (fun s f => match f.2 with
    | some pa => (s.xlKeep (xlNma (stackOf t.dst)) ptag (arenaVa ar slot (64 * f.1))).syncLines 99 pa 65536
    | none => s) s
  let ps := found.flatMap fun f => match f.2 with
    | some pa => s.pagePositions img x.1.base f.1 a b pa
    | none => []
  let missing := (found.filter (·.2.isNone)).length
  let q := (List.range (pmtD img)).map fun c => payNat t (32 + 2 * c) 2
  let r := computePartial q (payNat t 16 4) (pmtD img) (pmtKvfmt img) ps (decide (0 < missing))
  let s := if poisonHit ps (scored q (payNat t 16 4) (pmtD img) (pmtKvfmt img) ps) then s.log (.query (pmtSeqid img)) else s
  let s := if 0 < missing then s.missed t img missing else s
  s.emit t.dst img (.stripe x.2) r (payNat t 20 4) t.tag t.gen t.stream

/-- The checks of R58 on a query: of the slot for every stripe held, of the positions for those computed. -/
def State.queryBad (s : State) (t : Txn) (img : List Byte) : Bool :=
  let ar := s.arena (stackOf t.dst) (pmtPtag img)
  let held := s.heldStripes t.dst img
  Txn.len t != 2 + (pmtD img + 7) / 8 || held.isEmpty
  || held.any fun x =>
      let a := max x.1.first (payNat t 8 4)
      let b := min x.1.last (payNat t 12 4)
      !arenaOk ar (pmtNlslot img) (payNat t 4 2) (x.1.hslot + payNat t 4 2)
      || (!x.1.lost && decide (a < b) && !(posIn ar x.1.base a && posIn ar x.1.base (b - 1)))

/-- A request for a replica (R39, R55, R60): unknown SEQIDs, a foreign PTAG and, where it carries one, another generation
are answered. -/
def State.atReplica (s : State) (t : Txn) (withGen : Bool) (perm : State → Pmt → State) (f : State → Pmt → State) : State :=
  match s.replica t.dst (payNat t 0 4) with
  | none => s.answer t stMalformed
  | some r =>
    if t.ptag ≠ pmtPtag r.image then perm (s.answer t stPerm) r
    else if withGen ∧ t.gen ≠ pmtGen r.image then s.answer t stStale [] (pmtGen r.image)
    else f s r

/-- A begun append of the same triple keeps later requests of the triple waiting (R40). -/
def State.nmaHeld (s : State) (t : Txn) : Bool := s.appends.any fun a => Txn.triple a.txn == Txn.triple t

/-- A transaction that cannot be taken yet stays on the wire (R40, R49, R160). -/
def State.rewire (s : State) (t : Txn) : State := { s with wire := s.wire ++ [(0, t)] }

/-- QUERY (R60, R64): the holder answers, and one partial per stripe held follows. -/
def execQuery (t : Txn) (s : State) : Host.Outcome State Fault Refusal :=
  let t := { t with ty := tyAttreq, subop := 1 }
  if s.nmaHeld t ∧ isNma t.dst then .next ((s.unwire t).rewire t)
  else .next (s.arriveAt t (isNma t.dst) fun s =>
    s.atReplica t true (fun s r => s.emitInvals t r.image) fun s r =>
      if s.queryBad t r.image then (s.answer t stMalformed).emitInvals t r.image
      else ((s.heldStripes t.dst r.image).filter fun x => !x.1.lost).foldl (fun s x => s.stripePartial t r.image x)
        (s.answer t stOk [] (pmtGen r.image)))

/-! ### APPEND and MIRROR -/

/-- The address of the level-0 entry of an address whose upper levels are present (R143). -/
def State.entry0 (s : State) (va : Nat) : Nat → Nat → Nat
  | 0, tbl => entryPa tbl 0 va
  | l + 1, tbl => s.entry0 va l (pteAddr (s.pte (entryPa tbl (l + 1) va)))

def State.updAppend (s : State) (id : Nat) (f : Append → Append) : State :=
  { s with appends := s.appends.map fun (x : Append) => if x.id = id then f x else x }
def State.dropAppend (s : State) (id : Nat) : State := { s with appends := s.appends.filter (·.id != id) }

/-- The end of an append or mirror with a status. -/
def State.appendEnd (s : State) (a : Append) (status gen : Nat) : State := (s.dropAppend a.id).answer a.txn status [] gen

/-- Write the record; then the buddy's copy is asked for, or the request is answered (R72). -/
def State.appendWrite (s : State) (a : Append) (pa : Nat) : State :=
  let s := (s.copyAhead a.txn.ptag a.va).hbmWrite (pa + a.va % 65536) a.record
  match a.buddy with
  | none => s.appendEnd a stOk 0
  | some b =>
    (s.updAppend a.id fun x => { x with mapping := false }).nmaSend 20 3 a.id 0 none
      { ty := tyAttreq, stream := 14, ptag := a.txn.ptag, src := a.txn.dst, dst := nmaEp b.1 b.2, subop := 3, gen := a.txn.gen,
        payload := a.txn.payload.take 12 ++ leBytes 4 0 ++ a.record }

/-- Ask the pool for a page (R59 step 1). -/
def State.appendPop (s : State) (a : Append) (hdr : Nat) : State :=
  let h := s.homeEp a.pool
  (s.updAppend a.id fun x => { x with oclass := bits hdr 5 2 + 16 * (hdr % 4) }).nmaSend 20 2 a.id 0 none
    { ty := tyPop, ptag := a.txn.ptag, src := a.txn.dst, dst := h.1, subop := 3, addr := h.2, otype := hdr % 4, oclass := bits hdr 5 2 }
/-- A page that the pool gave goes back to it (R59). -/
def State.pushBack (s : State) (a : Append) (page : List Byte) : State :=
  let h := s.homeEp a.pool
  s.post { ty := tyPush, ptag := a.txn.ptag, src := a.txn.dst, dst := h.1, subop := 3, addr := h.2, otype := a.oclass / 16,
           oclass := a.oclass % 16, payload := page }

/-- An append walks to its page (R59): it writes there, or asks the pool, or ends MALFORMED. -/
def State.appendGo (s : State) (a : Append) : State :=
  let md := stackOf a.txn.dst
  match s.nmaLeaf md a.txn.ptag a.va, s.walk a.txn.ptag a.va with
  | some (lvl, leaf), _ =>
    if s.ownPage md a.txn.ptag lvl leaf then (s.xlKeep (xlNma md) a.txn.ptag a.va).appendWrite a (pteAddr leaf) else s.appendEnd a stMalformed 0
  | none, .error (0, 1) =>
    match s.writable a.txn.ptag (arenaPool (s.arena md a.txn.ptag)) with
    | none => s.appendEnd a stMalformed 0
    | some g =>
      let a := { a with mapping := true, pool := g }
      let s := s.updAppend a.id fun _ => a
      match g with
      | .hbm pa _ => s.appendPop a (leNat (s.hbmRead pa 8))
      | _ =>
        let h := s.homeEp g
        s.nmaSend 20 1 a.id 0 none { ty := tyLoad, ptag := a.txn.ptag, src := a.txn.dst, dst := h.1, subop := 3, addr := h.2 }
  | none, _ => s.appendEnd a stMalformed 0

/-- The pool has given a page (R59 steps 2 to 4, R159). -/
def State.appendPage (s : State) (a : Append) (el : List Byte) : State :=
  let md := stackOf a.txn.dst
  let page := leNat (el.take 8)
  if page % 65536 ≠ 0 ∨ 2 ^ 39 ≤ page ∨ bits page 38 36 ≠ md ∨ !s.ownerOk a.txn.ptag page then (s.pushBack a el).appendEnd a stPoison 0
  else match s.walk a.txn.ptag a.va with
    | .error (0, 1) =>
      let s := s.hbmZero page 65536
      let s := s.hbmWrite (s.entry0 a.va 4 ((s.part a.txn.ptag).root * 4096)) (leBytes 8 (page + 7))
      s.appendWrite a page
    | .ok (lvl, _, leaf) =>
      let s := s.pushBack a el
      if s.ownPage md a.txn.ptag lvl leaf then s.appendWrite a (pteAddr leaf) else s.appendEnd a stMalformed 0
    | .error _ => (s.pushBack a el).appendEnd a stMalformed 0

/-- The answer to a request of an append: its pool's header (1), its page (2), its buddy (3) (R59, R72). -/
def State.appendAnswer (s : State) (id op status gen : Nat) (bs : List Byte) : State :=
  match s.appends.find? (·.id == id) with
  | none => s
  | some a =>
    match op with
    | 1 => if status = stOk then s.appendPop a (leNat (bs.take 8)) else s.appendEnd a status 0
    | 2 => if status = stOk then s.appendPage a bs else s.appendEnd a (if status = stEmpty then stFull else status) 0
    | _ => s.appendEnd a status gen

/-- Where a position is written (R58, R60): its address and stripe; none is MALFORMED. -/
def State.appendPlace (s : State) (t : Txn) (img : List Byte) (mirror : Bool) : Option (Nat × Stripe) :=
  let pos := payNat t 8 4
  let me := fun (pkg md : Nat) => pkg == s.pkg.pkgId && md == stackOf t.dst
  match (pmtStripes img).find? fun x => decide (x.first ≤ pos) && decide (pos < x.last)
      && (if mirror then decide (x.bstate ≠ 0) && me x.bpkg x.bmd else me x.hpkg x.hmd) with
  | none => none
  | some x =>
    let ar := s.arena (stackOf t.dst) (pmtPtag img)
    let slot := (if mirror then x.bslot else x.hslot) + payNat t 4 2
    let want := if mirror then 65 else 1 + 2 * (kvPad (pmtKvfmt img) (pmtD img) / 16)
    if Txn.len t = want ∧ arenaOk ar (pmtNlslot img) (payNat t 4 2) slot ∧ posIn ar x.base pos then
      some (arenaVa ar slot (pos - x.base), x)
    else none

/-- The record of an append's payload (R58, R60). -/
def appendRecord (t : Txn) (img : List Byte) : List Byte :=
  let n := pmtD img * kvBytes (pmtKvfmt img)
  let m := kvPad (pmtKvfmt img) (pmtD img)
  let half := fun (bs : List Byte) => bs ++ List.replicate (512 - bs.length) 0
  half ((t.payload.drop 16).take n) ++ half ((t.payload.drop (16 + m)).take n)

/-- Whether an append must wait: an earlier request of its triple, or its page being mapped (R160). -/
def State.appendWaits (s : State) (t : Txn) (mirror : Bool) : Bool :=
  s.nmaHeld t || (match s.replica t.dst (payNat t 0 4) with
    | none => false
    | some r => match s.appendPlace t r.image mirror with
      | none => false
      | some (va, _) =>
        s.appends.any fun a => a.mapping && a.txn.ptag == t.ptag && a.va / 65536 == va / 65536)

/-- An append or mirror whose request is sound. -/
def State.appendStart (s : State) (t : Txn) (img record : List Byte) (mirror : Bool) : State :=
  match s.appendPlace t img mirror with
  | none => s.answer t stMalformed
  | some (va, x) =>
    let a : Append := { id := s.nextId, txn := t, va := va, record := record,
                        buddy := if mirror ∨ x.bstate = 0 then none else some (x.bpkg, x.bmd) }
    { s with nextId := s.nextId + 1, appends := s.appends ++ [a] }.appendGo a

/-- APPEND (R72): the holder writes the position record, mirrors it and answers. -/
def execAppend (t : Txn) (s : State) : Host.Outcome State Fault Refusal :=
  let t := { t with ty := tyAttreq, subop := 2 }
  if isNma t.dst ∧ s.appendWaits t false then .next ((s.unwire t).rewire t)
  else .next (s.arriveAt t (isNma t.dst) fun s => s.atReplica t true (fun s _ => s) fun s r =>
    s.appendStart t r.image (appendRecord t r.image) false)

/-- MIRROR (R72): the buddy writes the position record and answers. -/
def execMirror (t : Txn) (s : State) : Host.Outcome State Fault Refusal :=
  let t := { t with ty := tyAttreq, subop := 3 }
  if isNma t.dst ∧ s.appendWaits t true then .next ((s.unwire t).rewire t)
  else .next (s.arriveAt t (isNma t.dst) fun s => s.atReplica t true (fun s _ => s) fun s r =>
    s.appendStart t r.image ((t.payload.drop 16).take 1024) true)

/-! ### The replicas -/

/-- Whether a replica is the coordinator's or the deputy's (R349, R422). -/
def State.isCoord (s : State) (e : Ep) (img : List Byte) : Bool :=
  e.die == 12 && e.ep == 0 && (s.pkg.pkgId == pmtCoord img || s.pkg.pkgId == pmtDeputy img)

/-- The stale notice of a partial (R70). -/
def State.staleNotice (s : State) (src : Ep) (ptag seqid reply tag gen stream d : Nat) : State :=
  (s.sendTagged { ty := tyPartial, stream := stream, ptag := ptag, src := src, dst := replyEp reply, subop := 0xFF, gen := gen,
                  addr := reply % 2 ^ 20 + seqid * 2 ^ 20, payload := { PRec.mkEmpty d false with stale := true }.bytes } tag).1

def mergeKey (e : Ep) : Nat := e.die * 64 + e.ep
def State.mergeBufs (s : State) (e : Ep) : List NodeBuf := SMap.get [] s.merges (mergeKey e)
def State.setMergeBufs (s : State) (e : Ep) (l : List NodeBuf) : State := { s with merges := SMap.set [] s.merges (mergeKey e) l }

/-- A newer generation at a merge unit discards the buffers that wait under another one, each with a stale notice (R49,
R70). -/
def State.newGen (s : State) (e : Ep) (seqid gen : Nat) : State :=
  let old := fun (b : NodeBuf) => b.seqid == seqid && b.gen != gen
  ((s.mergeBufs e).filter old).foldl
    (fun s b => s.staleNotice e b.ptag b.seqid b.reply b.tag b.gen b.stream (imgNat b.record 4 4 % 512))
    (s.setMergeBufs e ((s.mergeBufs e).filter fun b => !old b))

/-- Install an image (R54, R422): the status and GEN of the answer. It is installed under its own SEQID (log 100). -/
def State.install (s : State) (e : Ep) (img : List Byte) (gen sender ptag : Nat) (priv : Bool) : Nat × Nat × State :=
  if !pmtOk img ∨ gen ≠ pmtGen img then (stMalformed, 0, s)
  else
    let among := fun (i : List Byte) => sender == pmtCoord i || sender == pmtDeputy i
    let place := fun (old : Option (List Byte)) =>
      let c := if priv ∧ s.isCoord e img then some img else old
      { s with pmts := SMap.put s.pmts (pmtKey e (pmtSeqid img)) { image := img, committed := c } }.newGen e (pmtSeqid img) gen
    match s.replica e (pmtSeqid img) with
    | none => if !(priv || among img) ∨ ptag ≠ pmtPtag img then (stPerm, 0, s) else (stOk, gen, place none)
    | some r =>
      if !(priv || among img || among r.image) ∨ ptag ≠ pmtPtag r.image then (stPerm, pmtGen r.image, s)
      else if genOlder gen (pmtGen r.image) then (stStale, pmtGen r.image, s)
      else if gen = pmtGen r.image then (stOk, gen, s)
      else (stOk, gen, place r.committed)

/-- A commit notice (R422). -/
def State.notice (s : State) (t : Txn) : State :=
  match s.replica t.dst (payNat t 0 4) with
  | none => s.answer t stMalformed
  | some r =>
    let held := pmtGen r.image
    let gen := payNat t 4 4
    if !s.isCoord t.dst r.image then s.answer t stMalformed
    else if !(t.priv || t.src.pkg == pmtCoord r.image || t.src.pkg == pmtDeputy r.image) ∨ t.ptag ≠ pmtPtag r.image then s.answer t stPerm
    else if genOlder gen held then s.answer t stStale [] held
    else if gen ≠ held then s.answer t stMalformed
    else { s with pmts := SMap.put s.pmts (pmtKey t.dst (payNat t 0 4)) { r with committed := some r.image } }.answer t stOk [] held

/-- The pieces of an image as fabric accesses carry them: offset and size as a power of two. -/
def imgPieces : List (Nat × Nat) := [(0, 11), (2048, 11), (4096, 11), (6144, 11), (8192, 9), (8704, 6)]

/-- An install begins with the fetch of the image from the sender's package (R54 step 1). -/
def State.fetchImage (s : State) (t : Txn) : State :=
  let id := s.nextId
  let pa := payNat t 8 8
  imgPieces.foldl (fun s p => s.nmaSend 21 1 id p.1 none
      { ty := tyLoad, priv := t.priv, stream := t.stream, ptag := t.ptag, src := t.dst, dst := llcEp t.src.pkg (pa + p.1),
        subop := p.2, addr := pa + p.1 })
    { s with nextId := id + 1, fetches := s.fetches ++ [({ id := id, txn := t, left := imgPieces.length } : Fetch)] }

/-- Bytes of a host read from the pieces that have come; a piece's place counts from 16 bytes before the read (R80). -/
def assemble (parts : List (Nat × List Byte)) (n : Nat) : List Byte :=
  (List.range n).map fun j =>
    (parts.findSome? fun p => if p.1 ≤ j + 16 then p.2[j + 16 - p.1]? else none).getD 0

/-- What an answer to a piece of a fetch or of an image write does; the last one ends the request (R54, R60), or completes a host
read (R80). -/
def State.fetchAnswer (s : State) (id idx status : Nat) (bs : List Byte) : State :=
  match s.fetches.find? (·.id == id) with
  | none => s
  | some f =>
    let f := { f with left := f.left - 1, parts := (idx, bs) :: f.parts, status := if f.status = stOk then status else f.status }
    if f.left ≠ 0 then { s with fetches := s.fetches.map fun (x : Fetch) => if x.id = id then f else x }
    else
      let s := { s with fetches := s.fetches.filter (·.id != id) }
      if f.txn.ty = tyLoad then s.tell (.completion f.status (assemble f.parts f.txn.addr))
      else if f.status ≠ stOk then s.answer f.txn f.status
      else if f.txn.subop = 4 then
        s.answer f.txn stOk [] f.txn.gen
      else
        let img := imgPieces.flatMap fun p => ((f.parts.find? (·.1 == p.1)).map (·.2)).getD []
        let r := s.install f.txn.dst img (payNat f.txn 4 4) f.txn.src.pkg f.txn.ptag f.txn.priv
        r.2.2.answer f.txn r.1 [] r.2.1

/-- PMTREAD (R60, R422): the committed image is written to the requester's package, then the request is answered. -/
def execPmtread (t : Txn) (s : State) : Host.Outcome State Fault Refusal :=
  let t := { t with ty := tyAttreq, subop := 4 }
  .next (s.arriveAt t (isNma t.dst || isMerge t.dst) fun s => s.atReplica t false (fun s _ => s) fun s r =>
    match r.committed with
    | none => s.answer t stMalformed
    | some img =>
      if Txn.len t ≠ 1 then s.answer t stMalformed
      else
        let id := s.nextId
        let pa := payNat t 8 8
        imgPieces.foldl (fun s p => s.nmaSend 22 2 id p.1 none
            { ty := tyStore, stream := t.stream, ptag := t.ptag, src := t.dst, dst := llcEp t.src.pkg (pa + p.1), addr := pa + p.1,
              payload := (img.drop p.1).take (2 ^ p.2) })
          { s with nextId := id + 1, fetches := s.fetches ++ [({ id := id, txn := { t with gen := pmtGen img }, left := imgPieces.length } : Fetch)] })

/-- What a PMTSET does: a notice where its image address is 0, else an install (R54, R422). -/
def State.pmtsetArrive (s : State) (t : Txn) : State :=
  s.arriveAt t (isNma t.dst || isMerge t.dst) fun s =>
    if Txn.len t ≠ 1 then s.answer t stMalformed else if payNat t 8 8 = 0 then s.notice t else s.fetchImage t

/-- PMTSET (R54): a replica installs a map. -/
def execPmtset (t : Txn) (s : State) : Host.Outcome State Fault Refusal := .next (s.pmtsetArrive { t with ty := tyAttreq, subop := 5 })

/-- PMT_COMMIT_NOTICE (R422): a PMTSET whose image address is 0 commits the installed image. -/
def execPmtCommitNotice (t : Txn) (s : State) : Host.Outcome State Fault Refusal :=
  .next (s.pmtsetArrive { t with ty := tyAttreq, subop := 5 })

/-- Chapter 21's ring descriptors name the LLC slice (TEP 4) of the successor's cache die, and R401 has every block
answered OK: RINGBLK is performed at each endpoint of a cache die (DEDUCED, log 70). -/
def takesRing (e : Ep) : Bool := decide (4 ≤ e.die) && decide (e.die < 12) && decide (e.ep < 5)

/-- An ATTREQ of any other SUBOP is answered MALFORMED (R60). -/
def badAttreq (t : Txn) (s : State) : Host.Outcome State Fault Refusal := .next (s.arriveAt t false fun s => s)

/-- RINGBLK (R60, R350): a position record is written at a physical address of the successor. -/
def execRingblk (t : Txn) (s : State) : Host.Outcome State Fault Refusal :=
  let t := { t with ty := tyAttreq, subop := 6 }
  .next (s.arriveAt t (takesRing t.dst) fun s => s.atReplica t false (fun s _ => s) fun s _ =>
    if Txn.len t ≠ 65 then s.answer t stMalformed
    else if !s.ownerOk t.ptag t.addr then s.answer t stPerm
    else (s.hbmWrite t.addr ((t.payload.drop 16).take 1024)).answer t stOk)

/-! ### Merge units -/

/-- A record and its place, as a merge unit keeps it. -/
def bufOf (t : Txn) : NodeBuf :=
  { seqid := bits t.addr 51 20, node := t.subop, tag := t.tag, gen := t.gen, reply := t.addr % 2 ^ 20,
    side := bits (imgNat t.payload 4 4) 9 9, stream := t.stream, ptag := t.ptag, record := t.payload }
def sameNode (a b : NodeBuf) : Bool :=
  a.seqid == b.seqid && a.node == b.node && a.tag == b.tag && a.gen == b.gen && a.reply == b.reply && a.ptag == b.ptag

/-- The other child of a node, and this one. -/
def childOf (img : List Byte) (node : Nat) (side : Bool) : Option Elem :=
  ((pmtTree (pmtN img)).2.find? fun p => p.2.1 == node && p.2.2 == side).map (·.1)
def childDead (img : List Byte) (node : Nat) (side : Bool) : Bool :=
  match childOf img node side with
  | some c => (pmtDead img).contains c
  | none => false

/-- A PARTIAL that would need a node buffer where none is free (R49). -/
def State.mergeFull (s : State) (t : Txn) : Bool :=
  let b := bufOf t
  isMerge t.dst && decide (16 ≤ (s.mergeBufs t.dst).length) && !((s.mergeBufs t.dst).any (sameNode b))
  && (match s.replica t.dst b.seqid with
      | some r => t.gen == pmtGen r.image && !childDead r.image b.node (b.side == 0)
      | none => false)

/-- The payload of a PARTIAL is one record (R36, R62, R63). -/
def recordLen (t : Txn) : Bool :=
  let d := imgNat t.payload 4 4 % 512
  decide (1 ≤ d) && decide (d ≤ 256) && Txn.len t == (12 + 4 * d + 15) / 16

/-- PARTIAL (R49, R67, R69, R70): a merge unit buffers a child's record, or merges the two children and sends the result on. -/
def execPartialArrive (t : Txn) (s : State) : Host.Outcome State Fault Refusal :=
  let t := { t with ty := tyPartial }
  if s.mergeFull t then .next ((s.unwire t).rewire t)
  else .next (s.arriveAt t (isMerge t.dst && recordLen t) fun s =>
    let b := bufOf t
    match s.replica t.dst b.seqid with
    | none => s.answer t stMalformed
    | some r =>
      let img := r.image
      let send := fun (s : State) (x y : PRec) => s.emit t.dst img (.node b.node) (mergeRec x y) b.reply b.tag b.gen b.stream
      if t.ptag ≠ pmtPtag img then s.answer t stPerm
      else if t.gen ≠ pmtGen img then
        (s.answer t stStale [] (pmtGen img)).staleNotice t.dst t.ptag b.seqid b.reply t.tag t.gen t.stream
          (imgNat t.payload 4 4 % 512)
      else if pmtN img ≤ b.node + 1 ∨ pmtNode img b.node ≠ t.dst then s.answer t stMalformed
      else if childDead img b.node (b.side == 1) then s.answer t stMalformed
      else
        let me := PRec.ofBytes t.payload
        let none_ := PRec.mkEmpty me.d true
        if childDead img b.node (b.side == 0) then
          if b.side = 0 then send (s.answer t stOk) me none_ else send (s.answer t stOk) none_ me
        else match (s.mergeBufs t.dst).find? (sameNode b) with
          | none => (s.setMergeBufs t.dst (s.mergeBufs t.dst ++ [b])).answer t stOk
          | some o =>
            if o.side = b.side then s.answer t stMalformed
            else
              let s := (s.setMergeBufs t.dst ((s.mergeBufs t.dst).filter fun x => !sameNode b x)).answer t stOk
              let other := PRec.ofBytes o.record
              if b.side = 0 then send s me other else send s other me)

end Sys2Proof.Machine
end

