-- ==== Sys2Proof/Machine/Regs.lean ====
section
/-! DEFINITION. The device's registers (R5, R6): partition descriptors (R82, R88), arenas (R57), routers (R32, R33), DEVSTATE (R92), the host
filter (R95), MSI-X masks (R79), and how they are read and written. -/

namespace Sys2Proof.Machine

/-! ### Partition descriptors (R82, R87, R88) -/

/-- A reset of a partition begins: it is fenced; a reset in progress is joined (R87 step 1, R89). Its launches stop no
frame (R88). `keep`: EN stays 1. -/
def State.startReset (s : State) (p : Nat) (keep : Bool) : State :=
  if (s.part p).state = 2 then s.updPart p fun x => { x with en := x.en && keep, resetKeepEn := x.resetKeepEn && keep }
  else
    let s := ((s.fence p).updPart p fun x => { x with state := 2, en := keep && x.en, resetKeepEn := keep && x.en }).log (.flr p 1)
    { s with pkg := { s.pkg with stoppers := s.pkg.stoppers.filter fun (x : Stopper) => x.l.ptag != p } }

/-- The descriptor's words 0 to 2 as they read (R82 Table 3). -/
def State.descWord (s : State) (p n : Nat) : Nat :=
  let x := s.part p
  match n with
  | 0 => x.clmask.toNat + b2n x.prot * 2 ^ 20 + b2n x.en * 2 ^ 21 + x.state % 4 * 2 ^ 22 + b2n (s.quiesced p) * 2 ^ 24 + b2n x.err * 2 ^ 25
      + x.hbmgb * 2 ^ 32 + x.nslots * 2 ^ 48
  | 1 => x.root * 2 ^ 12
  | 2 => x.hldrop + x.filtdrop * 2 ^ 32
  | _ => 0

/-- A write of words 0 and 1 of a descriptor (R82, R205): ignored, with ERR set, where the rules say so. NSLOTS
above 64 acts as 64 (log 86). EN that is set again while the reset after its clearing runs takes effect at once, and the reset ends in
quarantine (log 87). -/
def State.writeDesc (s : State) (p : Nat) (w0 w1 : Nat) : State :=
  let x := s.part p
  let clmask := BitVec.ofNat 20 w0
  let en := bitOf w0 21
  let hbmgb := bits w0 41 32
  let root := bits w1 51 12
  let clash := (List.range 16).any fun q => q != p && (s.part q).en && ((s.part q).clmask &&& clmask) != 0
  if (en ∧ !x.en ∧ clash) ∨ (x.en ∧ (x.clmask ≠ clmask ∨ x.root ≠ root ∨ x.hbmgb ≠ hbmgb ∨ x.prot ≠ bitOf w0 20)) then
    s.updPart p fun x => { x with err := true }
  else
    let s := s.updPart p fun x => { x with
      clmask := clmask, prot := bitOf w0 20, hbmgb := hbmgb, nslots := min 64 (bits w0 54 48), root := root, err := x.err && !bitOf w0 25 }
    if x.en ∧ !en then s.startReset p false
    else if !x.en ∧ en then
      s.updPart p fun x => { x with
        en := true, resetKeepEn := true, state := if x.state = 2 then 2 else if x.enWait then 3 else 1 }
    else s

/-! ### DEVSTATE (R92, R93) -/

/-- GOFULL (R93): ignored in any stage but reduced. -/
def State.goFull (s : State) : State := if s.pkg.svc = 1 then { s with pkg := { s.pkg with svc := 3 } } else s
/-- RESUME (R91): every QUIESCED bit clears, and the partitions fire again. -/
def State.resumeAll (s : State) : State :=
  { s with parts := s.parts.map fun (x : Nat × Part) => (x.1, { x.2 with stopFire := false }) }
def State.clearLinkLoss (s : State) : State := { s with pkg := { s.pkg with linkLoss := false } }

/-- DEVSTATE as it reads (R92 Table 4). -/
def Pkg.devstate (g : Pkg) : Nat := g.svc % 4 + b2n g.linkLoss * 4 + g.pkgId % 256 * 2 ^ 8 + g.domId % 64 * 2 ^ 16

/-! ### Routers (R32) -/

/-- FSC as it reads (R32). -/
def Router.fsc (r : Router) : Nat :=
  b2n r.actBank + b2n r.swapTick.isSome * 2 + b2n r.comben * 4 + b2n r.pairen * 8 + b2n r.degraded * 16 + min 0xFFFF r.drops * 2 ^ 16

/-! ### Device registers (R5, R6) -/

/-- A window register without its reserved bits (R33). -/
def windowMask : Word := 0x3F3F3F3F3F3F3F3F
/-- The writable bits of an arena descriptor's words (R57). -/
def arenaMask (n : Nat) : Nat := match n with
  | 0 => 0x81FFFFFFFFFF0000
  | 1 => 0x0000FFFFFFFFFFFF
  | 2 => 0x01FFFFFFFFFFFFC0
  | _ => 0
/-- Word `n` of an arena descriptor is written; MISSCNT is not (R57). -/
def arenaWrite (old n : Nat) (v : Word) : BitVec 256 :=
  if 3 ≤ n then BitVec.ofNat 256 old
  else BitVec.ofNat 256 (old - bits old (64 * n + 63) (64 * n) * 2 ^ (64 * n) + Nat.land v.toNat (arenaMask n) * 2 ^ (64 * n))

/-- The streams of a die, and one of them by its function's partition and index. -/
def State.strm (s : State) (p j : Nat) : Option Strm := (s.die (j % 4)).streams.find? fun t => t.part == p && t.j == j
def State.updStrm (s : State) (p j : Nat) (f : Strm → Strm) : State :=
  s.updDie (j % 4) fun d => { d with streams := d.streams.map fun (t : Strm) => if t.part = p ∧ t.j = j then f t else t }
/-- Entry fields of a stream table (R83). -/
def entryScb (v : Word) : Nat := bits v.toNat 56 6 * 64
def entryOn (v : Word) : Bool := v.getLsbD 0

/-- An entry of a stream table is written (R83): setting the flag makes the stream eligible for a slot, clearing it stops the stream at its next bundle
boundary. A stream that is enabled again begins with its contexts at their entry state (log 60). -/
def State.writeEntry (s : State) (part j : Nat) (v : Word) : State :=
  if 64 ≤ j then s
    else
      let s := s.updPart part fun p => { p with streams := SMap.set 0 p.streams j v }
      match s.strm part j with
      | none =>
        if entryOn v then
          s.updDie (j % 4) fun d => { d with streams := d.streams ++ [({ part := part, j := j, scb := entryScb v } : Strm)] }
        else s
      | some t =>
        if !entryOn v then s.updStrm part j fun t => { t with stopped := true }
        else if t.stopped ∨ t.scb ≠ entryScb v then
          if t.slot.isSome then s.updStrm part j fun t => { t with due := true, scb := entryScb v }
          else s.updStrm part j fun t => { t with scb := entryScb v, stopped := false, parked := false, loaded := false, sstat := 0 }
        else s

/-- The MSI-X mask of a function: a vector that is unmasked with its pending bit set is sent, under the standard (R79, R396). -/
def State.writeMask (s : State) (p : Nat) (v : Word) : State :=
  let x := s.part p
  let due := (List.range 64).filter fun n => x.msixPend.getLsbD n && !v.getLsbD n
  let s := s.updPart p fun x => { x with msixMask := v, msixPend := x.msixPend &&& v }
  due.foldl (fun s n => (s.msix p n).2) s

/-- A half of an entry of the MSI-X table (R79, R80): the address, or the data with the mask bit of the vector at bit 32. -/
def State.writeMsix (s : State) (p n h : Nat) (v : Word) : State :=
  let x := SMap.get (0, 0) (s.part p).msixTab n
  let s := s.updPart p fun y => { y with msixTab := SMap.set (0, 0) y.msixTab n (if h = 0 then (v, x.2) else (x.1, v)) }
  let m := BitVec.ofNat 64 (2 ^ n)
  if h = 0 then s else s.writeMask p (if v.getLsbD 32 then (s.part p).msixMask ||| m else (s.part p).msixMask &&& ~~~m)

/-- REGISTER_WRITE (R5): a device register is written, field by field under its access codes. -/
def execRegisterWrite (r : DevReg) (v : Word) (s : State) : Host.Outcome State Fault Refusal :=
  match r with
  | .fsc n => .next (s.updRouter n fun x => { x with
      comben := v.getLsbD 2, pairen := v.getLsbD 3, degraded := x.degraded && !v.getLsbD 4 })
  | .pwinLo n => .next (s.updRouter n fun x => { x with pwinLo := v &&& windowMask })
  | .pwinHi n => .next (s.updRouter n fun x => { x with pwinHi := v &&& windowMask })
  | .arena md p n => .next { s with arenas := SMap.set 0 s.arenas (arenaKey md p) (arenaWrite (s.arena md p) n v) }
  | .partDesc p n => .next (
      if n = 0 then s.writeDesc p v.toNat (s.descWord p 1)
      else if n = 1 then s.writeDesc p (s.descWord p 0 - b2n (s.part p).err * 2 ^ 25) v.toNat else s)
  | .devstate => .next (
      let s := if v.getLsbD 2 then s.clearLinkLoss else s
      let s := if v.getLsbD 3 then s.resumeAll else s
      if v.getLsbD 4 then s.goFull else s)
  | .hostFilter f w h => .next (
      let x := SMap.get (0, 0) s.filters (f * 64 + w % 64)
      { s with filters := SMap.set (0, 0) s.filters (f * 64 + w % 64) (if h = 0 then (v, x.2) else (x.1, v)) })
  | .msixMask p => .next (s.writeMask p v)
  | .bar2Base p => .next (s.updPart p fun x => { x with bar2 := v })
  | .streamEntry p j => .next (s.writeEntry p j v)
  | .msixEntry p n h => .next (s.writeMsix p (n % 64) h v)
  | .msixPend _ => .next s
  | .statusLog _ _ => .next s
  | .unlisted off => .fault (.unlistedRegister off)

/-! ### Registers in the MMIO range (R5, R141) -/

/-- The word that a register reads as. -/
def State.regRead (s : State) (r : DevReg) : Nat :=
  match r with
  | .fsc n => (s.router n).fsc
  | .pwinLo n => (s.router n).pwinLo.toNat
  | .pwinHi n => (s.router n).pwinHi.toNat
  | .arena md p n => bits (s.arena md p) (64 * n + 63) (64 * n)
  | .partDesc p n => s.descWord p n
  | .devstate => s.pkg.devstate
  | .hostFilter f w h => let x := SMap.get (0, 0) s.filters (f * 64 + w % 64); if h = 0 then x.1.toNat else x.2.toNat
  | .msixMask p => (s.part p).msixMask.toNat
  | .bar2Base p => (s.part p).bar2.toNat
  | .streamEntry p j => (SMap.get 0 (s.part p).streams j).toNat
  | .msixEntry p n h => let x := SMap.get (0, 0) (s.part p).msixTab (n % 64)
    if h = 0 then x.1.toNat else x.2.toNat % 2 ^ 32 + b2n ((s.part p).msixMask.getLsbD (n % 64)) * 2 ^ 32
  | .msixPend p => (s.part p).msixPend.toNat
  | .statusLog p n => ((s.part p).bar2log[n]?).getD 0
  | .unlisted _ => 0
/-- The RC fields that bytes `lo` to `hi` of a register hold clear as they are read: DROPS, HLDROP and FILTDROP, MISSCNT. -/
def State.regClear (s : State) (r : DevReg) (lo hi : Nat) : State :=
  match r with
  | .fsc n => if lo ≤ 3 ∧ 2 ≤ hi then s.updRouter n fun x => { x with drops := 0 } else s
  | .partDesc p 2 => s.updPart p fun x => { x with hldrop := if lo ≤ 3 then 0 else x.hldrop, filtdrop := if 4 ≤ hi then 0 else x.filtdrop }
  | .arena md p 3 => { s with arenas := SMap.set 0 s.arenas (arenaKey md p) (BitVec.ofNat 256 (s.arena md p % 2 ^ 192)) }
  | _ => s
/-- The register of a word of the MMIO range. -/
def regAt (pa : Nat) : Option DevReg := match Config.mmioReg (pa / 8) with
  | some (.unlisted _) => none
  | r => r
/-- The words that `n` bytes of the MMIO range touch: address, first and last byte in it. -/
def mmioWords (pa n : Nat) : List (Nat × Nat × Nat) :=
  (List.range ((pa % 8 + n + 7) / 8)).map fun j =>
    let a := (pa / 8 + j) * 8
    (a, pa - a, min 7 (pa + n - 1 - a))
/-- Bytes of the MMIO range as they read: those of no listed register are free values (log 9). -/
def State.mmioRead (s : State) (pa n : Nat) : List Byte :=
  ((mmioWords pa n).flatMap fun w =>
    let bs := leBytes 8 (match regAt w.1 with
      | some r => s.regRead r
      | none => (s.openWord (16 + w.1 % 4096)).toNat)
    (bs.take (w.2.2 + 1)).drop w.2.1)
def State.mmioClear (s : State) (pa n : Nat) : State :=
  (mmioWords pa n).foldl (fun s w => match regAt w.1 with
    | some r => s.regClear r w.2.1 w.2.2
    | none => s) s
/-- A store to the MMIO range writes each register that it covers whole (log 88). -/
def State.mmioWrite (s : State) (pa : Nat) (bs : List Byte) : State :=
  (mmioWords pa bs.length).foldl (fun s w => match regAt w.1 with
    | some r =>
      if w.2.1 = 0 ∧ w.2.2 = 7 then (match execRegisterWrite r (BitVec.ofNat 64 (leNat ((bs.drop (w.1 - pa)).take 8))) s with
        | .next s => s
        | _ => s)
      else s
    | none => s) s

end Sys2Proof.Machine
end

