-- ==== Sys2Proof/Machine/Home.lean ====
section
/-! DEFINITION. Transactions at the agents that perform them: loads, stores, atomics, objects, put with handler, slot tables; what
routers do on the way; the ports (R24-R49, R130, R147, R152-R157, R211, R368-R375). -/

namespace Sys2Proof.Machine

/-! ### The agents -/

/-- What an endpoint performs memory accesses on (R35, R36). -/
inductive Agent where
  | llc (md : Nat) | sp (k : Nat) | l2 (die : Nat) | host | mmio | none
  deriving DecidableEq, Repr

/-- The agent at an endpoint of this package; the odd core of a protected pair names the pair (R205). The L2 performs accesses of its own package's cores only. -/
def State.agentOf (s : State) (t : Txn) : Agent :=
  let e := t.dst
  if e.die < 4 then
    if e.ep < 40 then .sp (s.logical (40 * e.die + e.ep)) else if e.ep = 41 ∧ !s.foreign t then .l2 e.die else .none
  else if e.die < 12 then (if e.ep = 4 then .llc (e.die - 4) else .none)
  else if e.die = 12 ∧ e.ep = 32 then .host
  else if e.die = 12 ∧ e.ep = 34 then .mmio else .none

/-- HBM bytes that a transaction may reach (R39, R147). -/
def State.hbmOk (s : State) (t : Txn) (a n : Nat) : Bool := s.ownerOk t.ptag a && s.ownerOk t.ptag (a + (n - 1))

/-- Why an agent refuses `n` bytes of memory at an address, if it does (R39, R142, R147). -/
def State.refusal (s : State) (t : Txn) (a n : Nat) : Option Nat :=
  match s.agentOf t with
  | .llc md => if bits a 38 36 = md ∧ s.hbmOk t a n then none else some stPerm
  | .l2 _ => if 2 ^ 52 ≤ a ∨ s.hbmOk t a n then none else some stPerm
  | .sp k => if s.ptagOf k ≠ t.ptag then some stPerm else if spSize < a + n then some stMalformed else none
  | .mmio => if t.priv then none else some stPerm
  | .host => none
  | .none => some stMalformed

/-- Whether bytes lie in marked units (R211). -/
def State.marked (s : State) (t : Txn) (a n : Nat) : Bool :=
  match s.agentOf t with
  | .sp k => poisoned (s.core k).spPoison a n
  | .host => false
  | .mmio => false
  | _ => poisoned s.hbmPoison a n
/-- Mark the units that bytes touch (R211). -/
def State.mark (s : State) (t : Txn) (a n : Nat) : State :=
  let us := (List.range ((a % 16 + n + 15) / 16)).map (a / 16 + ·)
  match s.agentOf t with
  | .sp k => s.updCore k fun c => { c with spPoison := us ++ c.spPoison }
  | .host => s
  | .mmio => s
  | _ => { s with hbmPoison := us ++ s.hbmPoison }

/-- The context that issued a request of this package, and its stream. -/
def State.sourceOf (s : State) (t : Txn) : Option (Nat × Nat × Nat) := (s.reqOf t).map fun r => (r.core, r.ctx, r.stream)
def State.writerOf (s : State) (t : Txn) : Writer := match s.sourceOf t with
  | some x => .cx x.1 x.2.1
  | none => .other

/-- Dirty lines before an access at the home: those of the issuing die perform first and it keeps no clean copy (R164), those of others
may (R155). -/
def State.homeSync (s : State) (t : Txn) (a n : Nat) : State :=
  match s.agentOf t with
  | .llc _ => if !s.foreign t ∧ t.src.die < 4 then s.toHome t.src.die a n else s.syncLines 99 a n
  | _ => s

/-- The bytes that the agent holds. -/
def State.agentRead (s : State) (t : Txn) (a n : Nat) : List Byte :=
  match s.agentOf t with
  | .sp k => s.spRead k a n
  | .l2 d => s.viewRead d a n
  | _ => s.hbmRead a n
/-- Write bytes at the agent. -/
def State.agentWrite (s : State) (t : Txn) (a : Nat) (bs : List Byte) : State :=
  match s.agentOf t with
  | .sp k => s.spWrite k a bs (s.writerOf t)
  | .l2 d => s.l2Write d a t.ptag (s.sourceOf t) (s.writerOf t) bs
  | .llc _ => s.hbmWrite a bs (s.writerOf t)
  | _ => s

/-! ### LOAD and STORE -/

/-- A read of host memory goes to the host, or is answered POISON (R90, R95). -/
def State.hostLoad (s : State) (t : Txn) (n : Nat) : State :=
  let p := s.hostPart t
  if !s.pkg.linkUp then s.answer t stPoison
  else if !s.hostPass p t.addr n then (s.updPart p fun p => { p with filtdrop := satInc p.filtdrop }).answer t stPoison
  else s.tell (.hostRead p (t.addr % 2 ^ 52) n t.tag)

/-- REMOTE bytes that a LOAD at an L2 asks for and the L2 does not hold (R153, R155): its die. -/
def State.l2Miss (s : State) (t : Txn) : Option Nat :=
  match s.agentOf t with
  | .l2 d =>
    if decide (2 ^ 52 ≤ t.addr) && decide (t.subop ≤ 11) && !((List.range (2 ^ t.subop)).all fun j => (s.l2Held d (t.addr + j)).isSome) then some d
    else none
  | _ => none
/-- A transaction waits at its target, on the wire. -/
def State.keepWire (s : State) (t : Txn) : State := if (s.placeOnWire t).isSome then s else { s with wire := s.wire ++ [(0, t)] }
/-- The L2 reads those bytes at their home for the LOAD, which it answers with them (R155). -/
def State.l2Fetch (s : State) (die : Nat) (t : Txn) : State :=
  let r := s.reqOf t
  s.request { ty := tyLoad, ptag := t.ptag, src := s.l2Ep die, dst := llcEp (keyPkg t.addr) (keyPa t.addr), subop := t.subop,
              addr := keyPa t.addr }
    { id := 0, core := l2Core die, ctx := 0, unit := 25, op := 0, tag := 0, stream := 0, key := r.map (·.tag), loc := t.addr,
      size := 2 ^ t.subop, arg := BitVec.ofNat 64 ((r.map (·.core)).getD 0), fill := (r.map (·.fill)).getD 0 }
/-- A first-level cache of a core is filled with the lines of `n` bytes (R154). -/
def State.l1Fill (s : State) (k pa n ptag : Nat) : State :=
  s.updCore k fun c => { c with l1 := (linesOf pa n).foldl (fun c a => c.fill a ptag) c.l1 }
/-- A LOAD at an L2 fills the L2's lines of HBM, and without .bp those of its core's L1 (R154, R155). -/
def State.loadFills (s : State) (t : Txn) (n : Nat) : State :=
  match s.agentOf t with
  | .l2 d =>
    let s := if t.addr < 2 ^ 52 then s.updDie d fun d => { d with clean := (linesOf t.addr n).foldl (fun c a => c.fill a t.ptag) d.clean } else s
    match s.reqOf t with
    | some r => if r.fill = 2 then s.l1Fill r.core t.addr n t.ptag else s
    | none => s
  | _ => s

/-- A LOAD at the agent that performs it (R36, R147, R156, R211): the target answers with the bytes it holds. -/
def State.loadHere (s : State) (t : Txn) : State :=
  let n := 2 ^ t.subop
  if 11 < t.subop ∨ Txn.len t ≠ 0 then s.answer t stMalformed
  else match s.refusal t t.addr n with
    | some st => s.answer t st
    | none =>
      match s.agentOf t with
      | .host => s.hostLoad t n
      | .mmio => (s.mmioClear t.addr n).answer t stOk (s.mmioRead t.addr n)
      | _ =>
        let s := s.homeSync t t.addr n
        (s.answer t (if s.marked t t.addr n then stPoison else stOk) (s.agentRead t t.addr n)).loadFills t n

/-- LOAD (R36): an L2 that misses REMOTE bytes first sends what it holds dirty of their lines home, then reads the home for it. -/
def execLoadArrive (t : Txn) (s : State) : Host.Outcome State Fault Refusal :=
  let t := { t with ty := tyLoad }
  .next (match s.l2Miss t with
    | some d =>
      let dirty := s.remoteIn d t.addr (2 ^ t.subop)
      if !dirty.isEmpty then (s.remoteBack d dirty).keepWire t
      else if s.backsOn d t.addr (2 ^ t.subop) then s.keepWire t
      else s.arrive t fun s => s.l2Fetch d t
    | none => s.arriveAt t (s.agentOf t != .none) fun s => s.loadHere t)

/-- A store performs at its target (R36, R147, R156, R211): data known bad leaves its units marked. -/
def State.storeHere (s : State) (t : Txn) : State :=
  match s.agentOf t with
  | .host => s.hostWrite (s.hostPart t) t.addr t.payload false
  | .mmio => s.mmioWrite t.addr t.payload
  | _ =>
    let s := (s.homeSync t t.addr t.payload.length).agentWrite t t.addr t.payload
    if t.poison then s.mark t t.addr t.payload.length else s

/-- STORE (R36): the bytes perform at the target. -/
def execStoreArrive (t : Txn) (s : State) : Host.Outcome State Fault Refusal :=
  let t := { t with ty := tyStore }
  .next (s.arriveAt t (s.agentOf t != .none) fun s =>
    if 1 < t.subop ∨ t.payload.isEmpty then s.answer t stMalformed
    else match s.refusal t t.addr t.payload.length with
      | some st => s.answer t st
      | none => (s.storeHere t).answer t stOk)

/-! ### Routers (R26, R42-R48) -/

/-- The operand of an ATOMIC, and its constituents in order (R42). -/
def atOperand (t : Txn) : Nat := leNat (t.payload.take (subBytes t.subop))
def ownConst (t : Txn) : Constituent :=
  { src := t.src, stream := t.stream, seq := t.seq, tag := t.tag, operand := BitVec.ofNat 64 (atOperand t) }
def constsOf (t : Txn) : List Constituent := if t.constituents.isEmpty then [ownConst t] else t.constituents
/-- The transaction that two atomics make (R42): it takes the place of the earlier one. How the payload lists the constituents is log 77. -/
def combined (a b : Txn) : Txn :=
  Txn.withCrc { a with
    constituents := constsOf a ++ constsOf b,
    payload := leBytes (subBytes a.subop) (atomicNew a.subop (atOperand a) (atOperand b) 0) }
/-- Whether `b`, behind `a` in a queue, may join it (R42 conditions 3, 4 and 6). -/
def joinable (a b : Txn) : Bool :=
  a.ty == tyAtomic && b.ty == tyAtomic && a.addr == b.addr && a.dst == b.dst && a.ptag == b.ptag && a.subop == b.subop
  && decide (a.subop % 16 ≤ 9) && !subBad a.subop && decide ((constsOf a).length + (constsOf b).length ≤ 8)
/-- The ordering triples of a transaction: of each constituent of a combined atomic, or of its response (R40). -/
def triplesOf (t : Txn) : List Nat :=
  if t.constituents.isEmpty then [Txn.order t]
  else t.constituents.map fun c =>
    Txn.order (if t.ty = tyResp then { t with dst := c.src, stream := c.stream } else { t with src := c.src, stream := c.stream })
/-- The requests of this package that a transaction carries. -/
def State.reqsOf (s : State) (t : Txn) : List Req :=
  (constsOf t).filterMap fun c => s.reqOf { t with src := c.src, stream := c.stream, seq := c.seq }
/-- The locations that requests of contexts touch, for program order (R164). -/
def State.placesOf (s : State) (t : Txn) : List (Nat × Nat × Nat × Nat) :=
  (s.reqsOf t).filterMap fun r => if r.unit = 8 ∨ r.unit = 15 then some (r.core, r.ctx, r.loc, max 1 r.size) else none
/-- Two transactions touch one location for one context. -/
def State.samePlace (s : State) (a b : Txn) : Bool :=
  (s.placesOf a).any fun x => (s.placesOf b).any fun y =>
    x.1 == y.1 && x.2.1 == y.2.1 && decide (x.2.2.1 < y.2.2.1 + y.2.2.2) && decide (y.2.2.1 < x.2.2.1 + x.2.2.2)
/-- They belong to one triple, so that the later one stays behind (R40). -/
def sameTriple (a b : Txn) : Bool := (triplesOf a).any (triplesOf b).contains

/-- Both wait in the same queue of router `r`, from the same input to the same output (R42 condition 2). -/
def State.sameQueue (s : State) (r : Nat) (a t : Nat × Txn) : Bool :=
  let here := fun (x : Nat × Txn) => (s.routeOf x.2).contains r && decide (x.1 ≤ indexIn r (s.routeOf x.2) + 1)
  here a && here t && s.inputAt a.2 r == s.inputAt t.2 r && s.outputAt a.2 r == s.outputAt t.2 r
/-- The atomic ahead of `t` in its queue of router `r` that it may join, none of `t`'s triple or place lying between (R42 conditions 2
and 5, R164). -/
def State.earlier (s : State) (r : Nat) (t : Nat × Txn) : Option (Nat × Txn) → List (Nat × Txn) → Option (Nat × Txn)
  | a, [] => a
  | a, x :: l =>
    if x = t then a
    else
      let a := if sameTriple x.2 t.2 || s.samePlace x.2 t.2 then none else a
      s.earlier r t (if a.isNone && joinable x.2 t.2 && s.sameQueue r x t then some x else a) l
/-- Records of returning atomics in a router other than those of `t` (R42 condition 7). -/
def Router.records (r : Router) (t : Txn) : Nat :=
  (r.combine.filter fun x => !bitOf x.2.1.subop 5 && !(Txn.triple x.2.1 == Txn.triple t && x.2.1.seq == t.seq)).length

/-- The record of a combined atomic goes wherever it is. -/
def recordOf (t : Txn) (x : Nat × Txn × List Constituent) : Bool :=
  Txn.triple x.2.1 == Txn.triple t && x.2.1.seq == t.seq
def State.dropRecord (s : State) (t : Txn) : State :=
  { s with routers := s.routers.map fun (x : Nat × Router) => (x.1, { x.2 with combine := x.2.combine.filter fun c => !recordOf t c }) }

/-- Two atomics that wait in one queue of a router combine (R42). -/
def State.combineAt (s : State) (r : Nat) (t : Txn) : State :=
  let x := s.router r
  match s.placeOnWire t with
  | none => s
  | some n => match s.earlier r (n, t) none s.wire with
    | none => s
    | some a =>
      if !x.comben || s.onCircuit t || s.onCircuit a.2 || (!bitOf a.2.subop 5 && decide (16 ≤ x.records a.2)) || s.holds t then s
      else
        let c := combined a.2 t
        let s := (s.dropRecord a.2).dropRecord t
        let s := s.updRouter r fun x => { x with combine := x.combine ++ [(0, c, c.constituents)] }
        { s with wire := takeWire t (replaceWire a [(indexIn r (s.routeOf a.2) + 1, c)] s.wire) }

/-- An atomic at its home (R41, R43, R211): its constituents perform in list order with nothing between them. -/
def State.atomicHome (s : State) (t : Txn) : State :=
  let n := subBytes t.subop
  if subBad t.subop ∨ t.payload.isEmpty ∨ 16 < t.payload.length then s.answer t stMalformed
  else match s.refusal t t.addr n with
    | some st => s.answer t st
    | none =>
      let s := s.homeSync t t.addr n
      if s.marked t t.addr n then s.answer t stPoison
      else
        let old := leNat (s.agentRead t t.addr n)
        let c := leNat ((t.payload.drop n).take n)
        let new := (constsOf t).foldl (fun v x => atomicNew t.subop v (x.operand.toNat % 2 ^ (8 * n)) c) old
        (s.agentWrite t t.addr (leBytes n new)).answer t stOk (if bitOf t.subop 5 then [] else leBytes n old)

/-- ATOMIC (R41-R43): at a router it may combine with one ahead of it; at its home it performs. -/
def execAtomicArrive (at_ : Option Nat) (t : Txn) (s : State) : Host.Outcome State Fault Refusal :=
  let t := { t with ty := tyAtomic }
  match at_ with
  | some r => .next (s.combineAt r t)
  | none => .next (s.arriveAt t (match s.agentOf t with
      | .llc _ => true
      | .sp _ => true
      | _ => false) fun s => s.atomicHome t)

/-- The pairing window of a class (R33). -/
def Router.window (r : Router) (c : Nat) : Nat :=
  let w := if c < 8 then r.pwinLo else r.pwinHi
  bits w.toNat (8 * (c % 8) + 5) (8 * (c % 8))
/-- The oldest held operation that pairs with an arrival (R45 case 1). -/
def opposite (t : Txn) (h : Txn × Nat) : Bool :=
  h.1.ty != t.ty && h.1.addr == t.addr && h.1.dst.pkg == t.dst.pkg && h.1.ptag == t.ptag

/-- A PUSH or POP is forwarded by router `r` toward its home. -/
def State.passRouter (s : State) (r : Nat) (t : Txn) : State :=
  let n := indexIn r (s.routeOf t) + 1
  match s.placeOnWire t with
  | some m => { s with wire := replaceWire (m, t) [(n, t)] s.wire }
  | none => { s with wire := s.wire ++ [(n, t)] }
/-- A PUSH or POP arrives at a router of its route (R45-R47): after the hold rule, the first case of Table 7 that applies. -/
def State.pairAt (s : State) (r : Nat) (t : Txn) : State :=
  let x := s.router r
  let w := x.window t.oclass
  if s.holdsAt r t then s.holdRule t
  else if !(s.routeOf t).contains r then s
  else if !Txn.admissible t then (s.unwire t).drop (s.firstRouter t)
  else if !(t.otype == 2 || t.otype == 3) || !x.pairen || w == 0 then s.passRouter r t
  else match x.held.find? (opposite t) with
    | some h =>
      let s := (s.unwire t).updRouter r fun y => { y with held := y.held.erase h }
      let push := if t.ty = tyPush then t else h.1
      let pop := if t.ty = tyPush then h.1 else t
      (s.answer push stOk).answer pop (if push.poison then stPoison else stOk) push.payload
    | none =>
      if t.held ∨ 32 ≤ x.held.length then s.passRouter r t
      else (s.unwire t).updRouter r fun y => { y with held := y.held ++ [({ t with held := true }, w)] }

/-! ### Objects at their home (R368, R370) -/

/-- An object operation at its home. -/
def State.objHome (s : State) (t : Txn) : State :=
  match s.refusal t t.addr 64 with
  | some st => s.answer t st
  | none =>
    let s := s.homeSync t t.addr 64
    let h := s.agentRead t t.addr 64
    let otype := objNat h 1 0
    let e := objNat h 8 6
    let n := 2 ^ e
    let cap := objNat h 95 64
    let head := objNat h 159 128
    let count := objNat h 191 160
    let elem := fun i => t.addr + 64 + i * n
    if s.marked t t.addr 64 then s.answer t stPoison
    else if otype = 0 ∨ e < 3 ∨ 6 < e ∨ cap = 0 ∨ t.otype ≠ otype ∨ t.oclass ≠ objNat h 5 2 then s.answer t stObjtype
    else if t.subop < 3 ∨ 6 < t.subop ∨ Txn.len t ≠ (if t.ty = tyPush then (2 ^ t.subop + 15) / 16 else 0) then s.answer t stMalformed
    else if t.ty = tyPush then
      if count = cap then s.answer t stFull
      else
        let a := elem (if otype = 1 then (head + count) % cap else count)
        match s.refusal t a n with
        | some st => s.answer t st
        | none =>
          let s := (s.homeSync t a n).agentWrite t a ((t.payload ++ List.replicate n 0).take n)
          let s := if t.poison then s.mark t a n else s
          (s.agentWrite t (t.addr + 20) (leBytes 4 (count + 1))).answer t stOk
    else if count = 0 then s.answer t stEmpty
    else
      let a := elem (if otype = 1 then head else count - 1)
      match s.refusal t a n with
      | some st => s.answer t st
      | none =>
        let s := s.homeSync t a n
        if s.marked t a n then s.answer t stPoison
        else
          let el := s.agentRead t a n
          let s := if otype = 1 then s.agentWrite t (t.addr + 16) (leBytes 4 ((head + 1) % cap)) else s
          (s.agentWrite t (t.addr + 20) (leBytes 4 (count - 1))).answer t stOk el

/-- An object operation reaches its home, the LLC or a scratchpad. -/
def State.objArrive (s : State) (t : Txn) : State :=
  s.arriveAt t (match s.agentOf t with
    | .llc _ => true
    | .sp _ => true
    | _ => false) fun s => s.objHome t

/-- PUSH (R45, R370): at a router it may pair or be held; at its home it pushes. -/
def execPushArrive (at_ : Option Nat) (t : Txn) (s : State) : Host.Outcome State Fault Refusal :=
  let t := { t with ty := tyPush }
  match at_ with
  | some r => .next (s.pairAt r t)
  | none => .next (s.objArrive t)

/-- POP (R45, R370): at a router it may pair or be held; at its home it pops. -/
def execPopArrive (at_ : Option Nat) (t : Txn) (s : State) : Host.Outcome State Fault Refusal :=
  let t := { t with ty := tyPop }
  match at_ with
  | some r => .next (s.pairAt r t)
  | none => .next (s.objArrive t)

/-- PAIRING_WINDOW_EXPIRE (R46): a held operation goes on toward its home. Which one of several is a free value: the windows of
their classes differ. -/
def execPairingWindowExpire (router : Nat) (s : State) : Host.Outcome State Fault Refusal :=
  .next (match (s.router router).held[(s.openWord 3).toNat % max 1 (s.router router).held.length]? with
    | some h =>
      let s := s.updRouter router fun x => { x with held := x.held.erase h }
      { s with wire := s.pastRouter router h :: s.wire }
    | none => s)

/-! ### PUTH (R130, R375) -/

/-- The core that receives a PUTH for core `k` (R130 step 1); a protected pair is its even core (R205). -/
def State.handlerCore (s : State) (k : Nat) : Nat :=
  let m := (s.cluster (clusterOf k)).clhnd.toNat
  if m = 0 ∨ bitOf m (k % 8) then k
  else
    let cs := ((List.range 8).filter (bitOf m)).map fun j => s.logical (8 * (k / 8) + j)
    let most := (cs.map fun c => 4 - (s.core c).acts.length).foldl max 0
    (cs.find? fun c => 4 - (s.core c).acts.length == most).getD k

/-- PUTH (R130): the chosen core reserves a queue entry and takes the payload; the answer comes when the handler returns. -/
def execPuthArrive (t : Txn) (s : State) : Host.Outcome State Fault Refusal :=
  let t := { t with ty := tyPuth }
  .next (s.arriveAt t (match s.agentOf t with
      | .sp _ => true
      | _ => false) fun s =>
    let k := s.handlerCore (s.logical (40 * t.dst.die + t.dst.ep))
    let n := (t.payload.length - 1) / 16 * 16
    if 3 ≤ t.subop ∨ t.payload.length < 8 then s.answer t stMalformed
    else if s.ptagOf k ≠ t.ptag then s.answer t stPerm
    else if 4 ≤ (s.core k).acts.length then s.answer t stRefused
    else if spSize < t.addr + n then s.answer t stMalformed
    else
      let s := s.spWrite k t.addr (t.payload.take n) (s.writerOf t)
      let s := if t.poison then s.mark { t with dst := ⟨t.dst.pkg, k / 40, k % 40⟩ } t.addr n else s
      s.updCore k fun c => { c with
        acts := c.acts ++ [{ txn := t, handler := BitVec.ofNat 64 (leNat ((t.payload.drop n).take 8)), addr := BitVec.ofNat 64 t.addr,
                             len := n, hint := t.subop }] })

/-! ### Slot tables (R27, R31, R32) -/

/-- The entries of a SLOTCTL payload, 40 bytes each, and its swap tick after them. -/
def slotEntries (bs : List Byte) : List (Nat × Nat) :=
  (List.range ((bs.length - 8) / 40)).map fun j =>
    (leNat ((bs.drop (40 * j)).take 1), leNat ((bs.drop (40 * j + 8)).take 32) % 2 ^ 192)
def slotTick (bs : List Byte) : Nat := leNat ((bs.drop ((bs.length - 8) / 40 * 40)).take 8)
/-- SLOTCTL (R31): a router writes entries into its inactive bank and arms its swap; through privileged paths only. -/
def execSlotctl (t : Txn) (s : State) : Host.Outcome State Fault Refusal :=
  let t := { t with ty := tySlotctl }
  .next (s.arrive t fun s =>
    let r := t.dst.die
    let es := if bitOf t.subop 0 then slotEntries t.payload else []
    if !t.priv then s.answer t stPerm
    else if 4 ≤ t.subop ∨ t.payload.length < 8 then s.answer t stMalformed
    else if es.any fun e => badEntry e.2 then s.answer t stBadtable
    else
      (s.writeSlots r es (if bitOf t.subop 1 then some (slotTick t.payload) else none)).answer t stOk)

/-- The swap of a router is due: the tick that its command named has come. -/
def State.swapDue (s : State) (r : Nat) : Bool := match (s.router r).swapTick with
  | some t => decide (t ≤ s.pkg.ticks)
  | none => false

/-- SLOT_BANK_SWAP (R31): at the first slot 0 after the tick the banks swap. -/
def execSlotBankSwap (router : Nat) (s : State) : Host.Outcome State Fault Refusal :=
  .next (if s.swapDue router then s.updRouter router fun x => { x with actBank := !x.actBank, swapTick := none } else s)

/-- FSC_DROPS_READ (R32): a read of FSC returns it and clears DROPS. -/
def execFscDropsRead (router : Nat) (s : State) : Host.Outcome State Fault Refusal :=
  .next ((s.tell (.completion stOk (leBytes 8 (s.router router).fsc))).updRouter router fun x => { x with drops := 0 })

/-! ### Ports (R12, R14, R24, R76) -/

/-- A lane of a port is to be swapped for the spare; which one fails is a free value (log 9). -/
def State.holdLane (s : State) (port : Nat) : State :=
  if (s.port port).swap.isSome then s else s.updPort port fun p => { p with swap := some ((s.openWord 12).toNat % 8) }
/-- LINK_REPLAY (R24): a flit that fails its link check is replayed; nothing is dropped, and the SMC counts it. Whether the replays pass
1 in 10^6 flits, so that the lane is to be swapped (R212), is a free value, as flits are not counted here. -/
def execLinkReplay (port : Nat) (s : State) : Host.Outcome State Fault Refusal :=
  .next (let s' := (s.updPort port fun p => { p with replays := p.replays + 1 }).log (.lane port 0)
    if s.choose 81 then s'.holdLane port else s')

/-- A port goes to 4 lanes at half rate (R12, R24): DEGRADED is set. -/
def State.halfRate (s : State) (port : Nat) : State :=
  ((s.updPort port fun p => { p with half := true, swap := none }).updRouter (switchOf port) fun r => { r with degraded := true }).log (.lane port 2)

/-- The spare lane of a port takes the failing lane's place; with the spare used the port goes to half rate (R12). -/
def State.takeLane (s : State) (port : Nat) : State :=
  match (s.port port).swap with
  | some l =>
    if (s.port port).lane.isSome then s.halfRate port
    else (s.updPort port fun p => { p with lane := some l, swap := none }).log (.lane port 1)
  | none => s
/-- LIVE_LANE_SWAP (R14): at a frame boundary the failing lane is re-mapped. -/
def execLiveLaneSwap (port : Nat) (s : State) : Host.Outcome State Fault Refusal := .next (if s.pkg.swapReady then s.takeLane port else s)

/-- PORT_HALF_RATE (R24): a lane beyond the spare fails. -/
def execPortHalfRate (port : Nat) (s : State) : Host.Outcome State Fault Refusal := .next (s.halfRate port)

/-- SHEVIS_LINK_LOSS (R21, R76): a peer is lost; the coordinator learns of it from the logs. -/
def execShevisLinkLoss (port : Nat) (s : State) : Host.Outcome State Fault Refusal :=
  .next ((s.updPort port fun p => { p with up := false }).log (.lane port 3))

end Sys2Proof.Machine
end

