-- ==== Sys2Proof/Machine/Answer.lean ====
section
/-! DEFINITION. Responses: what a source does with each, resends, and the split of combined ones (R36-R40, R43). -/

namespace Sys2Proof.Machine

/-! ### What waits for an answer -/

/-- The trap of an access that was answered other than OK: PERM, or UE for POISON and whatever else (R36 Table 6, R356). -/
def answerTrap (va status : Nat) : TrapInfo := if status = stPerm then permTrap va 4 else poisonTrap va

/-- Bytes of a response as a value at byte `off`. -/
def bytesAt (bs : List Byte) (n off : Nat) : Val := natVal (leNat (bs.take n) * 256 ^ off)

/-- A piece of a load has come (R355, R356): with the last one the result is there. A retry of the open segment finds it too (R203). -/
def State.loadAnswer (s : State) (r : Req) (status : Nat) (bs : List Byte) : State :=
  let key := r.key.getD 0
  let last := !s.waiting key
  let v := if status = stOk then bytesAt bs r.size r.off else 0
  let bad : Option TrapInfo := if status = stOk then none else some (answerTrap r.va status)
  let full := fun (x : Val) => if last then extendLoad r.sign r.arg.toNat (x ||| v) else x ||| v
  let s := s.updResult r.core r.ctx 8 r.b key fun q => { q with done := last, val := full q.val, fault := q.fault.or bad }
  let one := fun (f : Flight) => { f with val := full f.val, fault := f.fault.or bad, tag := if last then none else f.tag }
  let mine := fun (f : Flight) => f.unit == 8 && f.tag == some key
  let s := ((s.cx r.core r.ctx).flights.filter mine).foldl (fun (s : State) f => s.noteArrived r.core r.ctx (one f)) s
  let s := s.updCx r.core r.ctx fun c => { c with flights := c.flights.map fun f => if mine f then one f else f }
  match r.acq with
  | some sc => if last ∧ status = stOk then s.acquired r.core sc else s
  | none => s

/-- A non-returning operation is answered (R117, R181, R356). A write-back that no context is known to have stored is logged. -/
def State.storeAnswer (s : State) (r : Req) (status : Nat) : State :=
  if status = stOk then s else if goneCore ≤ r.core then s.log (.drop 0 0) else s.addFailed r.core r.ctx status r.addr r.stream

/-- The caches are filled with REMOTE bytes that the L2 of a die has read (R154, R155): not where the line has been written since. -/
def State.remoteFill (s : State) (die : Nat) (r : Req) (bs : List Byte) : State :=
  if r.fill = 0 ∨ !(s.remoteIn die r.loc r.size).isEmpty ∨ s.backsOn die r.loc r.size then s
  else
    let p := s.ptagOf r.arg.toNat
    let s := s.updDie die fun d => { d with clean :=
      { lines := ((linesOf r.loc r.size).foldl (fun (c : Clean) a => c.fill a p) d.clean).lines,
        copy := (List.range r.size).foldl (fun (m : SMap Byte) j =>
          if (SMap.find m (r.loc + j)).isSome then m else SMap.put m (r.loc + j) (bs.getD j 0)) d.clean.copy } }
    if r.fill = 2 then s.l1Fill r.arg.toNat r.loc r.size p else s
/-- A read of the L2 is answered: for a prefetch it only fills; the LOAD that it was made for is answered, with what the L2 holds by now
where it holds anything (R155). -/
def State.l2Answer (s : State) (r : Req) (status : Nat) (bs : List Byte) : State :=
  let die := r.core - l2Core 0
  let s := if status = stOk then s.remoteFill die r bs else s
  match r.key.bind fun u => s.outst.find? fun o => o.uid == u with
  | some o => s.answer o.txn status (if status = stOk then (List.range r.size).map fun j => (s.l2Held die (r.loc + j)).getD (bs.getD j 0) else [])
  | none => s

/-- The entry that an engine's request belongs to holds a fault (R332). -/
def State.engineFault (s : State) (r : Req) (t : TrapInfo) : State :=
  let id := r.key.getD 0
  let put := fun (q : List QEntry) => q.map fun (e : QEntry) => if e.id = id then { e with fault := some t } else e
  match r.unit with
  | 11 => s.updCore r.core fun c => { c with mxq := put c.mxq, gq := put c.gq }
  | 12 => s.attFault r.core id t
  | 13 => match (s.core r.core).cpq.find? fun e => e.id == id with
    | some e => s.copyFault r.core e r.va t
    | none => s
  | _ => match (s.cx r.core r.ctx).sysq.find? fun e => e.id == id with
    | some e => s.sysDone r.core r.ctx e 0 (some t)
    | none => s

/-- Bytes that an engine fetched are there for its entry. -/
def State.putFetched (s : State) (r : Req) (bs : List Byte) : State :=
  let put := fun (m : SMap Byte) j => SMap.put m (bufKey r.unit r.loc + j) (bs.getD j 0)
  s.updCore r.core fun c => { c with rbuf := (List.range r.size).foldl put c.rbuf }

/-- A fetch of an engine is answered: a copy moves a mark with the data (R211); checkpoint operations note what failed (R215). -/
def State.fetchDone (s : State) (r : Req) (status : Nat) (bs : List Byte) : State :=
  let e := (s.core r.core).cpq.find? fun e => e.id == r.key.getD 0
  let op : Nat := (e.map fun (x : QEntry) => x.op).getD 0
  if status = stOk then s.putFetched r bs
  else if r.unit = 13 ∧ (op = 8 ∨ op = 0x0A) then s.updCpq r.core (r.key.getD 0) fun x => { x with aux := [status] }
  else if r.unit = 13 ∧ status = stPoison then
    let bs := if bs.length = r.size then bs else leBytes r.size (s.openWord 4).toNat
    (s.putFetched r bs).updCpq r.core (r.key.getD 0) fun x => { x with aux := [1] }
  else s.engineFault r (answerTrap r.va status)

/-- A write of an engine is answered: a refused unit of a copy was not delivered (R361). -/
def State.writeDone (s : State) (r : Req) (status : Nat) : State :=
  let id := r.key.getD 0
  if status = stOk then s
  else match r.unit with
    | 13 => match (s.core r.core).cpq.find? fun e => e.id == id with
      | some e =>
        if e.op = 8 ∨ e.op = 0x0A then s.updCpq r.core id fun x => { x with aux := [status] }
        else
          let e := { e with prog := e.prog - 16 }
          (s.updCpq r.core id fun _ => e).copyFault r.core e r.va (answerTrap r.va status)
      | none => s
    | 16 => s.storeAnswer r status
    | _ => s.engineFault r (answerTrap r.va status)

/-- An ATTREQ of the attention queue is answered (R347 to R350). -/
def State.attAnswer (s : State) (r : Req) (status gen : Nat) : State :=
  let id := r.key.getD 0
  if r.op = 3 then
    if status = stStale then s.updCore r.core fun c => { c with
      tags := c.tags.map fun (t : AttTag) => if t.entry = id ∧ !t.done then { t with done := true, staleGen := some gen } else t }
    else s
  else s.updAtq r.core id fun e => { e with aux := e.aux ++ [ansWord r.arg.toNat status gen] }

/-- The copy queue's add to a barrier is answered (R378): the last copy of a phase writes the next; the copy leaves its queue. -/
def State.boundAnswer (s : State) (r : Req) (status old : Nat) : State :=
  match (s.core r.core).cpq.find? fun e => e.id == r.key.getD 0 with
  | none => s
  | some e =>
    let s := if status ≠ stOk then s.addFailed r.core e.ctx status r.addr r.stream
      else if barPend old = 1 ∧ barArr old = barCount old then s.sendBarStore r.core e.id r.loc (leBytes 8 (barNext old)) else s
    s.popCpy r.core e

/-- A result of the queue unit that several STOREs make (R373, R378): the first status other than OK, once all are answered. -/
def State.storesDone (s : State) (r : Req) (status : Nat) : State :=
  let key := r.key.getD 0
  let st := if r.arg = 0 then status else r.arg.toNat
  if s.waiting key then
    { s with reqs := s.reqs.map fun (x : Req) => if x.key = some key ∧ x.arg = 0 then { x with arg := BitVec.ofNat 64 st } else x }
  else s.quDeliver r.core r.ctx key 0 (natVal st)

/-- A read for a context that waits is answered (R363, R371). -/
def State.peekAnswer (s : State) (r : Req) (status : Nat) (bs : List Byte) : State :=
  match (s.cx r.core r.ctx).pause with
  | .peek _ _ slot va =>
    if status = stOk then s.updCx r.core r.ctx fun c => { c with peek := (r.loc, bs.take r.size) :: c.peek, pause := .none }
    else s.trapCx r.core r.ctx { answerTrap va status with slot := slot }
  | _ => s

/-- A read of a barx that waits is answered (R378). -/
def State.barAnswer (s : State) (r : Req) (status : Nat) (bs : List Byte) : State :=
  match s.reqs.find? fun x => some x.id == r.key && x.op == 0x11 with
  | none => s
  | some q =>
    if status = stOk then s.barxLook q bs
    else { s with reqs := s.reqs.filter fun (x : Req) => x.id != q.id }.quAnswer q.core q.ctx (q.key.getD 0) q.va status 0

/-- A read of a monitored wait is answered (R376). -/
def State.mwaitAnswer (s : State) (r : Req) (status : Nat) (bs : List Byte) : State :=
  match s.monitorOf r.core r.ctx with
  | some m =>
    if some m.id ≠ r.key then s
    else if status ≠ stOk then
      (s.mwaitEnd m 0 r.off).deliver m.core m.ctx 15 0 m.id 0 (some (answerTrap (tgtKey m.tgt) status))
    else if r.off = 3 ∧ !s.choose 78 then s else s.mwaitEnd m (leNat (bs.take 8)) r.off
  | none => s

/-- An answer to a queue unit's request (R370 to R378). -/
def State.quResp (s : State) (r : Req) (status : Nat) (bs : List Byte) : State :=
  let id := r.key.getD 0
  let old := leNat (bs.take 8)
  match r.op with
  | 4 => s.quAnswer r.core r.ctx id r.va status 0
  | 5 =>
    let el := if r.ctx = 1 ∨ r.ctx = 2 then leNat bs % 2 ^ 64 else leNat bs
    s.quAnswer r.core r.ctx id r.va status (if status = stEmpty then 0 else natVal el)
  | 8 => s.storeAnswer r status
  | 0x0C => s.tdecAnswer r status old
  | 0x0B => s.storesDone r status
  | 0x12 => s.storesDone r status
  | 0x0D => s.quDeliver r.core r.ctx id 0 (natVal status)
  | 0x0F => s.barArrived r status old
  | 0x11 => s.barArrived r status old
  | 0x40 => s.peekAnswer r status bs
  | 0x41 => s.barAnswer r status bs
  | 0x42 => s.mwaitAnswer r status bs
  | _ =>
    let s := s.quAnswer r.core r.ctx id r.va status (natVal (leNat (bs.take r.size)))
    match r.acq with
    | some sc => if status = stOk then s.acquired r.core sc else s
    | none => s

/-- The request that a response answers is done: whoever waits for it goes on. -/
def State.answered (s : State) (r : Req) (ty status gen : Nat) (bs : List Byte) : State :=
  match r.unit with
  | 8 => if r.key.isSome ∧ ty = tyLoad then s.loadAnswer r status bs else s.storeAnswer r status
  | 15 => s.quResp r status bs
  | 20 => s.appendAnswer (r.key.getD 0) r.op status gen bs
  | 21 => s.fetchAnswer (r.key.getD 0) r.arg.toNat status bs
  | 22 => s.fetchAnswer (r.key.getD 0) r.arg.toNat status bs
  | 23 =>
    if status = stOk then s
    else match r.launch with
      | some l => s.logDrop l
      | none => s.log (.drop 0 0)
  | 24 => s.ckptAnswer (r.key.getD 0) status
  | 25 => s.l2Answer r status bs
  | u =>
    if r.op = 1 then s.fetchDone r status bs
    else if r.op = 2 then s.writeDone r status
    else if u = 12 then s.attAnswer r status gen
    else if u = 13 ∧ r.op = 7 then s.boundAnswer r status (leNat (bs.take 8))
    else if u = 16 then
      (if status = stOk then s
       else s.updSysq r.core r.ctx (r.key.getD 0) fun e => { e with aux := e.aux ++ [status + 16 * r.arg.toNat] })
    else s

/-! ### Responses and resends (R36, R38) -/

/-- A request has its answer; vectors that waited for it go (R86). -/
def State.settleReq (s : State) (o : Outst) (status gen : Nat) (bs : List Byte) : State :=
  let s := { s with outst := s.outst.filter fun (x : Outst) => x.uid != o.uid }
  match s.reqs.find? fun r => r.tag == o.uid with
  | none => s
  | some r => ({ s with reqs := s.reqs.filter fun (x : Req) => x.id != r.id }.answered r o.txn.ty status gen bs).sendIrqs

/-- A request is sent again, or given up after 3 resends (R38): its data is delivered with POISON set, and it receives POISON. -/
def State.resend (s : State) (o : Outst) : State :=
  let s := s.unwire o.txn
  if 3 ≤ o.resends then (s.settleReq o stPoison 0 []).launchTxn (Txn.withCrc { o.txn with poison := true })
  else
    { s with outst := s.outst.map fun (x : Outst) => if x.uid = o.uid then { x with resends := x.resends + 1 } else x }.launchTxn o.txn

/-- A response answers a request. -/
def answers (o : Outst) (t : Txn) : Bool :=
  t.ty == tyResp && o.txn.src == t.dst && o.txn.dst == t.src && o.txn.stream == t.stream && o.txn.seq == t.seq && o.txn.tag == t.tag
/-- The check failed at the destination, or no answer came: every request of the triple from this one on that is not answered in the
network is sent again, in order (R38). -/
def State.resendFrom (s : State) (o : Outst) : State :=
  (s.outst.filter fun (x : Outst) => Txn.triple x.txn == Txn.triple o.txn && decide (o.uid ≤ x.uid)
    && (x.uid == o.uid || !(s.wire.any fun w => answers x w.2))).foldl State.resend s

/-- A response at its source (R38). A reserved status is POISON. -/
def State.respond (s : State) (t : Txn) : State :=
  match s.outst.find? fun o => answers o t with
  | none => s
  | some o => if t.status = stCrcerr then s.resendFrom o else s.settleReq o (if 11 ≤ t.status then stPoison else t.status) t.gen t.payload

/-- The answers that a combined atomic's constituents get (R43): `old` and the operands before each. -/
def splitAnswers (t : Txn) (sub status : Nat) : Nat → List Constituent → List Txn
  | _, [] => []
  | v, c :: r =>
    let ret := status == stOk && !bitOf sub 5
    Txn.withCrc { t with constituents := [], dst := c.src, stream := c.stream, seq := c.seq, tag := c.tag,
                         payload := if ret then leBytes (subBytes sub) v else [] }
      :: splitAnswers t sub status (atomicNew sub v (c.operand.toNat % 2 ^ (8 * subBytes sub)) 0) r

/-- A combined atomic is sent again by the router that made it, its source (R37, R38); after 3 resends its data is delivered with POISON
set, and its constituents receive POISON. -/
def State.resendCombined (s : State) (n : Nat) (c : Txn) (cs : List Constituent) : State :=
  let s := s.unwire c
  if 3 ≤ n then
    (splitAnswers (respTo c stPoison [] 0) c.subop stPoison 0 cs).foldl State.launchTxn
      ((s.dropRecord c).launchTxn (Txn.withCrc { c with poison := true }))
  else
    { s with routers := s.routers.map fun (x : Nat × Router) => (x.1, { x.2 with
        combine := x.2.combine.map fun y => if recordOf c y then (y.1 + 1, y.2) else y }) }.launchTxn c
/-- The combine records of all routers. -/
def State.records (s : State) : List (Nat × Txn × List Constituent) := s.routers.flatMap fun (x : Nat × Router) => x.2.combine
/-- A response to a combined atomic at the router that combined it (R43): it is split; after a failed check the router sends
the atomic again (R38). With its record gone nothing is sent on (R48). -/
def State.splitResp (s : State) (t : Txn) : State :=
  match s.records.find? (recordOf { t with src := t.dst, dst := t.src }) with
  | none => s
  | some (n, c, cs) =>
    if t.status = stCrcerr then s.resendCombined n c cs
    else (splitAnswers t c.subop t.status (leNat (t.payload.take (subBytes c.subop))) cs).foldl State.launchTxn (s.dropRecord c)

/-- RESP (R38, R43): at the router that combined, the split; at the source of the request, its answer. A response that fails the
check, or that no request waits for, is discarded. -/
def execRespArrive (at_ : Option Nat) (t : Txn) (s : State) : Host.Outcome State Fault Refusal :=
  let t := { t with ty := tyResp }
  .next (s.enterPkg t fun s =>
    if !Txn.crcOk t then s
    else if at_.isSome ∨ !t.constituents.isEmpty then s.splitResp t else s.respond t)

/-- RESPONSE_TIMEOUT (R38): 100 us without a RESP count as a failed check, at a source or at a router that has combined (R37). -/
def execResponseTimeout (k : Nat) (s : State) : Host.Outcome State Fault Refusal :=
  .next (match s.outst[k]?, s.records[k - s.outst.length]? with
    | some o, _ => s.resendFrom o
    | none, some (n, c, cs) => s.resendCombined n c cs
    | none, none => s)

end Sys2Proof.Machine
end

