-- ==== Sys2Proof/Machine/Streams.lean ====
section
/-! DEFINITION. Command streams (R83-R85, R113): the stream table, mapping to slots, TAIL and its errors. -/

namespace Sys2Proof.Machine

/-- STREAM_TABLE_WRITE (R83): an entry of a function's stream table is written. -/
def execStreamTableWrite (part j : Nat) (v : Word) (s : State) : Host.Outcome State Fault Refusal := .next (s.writeEntry part j v)

/-! ### Slots (R113) -/

/-- Slots that partitions are granted on a die, in index order until the 64 are used up; the rest is the PF's. -/
def State.granted (s : State) : Nat → Nat
  | 0 => min 64 (s.part 0).nslots
  | n + 1 => min (64 - ((List.range (n + 1)).map fun q => (s.part q).nslots).sum) (if n + 1 < 16 then (s.part (n + 1)).nslots else 64)

/-- HEAD of a stream, which its SCB holds before it is first mapped. -/
def State.headOf (s : State) (t : Strm) : Option Nat := if t.loaded then some t.head else s.sysWord (t.j % 4) t.ptag (t.scb + 24)
/-- TAIL, which a read with an acquire of system scope takes from its home (R84, R177). -/
def State.tailOf (s : State) (t : Strm) : Option Nat := (s.evictAll (t.j % 4)).sysWord (t.j % 4) t.ptag (t.scb + 16)
/-- The partition of a stream serves: it is enabled and neither fenced nor stopped by a link loss (R82, R87, R90, R93). -/
def State.streamOn (s : State) (t : Strm) : Bool :=
  let p := s.part t.ptag
  (t.part == 16 || (p.en && (p.state == 1 || p.state == 3))) && !p.fenced && !p.stopFire && s.serves (t.j % 4) && s.fnServes t.part
/-- A stream without a slot that has work (R113). -/
def State.waits (s : State) (t : Strm) : Bool :=
  t.slot.isNone && !t.stopped && s.streamOn t && (match s.headOf t, s.tailOf t with
    | some h, some n => h != n
    | _, _ => false)
/-- The stream of a partition that a die maps next, in round-robin order by index. -/
def State.nextWaiting (s : State) (die p : Nat) : Option Strm :=
  let from_ := SMap.get 0 (s.die die).nextStream p
  let ws := (s.die die).streams.filter fun t => t.part == p && s.waits t
  let least := fun (l : List Strm) => l.find? fun t => l.all fun u => decide (t.j ≤ u.j)
  (least (ws.filter fun t => decide (from_ ≤ t.j))).or (least ws)
/-- A free slot of a die for a partition. -/
def State.freeSlot (s : State) (die p : Nat) : Option Nat :=
  let used := (s.die die).streams.filterMap fun t => t.slot.map fun n => (t.part, n)
  if s.granted p ≤ (used.filter fun x => x.1 == p).length then none
  else (List.range 64).find? fun n => !(used.any fun x => x.2 == n)

/-- The stream core reads TAIL, with an acquire of system scope (R84, R177). -/
def State.takeTail (s : State) (t : Strm) (n : Nat) : State :=
  let s := s.acquired t.key 5
  if n % 16 ≠ 0 then s.stopStream t.key 1
  else if n < t.head then s.stopStream t.key 2
  else if t.head + t.size < n then s.stopStream t.key 3
  else s.updStrm t.part t.j fun t => { t with tail := n, parked := decide (t.head = n) }

/-- A stream takes a slot: its contexts go on, or begin at their entry state, and HEAD and TAIL are read (R84, R113). -/
def State.mapStream (s : State) (t : Strm) (n head tail base size : Nat) : State :=
  let pc := (base + head % size) / 16
  let s := if t.loaded then s.updCx t.key 0 fun c => if c.upc = 0 ∧ c.repLeft = 0 then { c with pc := pc } else c
    else s.setCore t.key { cx0 := { run := .running, pc := pc, rqkey := (s.part t.ptag).rngseed, rqpos := 0 } }
  let s := s.updDie (t.j % 4) fun d => { d with nextStream := SMap.put d.nextStream t.part (t.j + 1) }
  let u : Strm := { t with slot := some n, loaded := true, parked := true, head := head, base := base, size := size, tail := head }
  (s.updStrm t.part t.j fun _ => u).takeTail u tail

/-- STREAM_MAP (R113): a stream with work takes a free slot of its partition, in round-robin order. -/
def execStreamMap (part j : Nat) (s : State) : Host.Outcome State Fault Refusal :=
  .next (match s.nextWaiting (j % 4) part, s.freeSlot (j % 4) part with
    | some t, some n =>
      match s.headOf t, s.tailOf t, s.sysWord (j % 4) t.ptag t.scb, s.sysWord (j % 4) t.ptag (t.scb + 8) with
      | some h, some e, some b, some z => if t.j = j then s.mapStream t n h e b z else s
      | _, _, _, _ => s
    | _, _ => s)

/-- A stream's core stands at a bundle boundary: no bundle of it has acted in part or holds in a bounded wait (R113). -/
def State.streamQuiet (s : State) (k : Nat) : Bool :=
  [0, 3].all fun i => (s.cx k i).acted.isNone && (s.cx k i).hold.isNone

/-- A stream gives its slot up: its context is kept (R113). One that was stopped to be enabled again begins anew. -/
def State.unmapStream (s : State) (t : Strm) : State :=
  let s := if t.due then s.setCore t.key {} else s
  s.updStrm t.part t.j fun t => { t with
    slot := none, loaded := t.loaded && !t.due, stopped := t.stopped && !t.due, parked := false, leaving := false,
    sstat := if t.due then 0 else t.sstat, due := false }

/-- Another stream of the partition waits for a slot and has none to take. -/
def State.crowded (s : State) (t : Strm) : Bool := (s.nextWaiting (t.j % 4) t.part).isSome && (s.freeSlot (t.j % 4) t.part).isNone
/-- A stream that is to be unmapped: parked while another waits, stopped, or at the end of its quantum. -/
def Strm.out (t : Strm) (crowded : Bool) : Bool := (t.parked && crowded) || t.stopped || t.due || t.leaving
def State.unmapDue (s : State) (t : Strm) : Bool := t.slot.isSome && t.out (s.crowded t) && s.streamQuiet t.key

/-- STREAM_QUANTUM_UNMAP (R113): a stream that has held its slot for 20 us while another waits gives it up at its next bundle
boundary, a bounded wait first running to its limit; a parked or stopped one at once. -/
def execStreamQuantumUnmap (part j : Nat) (s : State) : Host.Outcome State Fault Refusal :=
  .next (match s.strm part j with
    | some t =>
      if t.slot.isNone ∨ !(s.crowded t || t.out (s.crowded t)) then s
      else if s.streamQuiet t.key then s.unmapStream t
      else s.updStrm part j fun t => { t with leaving := true }
    | none => s)

/-- A parked stream whose TAIL word has been written (R84). -/
def State.wakeDue (s : State) (t : Strm) : Bool :=
  t.slot.isSome && t.parked && !t.stopped && s.streamOn t && (match s.tailOf t with
    | some n => n != t.tail
    | none => false)

/-- STREAM_TAIL_WAKE (R84): a write to the TAIL word wakes the parked stream, which reads it. -/
def execStreamTailWake (part j : Nat) (s : State) : Host.Outcome State Fault Refusal :=
  .next (match s.strm part j with
    | some t =>
      if t.slot.isSome ∧ t.parked ∧ !t.stopped then
        match s.tailOf t with
        | some n => s.takeTail t n
        | none => s
      else s
    | none => s)

end Sys2Proof.Machine
end

