-- ==== Sys2Proof/Machine/Partition.lean ====
section
/-! DEFINITION. Partitions: descriptors, function-level reset, quarantine, page owners, BAR2 (R80-R82, R87-R89, R91, R147, R205). -/

namespace Sys2Proof.Machine

/-! ### Function-level reset (R87-R89) -/

/-- Requests of a partition's agents that are not answered (R87 step 2). -/
def State.draining (s : State) (p : Nat) : Bool := s.outst.any fun o => o.txn.ptag == p
/-- Checkpoints of the partition are abandoned: SNAP goes, CKSTAT is 3 with reason 3, and what that writes is in the HBM array (R218). -/
def State.stopCkpts (s : State) (p : Nat) : State :=
  let t := (s.ckpts.filter fun (c : Ckpt) => c.ptag == p).foldl (fun (s : State) c => s.ckAbort c 3) s
  { t with llc := s.llc.filter fun x => SMap.get 0 t.hbm x.1 == SMap.get 0 s.hbm x.1 }
/-- The remainder is abandoned: its sources stop, and responses to it find nothing (R87 step 2). -/
def State.abandon (s : State) (p : Nat) : State :=
  let s := if s.ckpts.any fun (c : Ckpt) => c.ptag == p then s.stopCkpts p else s
  let gone := s.outst.filterMap fun (o : Outst) => if o.txn.ptag = p then some o.uid else none
  { s with outst := s.outst.filter fun (o : Outst) => o.txn.ptag != p, reqs := s.reqs.filter fun (r : Req) => !gone.contains r.tag }

/-- The cores of a partition's clusters. -/
def State.coresIn (s : State) (p : Nat) : List Nat := (List.range 160).filter fun k => (s.part p).clmask.getLsbD (clusterOf k)
/-- A scrubbed core (R87 step 3): zeros in its registers, codebooks included. -/
def Core.zeroed (c : Core) : Core :=
  { ct := SMap.cells 0 0 ((List.range 1024).map fun n => ctDefault (n % 256)), corrected := c.corrected }
def State.scrub (s : State) (p : Nat) : State := (s.coresIn p).foldl (fun s k => s.updCore k Core.zeroed) s

/-- A stream of a partition that has been reset: without a slot, and from its entry state if its table entry still enables it. -/
def Part.freshStream (x : Part) (t : Strm) : Option Strm :=
  let v := SMap.get 0 x.streams t.j
  if entryOn v then some { part := t.part, j := t.j, scb := entryScb v } else none

/-- Step 4 on a die: tracker entries, streams, monitors and L2 lines (R87). -/
def State.releaseDie (s : State) (p : Nat) (d : Die) : Die :=
  { d with
    launches := d.launches.filter fun (x : Nat × Launch) => x.1 / 65536 != p,
    pending := d.pending.filter fun (x : LKey × Launch) => x.1.ptag != p,
    l2 := d.l2.filter fun (x : Nat × L2Byte) => x.2.ptag != p, clean := d.clean.dropPtag p,
    monitors := d.monitors.filter fun m => !s.inPart p m.core,
    streams := d.streams.filterMap fun (t : Strm) => if t.part = p then (s.part p).freshStream t else some t }
/-- Step 4 on a cluster: its own ones keep CLHND alone; ready-queue records of the partition go everywhere. -/
def State.releaseCluster (s : State) (p : Nat) (cl : Nat) (c : Cluster) : Cluster :=
  if cl < 20 ∧ (s.part p).clmask.getLsbD cl then { clhnd := c.clhnd }
  else { c with
    ready := c.ready.filter fun r => r.cr.ptag != p, overflow := c.overflow.filter fun r => r.cr.ptag != p,
    tlb := c.tlb.filter fun e => e.ptag != p }

/-- The LLC drops its dirty lines of a partition's pages: whether one was still dirty is a free value, and then its bytes are the older
ones of the HBM array (R87 step 4; log 21). -/
def State.dropLlc (s : State) (p : Nat) : State :=
  let mine := fun (x : Nat × Byte) => bits (SMap.get 0 s.owner (x.1 / 65536)).toNat 4 0 == 16 + p
  let gone := s.llc.filter fun x => mine x && Config.freeAt s.free (x.1 / 128) % 2 == 1
  { s with hbm := gone.foldl (fun m x => SMap.set 0 m x.1 x.2) s.hbm, llc := s.llc.filter fun x => !mine x }

/-- Step 4 (R87): TLBs, page walks, L2 and LLC lines, tracker entries, ready records, stream slots, handlers, arenas, replicas and node buffers. -/
def State.releasePart (s : State) (p : Nat) : State :=
  let gone := fun k => s.inPart p k
  let s0 := (s.abandon p).dropLlc p
  let t : State := { s0 with
    cores := s0.cores.filter fun (x : Nat × Core) => !(isStream x.1 && gone x.1),
    clusters := (s0.clusters.filter fun (x : Nat × Cluster) => !(decide (20 ≤ x.1) && gone (x.1 + 140))).map
      fun (x : Nat × Cluster) => (x.1, s.releaseCluster p x.1 x.2),
    dies := s0.dies.map fun (x : Nat × Die) => (x.1, s.releaseDie p x.2),
    arenas := s0.arenas.map fun (x : Nat × BitVec 256) => if x.1 % 16 = p then (x.1, x.2 &&& ~~~(BitVec.ofNat 256 (2 ^ 63))) else x,
    pmts := s0.pmts.filter fun (x : Nat × Pmt) => pmtPtag x.2.image != p,
    merges := s0.merges.map fun (x : Nat × List NodeBuf) => (x.1, x.2.filter fun b => b.ptag != p),
    xlc := s0.xlc.map fun (x : Nat × List Tlb) => (x.1, x.2.filter fun e => e.ptag != p),
    appends := s0.appends.filter fun (a : Append) => a.txn.ptag != p,
    fetches := s0.fetches.filter fun (f : Fetch) => f.txn.ptag != p,
    ckpts := s0.ckpts.filter fun (c : Ckpt) => c.ptag != p,
    reqs := s0.reqs.filter fun (r : Req) => !(gone r.core && decide (r.unit ≤ 16)) && !(match r.launch with
      | some l => l.ptag == p
      | none => false),
    pkg := { s0.pkg with stoppers := s0.pkg.stoppers.filter fun (x : Stopper) => x.l.ptag != p } }
  [0, 1, 2, 3].foldl State.takeInAll t

/-! ### Spares (R11 to R15) -/

/-- A number in a list without repeats. -/
def addOnce (x : Nat) (l : List Nat) : List Nat := if l.contains x then l else x :: l
/-- A failed pseudo-channel: the stack's spare stands in, and with it used the stack leaves service at the next package reset, whose
bring-up is `boot` (R12). -/
def State.applyChannel (s : State) (boot : Bool) (st : Nat) : State :=
  let g := s.pkg
  { s with pkg :=
      if !g.spareChannels.contains st then { g with spareChannels := st :: g.spareChannels }
      else if boot then { g with offStacks := addOnce st g.offStacks }
      else { g with pendingSpares := g.pendingSpares ++ [SpareCmd.hbmChannel st] } }
/-- A spare comes in, of a die's two cores number 0 before number 1 (log 91); with none left the part goes out of service. Whether a bank has
fuses left, whose number the spec does not give, is a free value (log 92). -/
def State.applySpare (s : State) (boot : Bool) (c : SpareCmd) : State :=
  let g := s.pkg
  match c with
  | .core k =>
    let n := (g.spareCores.filter fun x => x.1 / 40 == k / 40).length
    if n < 2 then ({ s with pkg := { g with spareCores := g.spareCores ++ [(k, n)] } }).log (.swap k 1)
    else { s with pkg := { g with offClusters := addOnce (clusterOf k) g.offClusters } }
  | .llcWay st i => { s with pkg := { g with spareWays := g.spareWays ++ [(st, i)] } }
  | .hbmRow st b =>
    if s.choose (3000 + (64 * st + b) % 1000) then s.applyChannel boot st else { s with pkg := { g with spareRows := g.spareRows ++ [(st, b)] } }
  | .hbmChannel st => s.applyChannel boot st
  | .lane p => s.takeLane p
/-- The pending spares that `due` picks take effect. -/
def State.applySpares (s : State) (boot : Bool) (due : SpareCmd → Bool) : State :=
  let l := s.pkg.pendingSpares
  (l.filter due).foldl (fun s c => s.applySpare boot c) { s with pkg := { s.pkg with pendingSpares := l.filter fun c => !due c } }
/-- A core is to be swapped for a spare of its die: live if one is left beside those that others wait for, else at a reset (R12, R13). -/
def State.scheduleCore (s : State) (k : Nat) : State :=
  let g := s.pkg
  let mine := fun (x : Nat × Nat) => x.1 / 40 == k / 40
  if (g.spareCores.filter mine).length + (g.swapPending.filter mine).length < 2 then
    { s with pkg := { g with swapPending := g.swapPending ++ [(k, 0)] } }
  else { s with pkg := { g with pendingSpares := g.pendingSpares ++ [SpareCmd.core k] } }
/-- A spare waits for the reset of partition `p`: of the one that has the core's cluster, or of any where none has it; for repairs, of one with
pages in the stack (R12, R94; log 93). -/
def State.spareDue (s : State) (p : Nat) (c : SpareCmd) : Bool :=
  let here := fun st => s.owner.any fun (x : Nat × Byte) => x.1 / 2 ^ 20 == st && bits x.2.toNat 4 0 == 16 + p
  match c with
  | .core k =>
    (s.part p).clmask.getLsbD (clusterOf k) || !((List.range 16).any fun q => (s.part q).clmask.getLsbD (clusterOf k))
  | .llcWay st _ => here st
  | .hbmRow st _ => here st
  | .hbmChannel st => here st
  | .lane _ => false

/-- The partitions of the functions there are (R81). -/
def State.liveParts (s : State) : List Nat := if s.pkg.numVfs = 0 then [0] else List.range (min 16 s.pkg.numVfs)

/-- The reset is complete (R88): in quarantine, or disabled; a PF reset then clears VF Enable (R87). -/
def State.endReset (s : State) (p : Nat) : State :=
  let s := (s.scrub p).releasePart p
  let s := s.applySpares false (s.spareDue p)
  let s := (s.updPart p fun x => { x with
    state := if x.resetKeepEn then 3 else 0, en := x.resetKeepEn, enWait := true, fenced := false, mchk := false,
    stopFire := false, frzUsed := [] }).log (.flr p 4)
  if s.pkg.pfReset ∧ !(s.liveParts.any fun p => (s.part p).state == 2) then
    { s with pkg := { s.pkg with pfReset := false, vfEnable := false } }
  else s

/-- FUNCTION_LEVEL_RESET (R87): an FLR of a VF. -/
def execFunctionLevelReset (part : Nat) (s : State) : Host.Outcome State Fault Refusal := .next (s.startReset part (s.part part).en)

/-- PF_FLR (R87): every VF is reset, and VF Enable clears. -/
def State.resetAll (s : State) : State :=
  s.liveParts.foldl (fun s p => s.startReset p (s.part p).en) { s with pkg := { s.pkg with pfReset := true } }
def execPfFlr (s : State) : Host.Outcome State Fault Refusal := .next s.resetAll

/-- HOT_RESET (R79): every function of the endpoint is reset (log 61). -/
def execHotReset (s : State) : Host.Outcome State Fault Refusal := .next s.resetAll

/-- FLR_DRAIN_ABANDON (R87 step 2): at 200 us what is not answered is abandoned. -/
def execFlrDrainAbandon (part : Nat) (s : State) : Host.Outcome State Fault Refusal :=
  .next (if (s.part part).state = 2 then (s.abandon part).log (.flr part 2) else s)

/-- FLR_COMPLETE (R87 steps 3 and 4, R88): with everything answered or abandoned the partition is scrubbed and released. -/
def execFlrComplete (part : Nat) (s : State) : Host.Outcome State Fault Refusal :=
  .next (if (s.part part).state = 2 ∧ !s.draining part then s.endReset part else s)

/-- QUARANTINE_END (R88): 1.0 ms after the completion a partition whose EN is 1 runs again. -/
def execQuarantineEnd (part : Nat) (s : State) : Host.Outcome State Fault Refusal :=
  .next (s.updPart part fun x => { x with enWait := false, state := if x.state = 3 then 1 else x.state })

/-- SMC_PARTITION_RESET (R94): the sequence of R87 for one partition. -/
def execSmcPartitionReset (part : Nat) (s : State) : Host.Outcome State Fault Refusal := .next (s.startReset part (s.part part).en)

/-! ### Descriptors (R82, R205) -/

/-- PARTITION_ENABLE (R82, R88): the PF writes a descriptor with EN set. -/
def execPartitionEnable (part : Nat) (w0 w1 : Word) (s : State) : Host.Outcome State Fault Refusal :=
  .next (if 16 ≤ part then s else s.writeDesc part (w0.toNat ||| 2 ^ 21) w1.toNat)

/-- PARTITION_DISABLE (R82): the PF clears EN, which resets a running partition. -/
def execPartitionDisable (part : Nat) (s : State) : Host.Outcome State Fault Refusal :=
  .next (if (s.part part).en then s.startReset part false else s)

/-- PARTITION_DROP_COUNT_READ (R82): HLDROP and FILTDROP clear when they are read. -/
def execPartitionDropCountRead (part : Nat) (filt : Bool) (s : State) : Host.Outcome State Fault Refusal :=
  .next (let x := s.part part
    let n := if filt then x.filtdrop else x.hldrop
    (s.tell (.completion stOk (leBytes 4 n))).updPart part fun x =>
      if filt then { x with filtdrop := 0 } else { x with hldrop := 0 })

/-! ### Page owners (R147) -/

/-- OWNED pages of a partition tag. -/
def State.ownedPages (s : State) (ptag : Nat) : Nat := (s.owner.filter fun (x : Nat × Byte) => bits x.2.toNat 4 0 == 16 + ptag).length

/-- PAGE_OWNER_WRITE (R147): a privileged path writes a page's owner byte; past the quota the write is ignored and ERR is set. -/
def execPageOwnerWrite (page : Nat) (v : Byte) (s : State) : Host.Outcome State Fault Refusal :=
  .next (
    let w := v &&& 0x1F
    let p := v.toNat % 16
    let old := SMap.get 0 s.owner page
    if 2 ^ 23 ≤ page then s
    else if bitOf w.toNat 4 ∧ old ≠ w ∧ (s.part p).hbmgb * 16384 < s.ownedPages p + 1 then
      s.updPart p fun x => { x with err := true }
    else { s with owner := SMap.set 0 s.owner page w })

/-! ### BAR2 (R80, R85, R216) -/

/-- The targets of a BAR2 access, page by page, if it does not fault (R80, R147). -/
def State.bar2Targets (s : State) (p va n acc : Nat) : Option (List (Nat × Nat × Tgt)) :=
  (pageRuns va n).foldr (fun r l => match l, s.xlCached xlBar2 p r.1 acc with
    | some l, .ok (.hbm pa m) _ _ => if s.ownerOk p pa then some ((r.1, r.2, Tgt.hbm pa m) :: l) else none
    | some l, .ok (.sp q off) _ _ => if s.spOk p q then some ((r.1, r.2, Tgt.sp q off) :: l) else none
    | some l, .ok (.remote g pa m) _ _ => some ((r.1, r.2, Tgt.remote g pa m) :: l)
    | _, _ => none) (some [])
/-- The path's translation cache keeps what it has walked (R392). -/
def State.bar2Keep (s : State) (p : Nat) (ts : List (Nat × Nat × Tgt)) : State := ts.foldl (fun s t => s.xlKeep xlBar2 p t.1) s
/-- A posted write to another package: STOREs of at most 2 KiB, which the next access waits for (R85). -/
def State.bar2Post (s : State) (p g pa : Nat) (bs : List Byte) : State :=
  (List.range ((bs.length + 2047) / 2048)).foldl (fun s j =>
    let a := pa + 2048 * j
    s.request { ty := tyStore, ptag := p, src := s.hostEp, dst := llcEp g a, addr := a, payload := (bs.drop (2048 * j)).take 2048 }
      { id := 0, core := goneCore, ctx := 0, unit := 26, op := 0, tag := 0, stream := 0 }) s
/-- A write at its targets; chunks of a running checkpoint that it touches are copied first (R150, R216). -/
def State.bar2Put (s : State) (p : Nat) : List (Nat × Nat × Tgt) → List Byte → State
  | [], _ => s
  | (va, n, t) :: r, bs =>
    let b := bs.take n
    let s := s.copyAhead p va
    let s := match t with
      | .hbm pa _ => (s.syncLines 99 pa n).hbmWrite pa b .host
      | .sp q off => s.spWrite q off b .host
      | .remote g pa _ => s.bar2Post p g pa b
      | _ => s
    s.bar2Put p r (bs.drop n)
/-- A read's pieces on this package, each at its place in the read plus 16, and whether one is marked. -/
def State.bar2Near (s : State) (va : Nat) : List (Nat × Nat × Tgt) → List (Nat × List Byte) × Bool
  | [] => ([], false)
  | (a, n, t) :: r =>
    let x := s.bar2Near va r
    match t with
    | .hbm pa _ => ((16 + a - va, s.hbmRead pa n) :: x.1, x.2 || poisoned s.hbmPoison pa n)
    | .sp q off => ((16 + a - va, s.spRead q off n) :: x.1, x.2 || poisoned (s.core q).spPoison off n)
    | _ => x
/-- Its 16-byte units in other packages. -/
def bar2Far (va : Nat) : List (Nat × Nat × Tgt) → List (Nat × Nat × Nat)
  | [] => []
  | (a, n, .remote g pa _) :: r =>
    ((List.range ((pa % 16 + n + 15) / 16)).map fun j => (g, pa / 16 * 16 + 16 * j, 16 + a - va + 16 * j - pa % 16)) ++ bar2Far va r
  | _ :: r => bar2Far va r
/-- A host read of device memory: completed at once, or when other packages have answered (R80). -/
def State.bar2Read (s : State) (p va n : Nat) (ts : List (Nat × Nat × Tgt)) : State :=
  let s := ts.foldl (fun s t => match t.2.2 with
    | .hbm pa _ => s.syncLines 99 pa t.2.1
    | _ => s) s
  let near := s.bar2Near va ts
  let far := bar2Far va ts
  let st := if near.2 then stPoison else stOk
  if far.isEmpty then s.tell (.completion st (assemble near.1 n))
  else
    let id := s.nextId
    let f : Fetch := { id := id, txn := { ty := tyLoad, ptag := p, src := s.hostEp, dst := s.hostEp, addr := n }, left := far.length,
                       parts := near.1, status := st }
    far.foldl (fun s x => s.nmaSend 22 0 id x.2.2 none
        { ty := tyLoad, ptag := p, src := s.hostEp, dst := llcEp x.1 x.2.1, subop := 4, addr := x.2.1 })
      { s with nextId := id + 1, fetches := s.fetches ++ [f] }

/-- The completion of an access that faults: Unsupported Request, and the status page's log (R80). -/
def State.bar2Fault (s : State) (p va : Nat) : State :=
  (s.updPart p fun x => { x with bar2log := x.bar2log ++ [va] }).tell (.completion 1 [])

/-- An access of a function that is there, performed now (R80, R87, R93): one beyond the BAR is no request of the function's, and poisoned data is
reported and not taken (R79). -/
def State.bar2Run (s : State) (a : Bar2Acc) : State :=
  let x := s.part a.part
  let va := x.bar2.toNat + a.off
  let n := (a.write.map (·.length)).getD a.len
  if !s.fnServes a.part ∨ 2 ^ x.bar2Lg < a.off + n then s.tell (.completion 1 [])
  else if !x.en ∨ s.closed a.part then s.tell (.completion stPerm [])
  else if n = 0 then (if a.write.isSome then s else s.tell (.completion stOk []))
  else if a.poison ∧ a.write.isSome then s.log (.link 2)
  else match a.write, s.bar2Targets a.part va n (if a.write.isSome then accStore else accLoad) with
    | some bs, some ts => (s.bar2Put a.part ts bs).bar2Keep a.part ts
    | none, some ts => (s.bar2Read a.part va n ts).bar2Keep a.part ts
    | _, none => s.bar2Fault a.part va

/-- A posted write that has not performed at its target in another package. -/
def State.posted (s : State) : Bool := s.reqs.any fun r => r.unit == 26
/-- BAR2_ACCESS (R80, R85): the host reads or writes the function's device memory through its page tables, in order behind what the host
has posted before; a write with Relaxed Ordering may pass that. -/
def execBar2Access (a : Bar2Acc) (s : State) : Host.Outcome State Fault Refusal :=
  .next (if (s.hostq.isEmpty && !s.posted) || (a.relaxed && a.write.isSome && s.choose 77) then s.bar2Run a
    else { s with hostq := s.hostq ++ [a] })
/-- The oldest access that waits goes, once the writes before it have performed (R85). -/
def hostNext (s : State) : Host.Outcome State Fault Refusal :=
  .next (match s.hostq with
    | a :: r => if s.posted then s else { s with hostq := r }.bar2Run a
    | [] => s)

end Sys2Proof.Machine
end

