-- ==== Sys2Proof/Machine/Faults.lean ====
section
/-! DEFINITION. Soft errors, signature mismatches and the debugger's resume (R189, R191, R203-R212). -/

namespace Sys2Proof.Machine

/-! ### Soft errors (R210) -/

/-- UE found otherwise than by a poison mark: D1 1 by the consumer's own ECC, 3 by parity; D2 the structure (R181, R210). -/
def errTrap (how struct : Nat) : TrapInfo := { cause := 0x0E, d := [0, BitVec.ofNat 64 how, BitVec.ofNat 64 struct, 0] }

/-- A corrected error is counted and logged (R210, R212). -/
def State.fixed (s : State) (struct idx : Nat) : State := s.log (.corrected struct idx)
/-- The SMC counts them by core: with more than 16, if they came within an hour, which no state counts, the core is to be swapped (R212). -/
def State.fixedCore (s : State) (k struct : Nat) : State :=
  let s := (s.updCore k fun c => { c with corrected := c.corrected + 1 }).fixed struct k
  if 16 < (s.core k).corrected ∧ k < 160 ∧ s.choose 83 ∧ !(s.pkg.swapPending.any fun x => x.1 == k) then
    (s.updCore k fun c => { c with corrected := 0 }).scheduleCore k
  else s

/-- A context consumes an error (R203, R204, R210): its segment is rewound once; a bundle outside a segment of a protected pair is
retried once (R206); otherwise UE is raised. A context that does not run consumes nothing. -/
def State.consume (s : State) (k i : Nat) (t : TrapInfo) : State :=
  if (s.cx k i).run ≠ .running then s
  else if (s.part (s.ptagOf k)).prot ∧ (SMap.find s.segs k).isNone ∧ !(s.core k).sig then s.updCore k fun c => { c with sig := true }
  else s.trapCx k i t

/-- The context of a core that executes its control store: the owner of the open segment, or one inside a macro. -/
def State.macroCx (s : State) (k idx : Nat) : Option Nat := [3, 1, 2, 0].find? fun i => (s.cx k i).upc == idx + 1
/-- The micro-bundle at an address of a control store's source (R210, R395): what the partition reads there, or the image in the loader's
memory (R228). -/
def State.microAt (s : State) (k va : Nat) : Option (BitVec 128) :=
  match s.sysRead (dieOf k) (s.ptagOf k) va 16 with
  | some bs => some (BitVec.ofNat 128 (leNat bs))
  | none => s.kernels.findSome? fun x => if x.ptag = s.ptagOf k ∧ x.src ≤ va then x.cstore[(va - x.src) / 16]? else none
/-- A micro-bundle is loaded again from where it came from (R210, R395). -/
def State.reloadMicro (s : State) (k idx : Nat) : State :=
  match (SMap.find (s.core k).cstoreSrc idx).bind (s.microAt k) with
  | some b => s.updCore k fun c => { c with cstore := SMap.set 0 c.cstore idx b }
  | none => s

/-- Mark the 16-byte units of a 128-byte line. -/
def State.markLine (s : State) (pa : Nat) : State := { s with hbmPoison := (List.range 8).map (pa / 128 * 8 + ·) ++ s.hbmPoison }

/-- An L2 error (R210): a clean line is fetched again, a dirty line is poisoned. -/
def State.l2Error (s : State) (d pa : Nat) : State :=
  if (s.die d).l2.any fun x => x.1 / 128 == pa / 128 then s.markLine pa
  else s.evictLine d pa

/-- A router loses a transaction that it buffers (R36, R210): its source will send it again (R38). -/
def State.loseTxn (s : State) (r : Nat) (t : Txn) : State :=
  let held := (s.router r).held.any fun h => h.1 == t
  let comb := (s.router r).combine.any fun c => c.2.1 == t
  let wired := s.wire.any fun w => w.2 == t
  if held ∨ comb ∨ wired then
    let s := if wired then s.unwire t else s
    (s.updRouter r fun x => { x with
      held := x.held.filter fun (h : Txn × Nat) => h.1 != t,
      combine := x.combine.filter fun (c : Nat × Txn × List Constituent) => c.2.1 != t }).drop r
  else s

/-- An uncorrectable error, by structure (R210 Table 3). A line of the LLC that differs from the HBM array may still be dirty, and is then
poisoned. -/
def State.hardError (s : State) (e : SoftSite) : State :=
  match e with
  | .scratchpad k off =>
    if (s.part (s.ptagOf k)).prot then s.fixedCore k 1 else s.updCore k fun c => { c with spPoison := off / 16 :: c.spPoison }
  | .regFile k i => s.consume k i (errTrap 1 2)
  | .accum k n => s.updCore k fun c => { c with accPoison := n :: c.accPoison }
  | .l1 k pa => s.updCore k fun c => { c with l1 := c.l1.drop pa, icache := c.icache.drop pa }
  | .l2 d pa => s.l2Error d pa
  | .llc pa => if (s.llc.any fun x => sameLine x.1 pa) ∧ s.choose 74 then s.markLine pa else s
  | .hbm pa => { s with hbmPoison := pa / 16 :: s.hbmPoison }
  | .cstore k idx =>
    let s := s.reloadMicro k idx
    match s.macroCx k idx with
    | some i => s.consume k i (errTrap 3 8)
    | none => s
  | .latch k i => s.consume k i (errTrap 3 9)
  | .segStore k => s.machineCheck (s.ptagOf k) k 0x0E
  | .routerBuf r t => s.loseTxn r t
  | .slotTable r n => s.updRouter r fun x => { x with slots := SMap.set slotDefault x.slots (n % 512) slotDefault }
  | .schedTable p => s.machineCheck p 0 0x0E

/-- A single-bit error (R210 Table 3): SECDED corrects and counts it; parity only detects it. -/
def State.singleError (s : State) (e : SoftSite) : State :=
  match e with
  | .scratchpad k _ => s.fixedCore k 1
  | .regFile k _ => s.fixedCore k 2
  | .accum k _ => s.fixedCore k 3
  | .l2 d _ => s.fixed 5 d
  | .llc pa => s.fixed 6 (bits pa 38 36)
  | .hbm pa => s.fixed 7 (bits pa 38 36)
  | .segStore k => s.fixedCore k 10
  | .routerBuf r _ => s.fixed 11 r
  | .slotTable r _ => s.fixed 12 r
  | .schedTable p => s.fixed 13 p
  | e => s.hardError e

/-- SOFT_ERROR (R210): an error in an SRAM or a latch. -/
def execSoftError (e : SoftErr) (s : State) : Host.Outcome State Fault Refusal :=
  .next (if e.single then s.singleError e.site else s.hardError e.site)

/-- PAIR_SIGNATURE_MISMATCH (R206 to R208): the SMC logs both signatures, the trailer's a free value, as no state holds the fault (log 35).
The pair rewinds to its segment entry and retries once; a second mismatch is a machine check of the partition. -/
def execPairSignatureMismatch (core : Nat) (s : State) : Host.Outcome State Fault Refusal :=
  .next (let k := s.logical core
    let p := s.ptagOf k
    if !(s.part p).prot then s
    else
      let s := s.log (.signature k (s.core k).sigv (s.openWord 13))
      match SMap.find s.segs k with
      | some g => if g.retry then s.machineCheck p k 0 else s.rewindSeg k
      | none => if (s.core k).sig then s.machineCheck p k 0 else s.updCore k fun c => { c with sig := true })

/-! ### The debug ring (R94, R133, R189, R397) -/

/-- The dbg entry of a halted context completes when its group resumes (R397). -/
def haltDone (q : List QEntry) : List QEntry :=
  q.map fun (e : QEntry) => if e.op = 0x17 ∧ (valWord e.a).toNat % 16 = 1 then { e with sent := true } else e

/-- SMC_DEBUG_RESUME (R133, R189): RMODE is written over the debug ring: a parked group acts on it, a halted one runs on. -/
def execSmcDebugResume (core ctx : Nat) (rmode : BitVec 2) (s : State) : Host.Outcome State Fault Refusal :=
  .next (match (s.cx core ctx).run with
    | .parked t =>
      if rmode = 3 then s.machineCheck (s.ptagOf core) core t.cause
      else
        let s := s.resume core ctx t.cause rmode.toNat
        if isStream core then s.updStream core fun x => { x with stopped := false } else s
    | .halted => s.updCx core ctx fun c => { c with run := .running, sysq := haltDone c.sysq }
    | _ => s)

end Sys2Proof.Machine
end

