-- ==== Sys2Proof/Machine/Vu.lean ====
section
/-! DEFINITION. The vector unit (R296-R315): element-wise operations on 1,024-bit values. The k-th VU trigger of a bundle
writes b(k). -/

namespace Sys2Proof.Machine

/-- The width of a trigger in bits (R126). -/
def VWidth.bits : VWidth → Nat
  | .w1024 => 1024 | .w512 => 512 | .w256 => 256

/-- Element `i` of `b` bits (R236). -/
def elem (b x i : Nat) : Nat := x / 2 ^ (b * i) % 2 ^ b
/-- Elements packed from the lowest (R236); each is cut to its width. -/
def pack (b : Nat) : List Nat → Nat
  | [] => 0
  | x :: t => x % 2 ^ b + 2 ^ b * pack b t
/-- The elements of a width-`w` result; the bits above are 0 (R296). -/
def mapElems (w b : Nat) (f : Nat → Nat) : Nat := pack b ((List.range (w / b)).map f)
/-- A compare's mask: bits for at most 64 elements (R308). -/
def maskOf (n : Nat) (p : Nat → Bool) : Nat := pack 1 ((List.range (min n 64)).map fun i => if p i then 1 else 0)

/-- Operands b, c and CTL of the VU (R296, R297). -/
def State.vuB (s : State) : Nat := ((s.opPort .vu 1).setWidth 1024).toNat
def State.vuC (s : State) : Nat := ((s.opPort .vu 0).setWidth 1024).toNat
def State.vuCtl (s : State) : Nat := (s.opPort .vu 2).toNat % 2 ^ 32
/-- The element size that ESZ names (R297 Table 1). -/
def State.vuEsz (s : State) : Nat := match s.vuCtl % 4 with | 0 => 32 | 1 => 16 | 2 => 8 | _ => 64

/-- A VU trigger: its function of operand a's 1,024 bits goes to b(k) after its latency (R298). -/
def State.vuOp (s : State) (_w : VWidth) (t : Tr) (lat : Nat) (f : Nat → State → Nat) : Host.Outcome State Fault Refusal :=
  s.acting t false false fun v s => s.result .vu s.bnd.vuk lat (natVal (f (v.toNat % 2 ^ 1024) s))

/-- Element-wise floating point, rounded once to nearest even (R301). -/
def State.vuFloat (s : State) (w : VWidth) (t : Tr) (lat : Nat) (f : Fmt) (op : XR → XR → XR → XR) :
    Host.Outcome State Fault Refusal :=
  s.vuOp w t lat fun a s => mapElems w.bits f.width fun i =>
    f.round 0 (op (f.decode (elem f.width a i)) (f.decode (elem f.width s.vuB i)) (f.decode (elem f.width s.vuC i)))

/-- A correctly rounded function of each FP32 element (R302). -/
def State.vuFun (s : State) (w : VWidth) (t : Tr) (lat : Nat) (f : CrFun) : Host.Outcome State Fault Refusal :=
  s.vuOp w t lat fun a _ => mapElems w.bits 32 fun i => crFun f (elem 32 a i)

/-- Element-wise integers of size ESZ, modulo 2^size (R307). -/
def State.vuInt (s : State) (w : VWidth) (t : Tr) (lat : Nat) (op : Nat → Nat → Nat → Nat) :
    Host.Outcome State Fault Refusal :=
  s.vuOp w t lat fun a s => mapElems w.bits s.vuEsz fun i => op s.vuEsz (elem s.vuEsz a i) (elem s.vuEsz s.vuB i)

/-- A signed sum clamped to a size (R307). -/
def clampTo (z : Nat) (x : Int) : Nat := ofSint z (max (-(2 ^ (z - 1) : Nat)) (min ((2 ^ (z - 1) : Nat) - 1) x))

/-- cvt (R303) at width `w` with control word `ctl`. -/
def cvtVec (w ctl a : Nat) : Nat :=
  match Fmt.ofCode (bits ctl 11 8), Fmt.ofCode (bits ctl 15 12) with
  | some sf, some tf =>
    let big := max sf.width tf.width
    let n := w / big
    let p := bits ctl 6 4 % (big / min sf.width tf.width)
    let src := fun i => if sf.width < tf.width then p * n + i else i
    let ys := (List.range n).map fun i => tf.encode (bits ctl 18 16) (sf.decode (elem sf.width a (src i)))
    pack tf.width ys * 2 ^ (if tf.width < sf.width then tf.width * p * n else 0)
  | _, _ => 0

/-- bq (R304): F is E4M3, E5M2, E2M1, INT8 or INT4. -/
def bqVec (tfmt a : Nat) : Nat :=
  match (if 2 ≤ tfmt ∧ tfmt ≤ 6 then Fmt.ofCode tfmt else none) with
  | some f =>
    let xs := (List.range 32).map fun i => f32 (elem 32 a i)
    let e := blockScale f xs
    pack f.width (xs.map (blockElem f e)) + e * 2 ^ 256
  | none => 0

/-- ic8d (R305) at width `w`. -/
def State.ic8dVec (s : State) (w a : Nat) : Nat :=
  let n := w / 128
  let part := bits s.vuCtl 6 4 % (64 / n)
  let one := fun i =>
    let q := part * n + i / 8
    let cw := elem 16 a q
    let x := ic8Weight (s.myCore.getCt (finOf 4 (bits s.vuCtl 20 19)) (cw % 256)).toNat cw (i % 8)
    Fmt.bf16.round 0 (if bitOf s.vuCtl 21 then scaled x (elem 8 s.vuB (q / 4)) else x)
  pack 16 ((List.range (8 * n)).map one)

/-- Element `i` of a shuffle of `n` elements of `b` bits (R310). -/
def shufElem (shp n b a c i : Nat) : Nat :=
  let x := fun j => if j < n then elem b a j else elem b c (j - n)
  match shp with
  | 0 => x (i / 2 + i % 2 * n)
  | 1 => x (i / 2 + n / 2 + i % 2 * n)
  | 2 => x (2 * i)
  | _ => x (2 * i + 1)

/-- Adjacent pairs added, each sum rounded. -/
def pairSums : List Nat → List Nat
  | x :: y :: t => toF32 ((f32 x).add (f32 y)) :: pairSums t
  | l => l
/-- The pairwise tree of at most 2^n leaves (R311). -/
def treeSum : Nat → List Nat → Nat
  | 0, l => l.headD 0
  | n + 1, l => match l with
    | [x] => x
    | l => treeSum n (pairSums l)
/-- A maximum or minimum of FP32 elements (R311). -/
def reduce (f : XR → XR → XR) (l : List XR) : Nat :=
  match l with
  | [] => 0
  | x :: t => toF32 (t.foldl f x)

/-- Pop three vectors as 384 bytes, lowest first (R314). -/
def State.pop3 (s : State) : Nat × State :=
  let a := s.pop
  let b := a.2.pop
  let c := b.2.pop
  (a.1.toNat + b.1.toNat * 2 ^ 1024 + c.1.toNat * 2 ^ 2048, c.2)
/-- The normal draw of lane `j` (R314): the sum of twelve bytes, less 1,530, over 256. -/
def drawZ (bytes j : Nat) : XR :=
  let n := ((List.range 12).map fun k => elem 8 bytes (12 * j + k)).sum
  .fin (decide (n < 1530)) (Int.natAbs ((n : Int) - 1530)) (-8)

/-- VU_ADD (R301): a + b of FP32 elements. -/
def execVuAdd (w : VWidth) (t : Tr) (s : State) : Host.Outcome State Fault Refusal :=
  s.vuFloat w t 3 .fp32 (fun a b _ => a.add b)

/-- VU_SUB (R301): a - b of FP32 elements. -/
def execVuSub (w : VWidth) (t : Tr) (s : State) : Host.Outcome State Fault Refusal :=
  s.vuFloat w t 3 .fp32 (fun a b _ => a.sub b)

/-- VU_MUL (R301): a * b of FP32 elements. -/
def execVuMul (w : VWidth) (t : Tr) (s : State) : Host.Outcome State Fault Refusal :=
  s.vuFloat w t 3 .fp32 (fun a b _ => a.mul b)

/-- VU_FMA (R301): a * b + c, rounded once of FP32 elements. -/
def execVuFma (w : VWidth) (t : Tr) (s : State) : Host.Outcome State Fault Refusal :=
  s.vuFloat w t 4 .fp32 (fun a b c => (a.mul b).add c)

/-- VU_MIN (R301): the minimum of FP32 elements. -/
def execVuMin (w : VWidth) (t : Tr) (s : State) : Host.Outcome State Fault Refusal :=
  s.vuFloat w t 3 .fp32 (fun a b _ => XR.min a b)

/-- VU_MAX (R301): the maximum of FP32 elements. -/
def execVuMax (w : VWidth) (t : Tr) (s : State) : Host.Outcome State Fault Refusal :=
  s.vuFloat w t 3 .fp32 (fun a b _ => XR.max a b)

/-- VU_ADDB (R301): a + b of BF16 elements. -/
def execVuAddb (w : VWidth) (t : Tr) (s : State) : Host.Outcome State Fault Refusal :=
  s.vuFloat w t 3 .bf16 (fun a b _ => a.add b)

/-- VU_SUBB (R301): a - b of BF16 elements. -/
def execVuSubb (w : VWidth) (t : Tr) (s : State) : Host.Outcome State Fault Refusal :=
  s.vuFloat w t 3 .bf16 (fun a b _ => a.sub b)

/-- VU_MULB (R301): a * b of BF16 elements. -/
def execVuMulb (w : VWidth) (t : Tr) (s : State) : Host.Outcome State Fault Refusal :=
  s.vuFloat w t 3 .bf16 (fun a b _ => a.mul b)

/-- VU_FMAB (R301): a * b + c, rounded once of BF16 elements. -/
def execVuFmab (w : VWidth) (t : Tr) (s : State) : Host.Outcome State Fault Refusal :=
  s.vuFloat w t 4 .bf16 (fun a b c => (a.mul b).add c)

/-- VU_MINB (R301): the minimum of BF16 elements. -/
def execVuMinb (w : VWidth) (t : Tr) (s : State) : Host.Outcome State Fault Refusal :=
  s.vuFloat w t 3 .bf16 (fun a b _ => XR.min a b)

/-- VU_MAXB (R301): the maximum of BF16 elements. -/
def execVuMaxb (w : VWidth) (t : Tr) (s : State) : Host.Outcome State Fault Refusal :=
  s.vuFloat w t 3 .bf16 (fun a b _ => XR.max a b)

/-- VU_ADDH (R301): a + b of FP16 elements. -/
def execVuAddh (w : VWidth) (t : Tr) (s : State) : Host.Outcome State Fault Refusal :=
  s.vuFloat w t 3 .fp16 (fun a b _ => a.add b)

/-- VU_SUBH (R301): a - b of FP16 elements. -/
def execVuSubh (w : VWidth) (t : Tr) (s : State) : Host.Outcome State Fault Refusal :=
  s.vuFloat w t 3 .fp16 (fun a b _ => a.sub b)

/-- VU_MULH (R301): a * b of FP16 elements. -/
def execVuMulh (w : VWidth) (t : Tr) (s : State) : Host.Outcome State Fault Refusal :=
  s.vuFloat w t 3 .fp16 (fun a b _ => a.mul b)

/-- VU_FMAH (R301): a * b + c, rounded once of FP16 elements. -/
def execVuFmah (w : VWidth) (t : Tr) (s : State) : Host.Outcome State Fault Refusal :=
  s.vuFloat w t 4 .fp16 (fun a b c => (a.mul b).add c)

/-- VU_MINH (R301): the minimum of FP16 elements. -/
def execVuMinh (w : VWidth) (t : Tr) (s : State) : Host.Outcome State Fault Refusal :=
  s.vuFloat w t 3 .fp16 (fun a b _ => XR.min a b)

/-- VU_MAXH (R301): the maximum of FP16 elements. -/
def execVuMaxh (w : VWidth) (t : Tr) (s : State) : Host.Outcome State Fault Refusal :=
  s.vuFloat w t 3 .fp16 (fun a b _ => XR.max a b)

/-- VU_DIV (R301): a / b of FP32 elements. -/
def execVuDiv (w : VWidth) (t : Tr) (s : State) : Host.Outcome State Fault Refusal :=
  s.vuFloat w t 12 .fp32 (fun a b _ => a.div b)

/-- VU_SQRT (R301): the square root of FP32 elements. -/
def execVuSqrt (w : VWidth) (t : Tr) (s : State) : Host.Outcome State Fault Refusal :=
  s.vuFloat w t 12 .fp32 (fun a _ _ => a.sqrt)

/-- VU_EXP2 (R302): 2^x of FP32 elements, correctly rounded. -/
def execVuExp2 (w : VWidth) (t : Tr) (s : State) : Host.Outcome State Fault Refusal :=
  s.vuFun w t 8 .exp2

/-- VU_LOG2 (R302): log2 x of FP32 elements, correctly rounded. -/
def execVuLog2 (w : VWidth) (t : Tr) (s : State) : Host.Outcome State Fault Refusal :=
  s.vuFun w t 8 .log2

/-- VU_RCP (R302): 1 / x of FP32 elements, correctly rounded. -/
def execVuRcp (w : VWidth) (t : Tr) (s : State) : Host.Outcome State Fault Refusal :=
  s.vuFun w t 10 .rcp

/-- VU_RSQRT (R302): 1 / sqrt x of FP32 elements, correctly rounded. -/
def execVuRsqrt (w : VWidth) (t : Tr) (s : State) : Host.Outcome State Fault Refusal :=
  s.vuFun w t 10 .rsqrt

/-- VU_TANH (R302): tanh x of FP32 elements, correctly rounded. -/
def execVuTanh (w : VWidth) (t : Tr) (s : State) : Host.Outcome State Fault Refusal :=
  s.vuFun w t 14 .tanh

/-- VU_ERF (R302): erf x of FP32 elements, correctly rounded. -/
def execVuErf (w : VWidth) (t : Tr) (s : State) : Host.Outcome State Fault Refusal :=
  s.vuFun w t 14 .erf

/-- VU_SIGM (R302): 1 / (1 + e^-x) of FP32 elements, correctly rounded. -/
def execVuSigm (w : VWidth) (t : Tr) (s : State) : Host.Outcome State Fault Refusal :=
  s.vuFun w t 14 .sigm

/-- VU_CVT (R303): a conversion from SFMT to TFMT under RM. -/
def execVuCvt (w : VWidth) (t : Tr) (s : State) : Host.Outcome State Fault Refusal :=
  s.vuOp w t 3 fun a s => cvtVec w.bits (s.vuCtl) a

/-- VU_BQ (R304): block quantise of 32 FP32 elements; all zeros for a TFMT it does not take. -/
def execVuBq (t : Tr) (s : State) : Host.Outcome State Fault Refusal :=
  s.vuOp .w1024 t 6 fun a s => bqVec (bits s.vuCtl 15 12) a

/-- VU_IC8D (R305): IC8 codewords decoded to BF16, with block scales where SCL = 1. -/
def execVuIc8d (w : VWidth) (t : Tr) (s : State) : Host.Outcome State Fault Refusal :=
  s.vuOp w t 4 fun a s => s.ic8dVec w.bits a

/-- VU_BSCL (R306): FP32 elements times one block scale. -/
def execVuBscl (w : VWidth) (t : Tr) (s : State) : Host.Outcome State Fault Refusal :=
  s.vuOp w t 3 fun a s => mapElems w.bits 32 fun i => toF32 (scaled (f32 (elem 32 a i)) (s.vuB % 256))

/-- VU_IADD (R307): a + b of elements of ESZ. -/
def execVuIadd (w : VWidth) (t : Tr) (s : State) : Host.Outcome State Fault Refusal :=
  s.vuInt w t 3 (fun _ a b => a + b)

/-- VU_ISUB (R307): a - b of elements of ESZ. -/
def execVuIsub (w : VWidth) (t : Tr) (s : State) : Host.Outcome State Fault Refusal :=
  s.vuInt w t 3 (fun z a b => a + (2 ^ z - b))

/-- VU_IMUL (R307): the low bits of a * b of elements of ESZ. -/
def execVuImul (w : VWidth) (t : Tr) (s : State) : Host.Outcome State Fault Refusal :=
  s.vuInt w t 4 (fun _ a b => a * b)

/-- VU_IAND (R307): a & b of elements of ESZ. -/
def execVuIand (w : VWidth) (t : Tr) (s : State) : Host.Outcome State Fault Refusal :=
  s.vuInt w t 3 (fun _ a b => Nat.land a b)

/-- VU_IOR (R307): a | b of elements of ESZ. -/
def execVuIor (w : VWidth) (t : Tr) (s : State) : Host.Outcome State Fault Refusal :=
  s.vuInt w t 3 (fun _ a b => Nat.lor a b)

/-- VU_IXOR (R307): a ^ b of elements of ESZ. -/
def execVuIxor (w : VWidth) (t : Tr) (s : State) : Host.Outcome State Fault Refusal :=
  s.vuInt w t 3 (fun _ a b => Nat.xor a b)

/-- VU_ISHL (R307): a shifted left of elements of ESZ. -/
def execVuIshl (w : VWidth) (t : Tr) (s : State) : Host.Outcome State Fault Refusal :=
  s.vuInt w t 3 (fun z a b => a * 2 ^ (b % z))

/-- VU_ISHR (R307): a shifted right logically of elements of ESZ. -/
def execVuIshr (w : VWidth) (t : Tr) (s : State) : Host.Outcome State Fault Refusal :=
  s.vuInt w t 3 (fun z a b => a / 2 ^ (b % z))

/-- VU_ISAR (R307): a shifted right arithmetically of elements of ESZ. -/
def execVuIsar (w : VWidth) (t : Tr) (s : State) : Host.Outcome State Fault Refusal :=
  s.vuInt w t 3 (fun z a b => ofSint z (sint z a / (2 ^ (b % z) : Nat)))

/-- VU_IMIN (R307): the signed minimum of elements of ESZ. -/
def execVuImin (w : VWidth) (t : Tr) (s : State) : Host.Outcome State Fault Refusal :=
  s.vuInt w t 3 (fun z a b => if sint z b < sint z a then b else a)

/-- VU_IMAX (R307): the signed maximum of elements of ESZ. -/
def execVuImax (w : VWidth) (t : Tr) (s : State) : Host.Outcome State Fault Refusal :=
  s.vuInt w t 3 (fun z a b => if sint z a < sint z b then b else a)

/-- VU_IADDSAT (R307): the signed sum, clamped of elements of ESZ. -/
def execVuIaddsat (w : VWidth) (t : Tr) (s : State) : Host.Outcome State Fault Refusal :=
  s.vuInt w t 3 (fun z a b => clampTo z (sint z a + sint z b))

/-- VU_FCMPEQ (R308): mask of the FP32 elements where a = b in value. -/
def execVuFcmpeq (w : VWidth) (t : Tr) (s : State) : Host.Outcome State Fault Refusal :=
  s.vuOp w t 3 fun a s => maskOf (w.bits / 32) fun i => (fun a b => a.feq b) (f32 (elem 32 a i)) (f32 (elem 32 s.vuB i))

/-- VU_FCMPLT (R308): mask of the FP32 elements where a < b. -/
def execVuFcmplt (w : VWidth) (t : Tr) (s : State) : Host.Outcome State Fault Refusal :=
  s.vuOp w t 3 fun a s => maskOf (w.bits / 32) fun i => (fun a b => a.flt b) (f32 (elem 32 a i)) (f32 (elem 32 s.vuB i))

/-- VU_FCMPLE (R308): mask of the FP32 elements where a <= b. -/
def execVuFcmple (w : VWidth) (t : Tr) (s : State) : Host.Outcome State Fault Refusal :=
  s.vuOp w t 3 fun a s => maskOf (w.bits / 32) fun i => (fun a b => a.flt b || a.feq b) (f32 (elem 32 a i)) (f32 (elem 32 s.vuB i))

/-- VU_FCMPUN (R308): mask of the FP32 elements where a or b is a NaN. -/
def execVuFcmpun (w : VWidth) (t : Tr) (s : State) : Host.Outcome State Fault Refusal :=
  s.vuOp w t 3 fun a s => maskOf (w.bits / 32) fun i => (fun a b => a.isNan || b.isNan) (f32 (elem 32 a i)) (f32 (elem 32 s.vuB i))

/-- VU_ICMPEQ (R308): mask of the elements of ESZ where a = b. -/
def execVuIcmpeq (w : VWidth) (t : Tr) (s : State) : Host.Outcome State Fault Refusal :=
  s.vuOp w t 3 fun a s => maskOf (w.bits / s.vuEsz) fun i => (fun _ a b => a == b) s.vuEsz (elem s.vuEsz a i) (elem s.vuEsz s.vuB i)

/-- VU_ICMPLT (R308): mask of the elements of ESZ where a < b, signed. -/
def execVuIcmplt (w : VWidth) (t : Tr) (s : State) : Host.Outcome State Fault Refusal :=
  s.vuOp w t 3 fun a s => maskOf (w.bits / s.vuEsz) fun i => (fun z a b => decide (sint z a < sint z b)) s.vuEsz (elem s.vuEsz a i) (elem s.vuEsz s.vuB i)

/-- VU_KAND (R309): a & b, of bits [63:0]. -/
def execVuKand (w : VWidth) (t : Tr) (s : State) : Host.Outcome State Fault Refusal :=
  s.vuOp w t 3 fun a s => (fun a b => Nat.land a b) (a % 2 ^ 64) (s.vuB % 2 ^ 64)

/-- VU_KOR (R309): a | b, of bits [63:0]. -/
def execVuKor (w : VWidth) (t : Tr) (s : State) : Host.Outcome State Fault Refusal :=
  s.vuOp w t 3 fun a s => (fun a b => Nat.lor a b) (a % 2 ^ 64) (s.vuB % 2 ^ 64)

/-- VU_KXOR (R309): a ^ b, of bits [63:0]. -/
def execVuKxor (w : VWidth) (t : Tr) (s : State) : Host.Outcome State Fault Refusal :=
  s.vuOp w t 3 fun a s => (fun a b => Nat.xor a b) (a % 2 ^ 64) (s.vuB % 2 ^ 64)

/-- VU_KNOT (R309): ~a, of bits [63:0]. -/
def execVuKnot (w : VWidth) (t : Tr) (s : State) : Host.Outcome State Fault Refusal :=
  s.vuOp w t 3 fun a s => (fun a _ => 2 ^ 64 - 1 - a) (a % 2 ^ 64) (s.vuB % 2 ^ 64)

/-- VU_KPOP (R309): the bits set in a, of bits [63:0]. -/
def execVuKpop (w : VWidth) (t : Tr) (s : State) : Host.Outcome State Fault Refusal :=
  s.vuOp w t 3 fun a s => (fun a _ => ((List.range 64).filter fun i => bitOf a i).length) (a % 2 ^ 64) (s.vuB % 2 ^ 64)

/-- VU_KSEL (R309): element i of a where c[i] = 1 and i < 64, else of b. -/
def execVuKsel (w : VWidth) (t : Tr) (s : State) : Host.Outcome State Fault Refusal :=
  s.vuOp w t 3 fun a s => mapElems w.bits s.vuEsz fun i => if i < 64 ∧ bitOf s.vuC i then elem s.vuEsz a i else elem s.vuEsz s.vuB i

/-- VU_PERM (R310): the element of a that b names. -/
def execVuPerm (w : VWidth) (t : Tr) (s : State) : Host.Outcome State Fault Refusal :=
  s.vuOp w t 4 fun a s => mapElems w.bits s.vuEsz fun i => elem s.vuEsz a (elem s.vuEsz s.vuB i % (w.bits / s.vuEsz))

/-- VU_BCAST (R310): element IDX of a, in every place. -/
def execVuBcast (w : VWidth) (t : Tr) (s : State) : Host.Outcome State Fault Refusal :=
  s.vuOp w t 4 fun a s => mapElems w.bits s.vuEsz fun _ => elem s.vuEsz a (bits s.vuCtl 31 24 % (w.bits / s.vuEsz))

/-- VU_SHUF (R310): the pattern SHP over a and b. -/
def execVuShuf (w : VWidth) (t : Tr) (s : State) : Host.Outcome State Fault Refusal :=
  s.vuOp w t 4 fun a s => mapElems w.bits s.vuEsz fun i => shufElem (bits s.vuCtl 3 2) (w.bits / s.vuEsz) s.vuEsz a s.vuB i

/-- VU_LROT (R310): the elements of a moved up by b, cyclically. -/
def execVuLrot (w : VWidth) (t : Tr) (s : State) : Host.Outcome State Fault Refusal :=
  s.vuOp w t 4 fun a s => mapElems w.bits s.vuEsz fun i =>
    elem s.vuEsz a ((i + w.bits / s.vuEsz - s.vuB % 65536 % (w.bits / s.vuEsz)) % (w.bits / s.vuEsz))

/-- VU_RSUM (R311): the sum of the FP32 elements along the pairwise tree. -/
def execVuRsum (w : VWidth) (t : Tr) (s : State) : Host.Outcome State Fault Refusal :=
  s.vuOp w t 10 fun a _ => treeSum 5 ((List.range (w.bits / 32)).map (elem 32 a))

/-- VU_RMAX (R311): the maximum of the FP32 elements. -/
def execVuRmax (w : VWidth) (t : Tr) (s : State) : Host.Outcome State Fault Refusal :=
  s.vuOp w t 5 fun a _ => reduce XR.max ((List.range (w.bits / 32)).map fun i => f32 (elem 32 a i))

/-- VU_RMIN (R311): the minimum of the FP32 elements. -/
def execVuRmin (w : VWidth) (t : Tr) (s : State) : Host.Outcome State Fault Refusal :=
  s.vuOp w t 5 fun a _ => reduce XR.min ((List.range (w.bits / 32)).map fun i => f32 (elem 32 a i))

/-- VU_IRSUM (R311): the sum of the sign-extended elements modulo 2^64. -/
def execVuIrsum (w : VWidth) (t : Tr) (s : State) : Host.Outcome State Fault Refusal :=
  s.vuOp w t 5 fun a s => ofSint 64 (((List.range (w.bits / s.vuEsz)).map fun i => sint s.vuEsz (elem s.vuEsz a i)).sum)

/-- VU_RNORM (R314): pops three vectors; the exact normal draw. -/
def execVuRnorm (w : VWidth) (t : Tr) (s : State) : Host.Outcome State Fault Refusal :=
  s.acting t false false fun _ s =>
    let r := s.pop3
    r.2.result .vu s.bnd.vuk 6 (natVal (mapElems w.bits 32 fun j => toF32 (drawZ r.1 j)))

/-- VU_RUNIF (R313): pops one vector; 24 bits of each word as a fraction. -/
def execVuRunif (w : VWidth) (t : Tr) (s : State) : Host.Outcome State Fault Refusal :=
  s.acting t false false fun _ s =>
    let r := s.pop
    r.2.result .vu s.bnd.vuk 3 (natVal (mapElems w.bits 32 fun j => toF32 (.fin false (elem 32 r.1.toNat j / 256) (-24))))

end Sys2Proof.Machine
end

