-- ==== Sys2Proof/Machine/Mu.lean ====
section
/-! DEFINITION. The moment unit (R316-R330): 32 lanes of (mean, variance) pairs; every intermediate value is rounded at a
stated step. -/

namespace Sys2Proof.Machine

/-- Mean and variance of lane `j` of a pair value (R318). -/
def meanOf (x j : Nat) : Nat := elem 64 x j % 2 ^ 32
def varOf (x j : Nat) : Nat := elem 64 x j / 2 ^ 32
/-- Pairs packed as 2,048 bits. -/
def packPairs (f : Nat → Nat × Nat) : Val := natVal (pack 64 ((List.range 32).map fun j => (f j).1 + (f j).2 * 2 ^ 32))
/-- FP32 lanes packed as 1,024 bits. -/
def packLanes (f : Nat → Nat) : Val := natVal (pack 32 ((List.range 32).map f))
/-- A variance as it is read: -0 is +0 (R249). -/
def readVar (x : Nat) : XR := if x = 2 ^ 31 then .fin false 0 0 else f32 x
/-- A negative variance (R249): sign set, magnitude not zero, not a NaN. -/
def negVar (x : Nat) : Bool := decide (2 ^ 31 < x) && decide (x ≤ 0xFF800000)
/-- The lanes where a variance is negative. -/
def negLanes (f : Nat → Nat) : Nat := pack 1 ((List.range 32).map fun j => if negVar (f j) then 1 else 0)

/-- Round to FP32 and read back; a correctly rounded function as a value. -/
def rne (x : XR) : XR := f32 (toF32 x)
def crV (f : CrFun) (x : XR) : XR := f32 (crFun f (toF32 x))
def xprod (l : List XR) : XR := l.foldl XR.mul (.fin false 1 0)
def xsum (l : List XR) : XR := l.foldl XR.add (.fin true 0 0)
def one : XR := .fin false 1 0
def half : XR := .fin false 1 (-1)
/-- The constants of R318. -/
def L2E : XR := f32 0x3FB8AA3B
def HL2E : XR := f32 0x3F38AA3B
def RS2 : XR := f32 0x3F3504F3
def CPHI : XR := f32 0x3ECC422A

/-- RHO clamped to -1 .. +1, -0 to 0; a NaN stays (R317). -/
def clampRho (w : Nat) : Nat :=
  let x := f32 w
  if x.isNan then w
  else if (one).below x then 0x3F800000
  else if x.below (one).neg then 0xBF800000
  else if x.isZero then 0 else w
/-- The effective correlation of a mode word (R317). -/
def rhoOf (o3 : Nat) : XR :=
  match o3 % 4 with
  | 0 => .fin false 0 0
  | 1 => one
  | 2 => (one).neg
  | _ => f32 (clampRho (bits o3 63 32))

/-- A lane of madd (sg = +1) or msub (sg = -1) (R323). -/
def maddLane (neg : Bool) (o3 ma va mb vb : Nat) : Nat × Nat :=
  let sg := fun (x : XR) => if neg then x.neg else x
  let mu := toF32 ((f32 ma).add (sg (f32 mb)))
  let sa := crV .sqrt (readVar va)
  let sb := crV .sqrt (readVar vb)
  match o3 % 4 with
  | 0 => (mu, toF32 ((readVar va).add (readVar vb)))
  | 3 => (mu, toF32 (xsum [readVar va, readVar vb, sg (xprod [.fin false 2 0, rhoOf o3, sa, sb])]))
  | m =>
    let x := sa.add (if xor neg (m == 2) then sb.neg else sb)
    (mu, toF32 (x.mul x))

/-- A lane of mmul (R324). -/
def mmulLane (o3 ma va mb vb : Nat) : Nat × Nat :=
  let a := f32 ma
  let b := f32 mb
  let x := readVar va
  let y := readVar vb
  if o3 % 4 = 0 then (toF32 (a.mul b), toF32 (xsum [x.mul y, xprod [x, b, b], xprod [y, a, a]]))
  else
    let sa := crV .sqrt x
    let sb := crV .sqrt y
    let r := rhoOf o3
    (toF32 ((a.mul b).add (xprod [r, sa, sb])),
     toF32 (xsum [xprod [x, y, (one).add (r.mul r)], xprod [x, b, b], xprod [y, a, a], xprod [.fin false 2 0, r, a, b, sa, sb]]))

/-- A lane of mexp (R326). -/
def mexpLane (mu va : Nat) : Nat × Nat :=
  let v := readVar va
  let t := rne ((f32 mu).add (v.mul half))
  let m := crV .exp2 (rne (t.mul L2E))
  let g := crV .exp2 (rne (v.mul L2E))
  (toF32 m, if toF32 g = 0x3F800000 then 0 else toF32 (xprod [g.sub one, m, m]))

/-- The helpers of R327, rounded at every line. -/
def phiBig (x : XR) : XR := rne (((one).add (crV .erf (rne (x.mul RS2)))).mul half)
def phiSmall (x : XR) : XR := rne ((crV .exp2 (rne ((x.mul x).neg.mul HL2E))).mul CPHI)

/-- A lane of mrelu (R327). -/
def mreluLane (m va : Nat) : Nat × Nat :=
  let mu := f32 m
  let v := readVar va
  if v.isZero then (toF32 (XR.max mu (.fin false 0 0)), 0)
  else
    let s := crV .sqrt v
    let u := rne (mu.div s)
    let p := phiBig u
    let f := phiSmall u
    let m' := rne ((mu.mul p).add (s.mul f))
    (toF32 m', toF32 (XR.max (.fin false 0 0)
      (xsum [((mu.mul mu).add v).mul p, xprod [mu, s, f], (m'.mul m').neg])))

/-- A lane of mgelu (R327). -/
def mgeluLane (m va : Nat) : Nat × Nat :=
  let mu := f32 m
  let v := readVar va
  let n := crV .sqrt (rne ((one).add v))
  let al := rne (mu.div n)
  let q := rne (v.div n)
  let d := rne ((phiBig mu).add (mu.mul (phiSmall mu)))
  (toF32 ((mu.mul (phiBig al)).add (q.mul (phiSmall al))), toF32 (xprod [v, d, d]))

/-- MV32 of a pair, and back (R248). -/
def mvPack (m v : Nat) : Nat := Fmt.bf16.round 0 (f32 m) + Fmt.bf16.round 3 (readVar v) * 2 ^ 16
def mvMean (w : Nat) : Nat := toF32 (Fmt.bf16.decode (w % 2 ^ 16))
def mvVar (w : Nat) : Nat := toF32 (readVar (toF32 (Fmt.bf16.decode (w / 2 ^ 16))))

/-- NEGVAR with its lane mask and operand (R319, R320). -/
def negTrap (mask which : Nat) : TrapInfo := { cause := 7, d := [BitVec.ofNat 64 mask, BitVec.ofNat 64 which] }

def State.muB (s : State) : Nat := (s.opPort .mu 1).toNat
def State.muC (s : State) : Nat := (s.opPort .mu 0).toNat
def State.muMode (s : State) : Nat := (s.opPort .mu 3).toNat % 2 ^ 64

/-- A check of operands: NEGVAR at issue, else the operation (R319). -/
def State.muCheck (s : State) (mask which : Nat) (f : State → State) : State :=
  if mask = 0 then f s else s.raise (negTrap mask which)

/-- An MU trigger of one operand, checked. -/
def State.muOp (s : State) (t : Tr) (lat : Nat) (f : Nat → State → Val) : Host.Outcome State Fault Refusal :=
  s.acting t false true fun v s => s.muCheck (negLanes (varOf v.toNat)) 0 fun s => s.result .mu 0 lat (f v.toNat s)

/-- madd, msub and mmul: both operands are checked, and the result when its mode may give a negative variance (R320). -/
def State.muTwo (s : State) (t : Tr) (late : Nat → Bool) (f : Nat → Nat → Nat → Nat → Nat → Nat × Nat) :
    Host.Outcome State Fault Refusal :=
  s.acting t false true fun v s =>
    s.muCheck (negLanes (varOf v.toNat)) 0 fun s => s.muCheck (negLanes (varOf s.muB)) 1 fun s =>
      let r := packPairs fun j => f s.muMode (meanOf v.toNat j) (varOf v.toNat j) (meanOf s.muB j) (varOf s.muB j)
      let bad := negLanes (varOf r.toNat)
      s.pushFlight s.cur s.curCx
        { unit := 10, byp := some 0, val := r, remain := 10, lend := s.lendNow, slot := s.bnd.slot,
          fault := if late (s.muMode % 4) && bad != 0 then some (negTrap bad 2) else none }

/-- MU_MODE (R317): o3 := a with the reserved bits cleared, and RHO clamped under MODE 3. -/
def execMuMode (t : Tr) (s : State) : Host.Outcome State Fault Refusal :=
  s.acting t false true fun v s =>
    let rho := bits v.toNat 63 32
    s.setOpPort .mu 3 (natVal (v.toNat % 4 + (if v.toNat % 4 = 3 then clampRho rho else rho) * 2 ^ 32))

/-- MU_LDP (R322): means from a, variances from b. -/
def execMuLdp (t : Tr) (s : State) : Host.Outcome State Fault Refusal :=
  s.acting t false true fun v s => s.muCheck (negLanes fun j => elem 32 s.muB j) 1 fun s =>
    s.result .mu 0 4 (packPairs fun j => (elem 32 v.toNat j, elem 32 s.muB j))

/-- MU_STP (R322): b0 the means, b1 the variances. -/
def execMuStp (t : Tr) (s : State) : Host.Outcome State Fault Refusal :=
  s.acting t false true fun v s =>
    (s.result .mu 0 4 (packLanes (meanOf v.toNat))).result1 .mu 1 4 (packLanes (varOf v.toNat))

/-- MU_MADD (R323): the sum of pairs under the mode's correlation. -/
def execMuMadd (t : Tr) (s : State) : Host.Outcome State Fault Refusal :=
  s.muTwo t (fun m => m == 3) (maddLane false)

/-- MU_MSUB (R323): the difference of pairs. -/
def execMuMsub (t : Tr) (s : State) : Host.Outcome State Fault Refusal :=
  s.muTwo t (fun m => m == 3) (maddLane true)

/-- MU_MMUL (R324): the product of pairs. -/
def execMuMmul (t : Tr) (s : State) : Host.Outcome State Fault Refusal :=
  s.muTwo t (fun m => m != 0) mmulLane

/-- MU_MSCALE (R325): pairs times factors, plus offsets. -/
def execMuMscale (t : Tr) (s : State) : Host.Outcome State Fault Refusal :=
  s.muOp t 5 fun a s => packPairs fun j =>
    let k := f32 (elem 32 s.muB j)
    (toF32 ((k.mul (f32 (meanOf a j))).add (f32 (elem 32 s.muC j))), toF32 (xprod [k, k, readVar (varOf a j)]))

/-- MU_MEXP (R326): log-normal moments. -/
def execMuMexp (t : Tr) (s : State) : Host.Outcome State Fault Refusal :=
  s.muOp t 14 fun a _ => packPairs fun j => mexpLane (meanOf a j) (varOf a j)

/-- MU_MRELU (R327): the moments of max(X, 0). -/
def execMuMrelu (t : Tr) (s : State) : Host.Outcome State Fault Refusal :=
  s.muOp t 20 fun a _ => packPairs fun j => mreluLane (meanOf a j) (varOf a j)

/-- MU_MGELU (R327): the mean of X Phi(X) and its variance by the derivative. -/
def execMuMgelu (t : Tr) (s : State) : Host.Outcome State Fault Refusal :=
  s.muOp t 20 fun a _ => packPairs fun j => mgeluLane (meanOf a j) (varOf a j)

/-- MU_MMEAN (R322): the means. -/
def execMuMmean (t : Tr) (s : State) : Host.Outcome State Fault Refusal :=
  s.muOp t 4 fun a _ => packLanes (meanOf a)

/-- MU_MSAMP (R328): a sample of each pair; pops three vectors. -/
def execMuMsamp (t : Tr) (s : State) : Host.Outcome State Fault Refusal :=
  s.acting t false true fun v s => s.muCheck (negLanes (varOf v.toNat)) 0 fun s =>
    let r := s.pop3
    r.2.result .mu 0 12 (packLanes fun j =>
      toF32 ((f32 (meanOf v.toNat j)).add ((crV .sqrt (readVar (varOf v.toNat j))).mul (drawZ r.1 j))))

/-- MU_MPACK (R322): MV32 of each pair. -/
def execMuMpack (t : Tr) (s : State) : Host.Outcome State Fault Refusal :=
  s.muOp t 4 fun a _ => packLanes fun j => mvPack (meanOf a j) (varOf a j)

/-- MU_MUNPK (R322): pairs of an MV32 vector, checked after the conversion. -/
def execMuMunpk (t : Tr) (s : State) : Host.Outcome State Fault Refusal :=
  s.acting t false true fun v s => s.muCheck (negLanes fun j => mvVar (elem 32 v.toNat j)) 0 fun s =>
    s.result .mu 0 4 (packPairs fun j => (mvMean (elem 32 v.toNat j), mvVar (elem 32 v.toNat j)))

end Sys2Proof.Machine
end

