-- ==== Sys2Proof/Machine/Mx.lean ====
section
/-! DEFINITION. The matrix engine (R331-R343): its triggers enter the MX and gather queues, whose entries perform in order,
a product one group of 32 contraction steps at a time. -/

namespace Sys2Proof.Machine

/-! ### References -/

/-- A buffer record (R229) as a 256-bit number, and its fields. -/
def recBase (r : Nat) : Nat := r % 2 ^ 57
def recExt (r j : Nat) : Nat := bits r (79 + 16 * j) (64 + 16 * j)
def recNdim (r : Nat) : Nat := bits r 113 112
def recStr1 (r : Nat) : Nat := bits r 159 128
def recStr2 (r : Nat) : Nat := bits r 191 160
def recFormat (r : Nat) : Nat := bits r 199 192
def recPclass (r : Nat) : Nat := bits r 201 200

/-- Fields of an operand reference (R333 Table 2). -/
def refRec (x : Nat) : Nat := bits x 15 0
def refRow (x : Nat) : Nat := bits x 31 16
def refKoff (x : Nat) : Nat := bits x 47 32
def refPlane (x : Nat) : Nat := bits x 63 48

/-- Bits of an element of a format code along index 0; a codeword of IC8 serves 8 weights. -/
def fmtBits (f : Nat) : Nat := match f with | 0 | 1 => 16 | 2 | 3 | 5 => 8 | 4 | 6 => 4 | 7 => 16 | _ => 32

/-- A tile operand: where row `i`'s index-0 elements start, its format code, and how many elements of a row are present. -/
structure Operand where
  rowVa : Nat → Nat
  present : Nat → Nat
  koff : Nat
  fmt : Nat
  ic8Table : Nat := 0

/-- The record that a reference names: from the pool or an MX descriptor; ILLB 16 is held where none is accepted (R333). -/
def State.mxRecord (s : State) (k ref : Nat) : Eng Nat :=
  let n := refRec ref
  if 0xFFFC ≤ n then
    match SMap.get none (s.core k).mxd (n - 0xFFFC) with
    | some r => .ok r
    | none => .bad (illb [] 0 16)
  else if (s.core k).poolN.toNat ≤ n then .bad (illb [] 0 16)
  else (s.engRead 11 k ((s.core k).poolA.toNat % 2 ^ 57 + 32 * n) 32).bind fun bs => .ok (leNat bs)

/-- The operand of a reference: `fmt` overrides the record's FORMAT (mmaft); `row` gives the index-1 value of each tile row,
none for a row of +0. -/
def State.operand (s : State) (k ref tab : Nat) (fmt : Option Nat) (allowed : Nat → Bool) (row : Nat → Option Nat) :
    Eng Operand :=
  (s.mxRecord k ref).bind fun r =>
    let f := fmt.getD (recFormat r)
    if recNdim r = 0 ∨ recPclass r = 3 ∨ !allowed f ∨ (f = 7 ∧ refKoff ref % 8 ≠ 0) then .bad (illb [] 0 16)
    else .ok {
      rowVa := fun i => recBase r + (row i).getD 0 * recStr1 r + refPlane ref * recStr2 r,
      present := fun i => match row i with
        | some y => if y ≤ recExt r 1 ∧ refPlane ref ≤ recExt r 2 then recExt r 0 + 1 else 0
        | none => 0,
      koff := refKoff ref, fmt := f, ic8Table := tab }

/-- The codes of elements `k0` to `k0 + n - 1` of row `i`; none beyond the extent (R333). -/
def State.rowCodes (s : State) (k : Nat) (o : Operand) (i k0 n : Nat) : Eng (List (Option Nat)) :=
  let x0 := o.koff + k0
  let avail := min n (o.present i - x0)
  let per := if o.fmt = 7 then 8 else 1
  let b := fmtBits o.fmt
  let lo := x0 / per * b / 8
  let hi := ((x0 + avail + per - 1) / per * b + 7) / 8
  (s.engRead 11 k (o.rowVa i + lo) (if avail = 0 then 0 else hi - lo)).bind fun bs =>
    let v := leNat bs
    .ok ((List.range n).map fun j =>
      if j < avail then some (v / 2 ^ ((x0 + j) / per * b - 8 * lo) % 2 ^ b) else none)

/-- The value of an element (R235, R246): +0 beyond the extent. `x` is its index along index 0. -/
def Core.elemVal (c : Core) (o : Operand) (x : Nat) (code : Option Nat) : XR :=
  match code with
  | none => .fin false 0 0
  | some v =>
    if o.fmt = 7 then ic8Weight (c.getCt (finOf 4 o.ic8Table) (v % 256)).toNat v (x % 8)
    else match Fmt.ofCode o.fmt with
      | some f => f.decode v
      | none => .fin false 0 0
/-- The pair of an element of mmam: MV32, or BF16 with variance +0 (R336 Table 4). -/
def pairVal (o : Operand) (code : Option Nat) : XR × XR :=
  match code with
  | none => (.fin false 0 0, .fin false 0 0)
  | some v =>
    if o.fmt = 0 then (Fmt.bf16.decode v, .fin false 0 0)
    else (Fmt.bf16.decode (v % 65536), readVar (toF32 (Fmt.bf16.decode (v / 65536))))
def pairNeg (o : Operand) (code : Option Nat) : Bool :=
  match code with
  | some v => o.fmt != 0 && negVar (toF32 (Fmt.bf16.decode (v / 65536)))
  | none => false

/-! ### Entries -/

/-- MCTL (R334 Table 3), of an entry's operand a. -/
def mCs (m : Nat) : Nat := bits m 6 0
def mZc (m : Nat) : Bool := bitOf m 7
def mK (m : Nat) : Nat := bits m 19 8 + 1
def mMsk (m : Nat) : Bool := bitOf m 20
def mCtsel (m : Nat) : Nat := bits m 22 21
/-- An entry's MCTL, and whether each operand is scaled: the format-table entry decides for mmaft (R336). -/
def QEntry.mctl (e : QEntry) : Nat := e.a.toNat % 2 ^ 64
def QEntry.ft (e : QEntry) : Nat := e.e.toNat % 2 ^ 16
def QEntry.asc (e : QEntry) : Bool := if e.op = 9 then bitOf e.ft 10 else bitOf e.mctl 23
def QEntry.bsc (e : QEntry) : Bool := if e.op = 9 then bitOf e.ft 11 else bitOf e.mctl 24
def QEntry.table (e : QEntry) : Nat := if e.op = 9 then bits e.ft 9 8 else mCtsel e.mctl
def QEntry.nsc (e : QEntry) : Nat :=
  ((if e.asc then 1 else 0) + (if e.bsc then 1 else 0)) * 32 * ((mK e.mctl + 31) / 32)

/-- The formats a form takes (R336 Table 4). -/
def tileFmt (f : Nat) : Bool := decide (f ≤ 7)

/-- The A and B operands of a product entry (R333, R336). -/
def State.operandA (s : State) (k : Nat) (e : QEntry) : Eng Operand :=
  let ref := e.c.toNat % 2 ^ 64
  let row := fun i => some (refRow ref + i)
  match e.op with
  | 5 => s.operand k ref e.table none tileFmt fun i =>
      let x := e.aux.getD i 0xFFFF
      if x = 0xFFFF then none else some (refRow ref + x)
  | 6 =>
    let f := bits e.d.toNat 35 32
    if 6 < f then .bad (illb [] 0 16)
    else .ok { rowVa := fun i => (ref + i * bits e.d.toNat 31 0) % 2 ^ 64, present := fun _ => 4096, koff := 0, fmt := f }
  | 7 => s.operand k ref e.table none (fun f => f == 7) row
  | 8 => s.operand k ref 0 none (fun f => f == 0 || f == 0xC) row
  | 9 => s.operand k ref e.table (some (e.ft % 16)) tileFmt row
  | _ => s.operand k ref e.table none tileFmt row
def State.operandB (s : State) (k : Nat) (e : QEntry) : Eng Operand :=
  let ref := e.b.toNat % 2 ^ 64
  let row := fun i => some (refRow ref + i)
  match e.op with
  | 7 => s.operand k ref e.table none (fun f => decide (f ≤ 6)) row
  | 8 => s.operand k ref 0 none (fun f => f == 0 || f == 0xC) row
  | 9 => s.operand k ref e.table (some (e.ft / 16 % 16)) tileFmt row
  | _ => s.operand k ref e.table none tileFmt row

/-- The codes of group `g` of an operand, row by row. -/
def State.groupCodes (s : State) (k : Nat) (o : Operand) (kk g : Nat) : Eng (List (List (Option Nat))) :=
  engMap (fun i => s.rowCodes k o i (32 * g) (min 32 (kk - 32 * g))) (List.range 32)

/-- The scale of row `i` in block `g`, from the scales that the product took: those of A first (R337). -/
def QEntry.scaleOf (e : QEntry) (isB : Bool) (i g : Nat) : Option Nat :=
  let nb := (mK e.mctl + 31) / 32
  if (if isB then e.bsc else e.asc) then e.tags[(if isB ∧ e.asc then 32 * nb else 0) + i * nb + g]? else none
def scaleVal (sc : Option Nat) (x : XR) : XR :=
  match sc with
  | some e => scaled x e
  | none => x
/-- A pair scaled: the mean by s, the variance by s squared (R338). -/
def scalePair (sc : Option Nat) (p : XR × XR) : XR × XR := (scaleVal sc p.1, scaleVal sc (scaleVal sc p.2))

def isIntFmt (f : Nat) : Bool := f == 5 || f == 6
/-- The terms of an element: products of a row of A and a row of B. -/
def terms (f : XR → XR → XR) (a b : List XR) : List XR := List.zipWith f a b
/-- Apply a group to the 1,024 elements of a slot (R250, R251). -/
def Core.addGroup (c : Core) (slot : Nat) (f : Nat → Nat → BitVec 32 → Nat) : Core :=
  c.setAccRun slot 0 ((List.range 1024).map fun n => BitVec.ofNat 32 (f (n / 32) (n % 32) (c.getAcc slot n)))

/-- Group `g` of a product, with its operands' codes (R335, R338). -/
def Core.applyGroup (c : Core) (e : QEntry) (oa ob : Operand) (g : Nat) (ca cb : List (List (Option Nat))) : Core :=
  let cs := mCs e.mctl
  let at_ := fun (l : List (List (Option Nat))) i => l.getD i []
  if e.op = 8 then
    let row := fun (isB : Bool) (o : Operand) l i => (at_ l i).map fun x => scalePair (e.scaleOf isB i g) (pairVal o x)
    let ra := (List.range 32).map (row false oa ca)
    let rb := (List.range 32).map (row true ob cb)
    let p := cs % 64
    let mean := fun i j => exactSum (List.zipWith (fun x y => x.1.mul y.1) (ra.getD i []) (rb.getD j []))
    let var := fun i j => exactSum (List.zipWith (fun (x y : XR × XR) =>
      xsum [x.2.mul y.2, xprod [x.2, y.1, y.1], xprod [y.2, x.1, x.1]]) (ra.getD i []) (rb.getD j []))
    (c.addGroup (2 * p) fun i j v => toF32 ((f32 v.toNat).add (mean i j))).addGroup (2 * p + 1)
      fun i j v => toF32 ((f32 v.toNat).add (var i j))
  else if isIntFmt oa.fmt && isIntFmt ob.fmt && !e.asc && !e.bsc then
    let ints := fun (o : Operand) l i => (at_ l i).map fun x => sint (fmtBits o.fmt) (x.getD 0)
    let ra := (List.range 32).map (ints oa ca)
    let rb := (List.range 32).map (ints ob cb)
    c.addGroup cs fun i j v => ofSint 32 (v.toNat + (List.zipWith (· * ·) (ra.getD i []) (rb.getD j [])).sum)
  else
    let row := fun (isB : Bool) (o : Operand) l i =>
      ((at_ l i).zipIdx).map fun x => scaleVal (e.scaleOf isB i g) (c.elemVal o (o.koff + 32 * g + x.2) x.1)
    let ra := (List.range 32).map (row false oa ca)
    let rb := (List.range 32).map (row true ob cb)
    c.addGroup cs fun i j v => toF32 ((f32 v.toNat).add (exactSum (terms XR.mul (ra.getD i []) (rb.getD j []))))

/-- Word `n` of the mask block. -/
def Core.maskWord (c : Core) (off : Nat) : Nat := leNat (SMap.run 0 c.mask off 4)
/-- Whether the mask block masks an element (R339). -/
def Core.masked (c : Core) (i j : Nat) : Bool :=
  let ctl := c.maskWord 384
  (bitOf ctl 0 && !bitOf (c.maskWord (4 * i)) j)
  || (bitOf ctl 1 && decide (c.maskWord (128 + 4 * i) < c.maskWord (256 + 4 * j)))
def Core.applyMask (c : Core) (slot : Nat) : Core :=
  c.addGroup slot fun i j v => if c.masked i j then 0xFF800000 else v.toNat

def Core.zeroSlot (c : Core) (slot : Nat) : Core :=
  { c with acc := SMap.delRun c.acc (slot * 1024) 1024, accPoison := c.accPoison.filter fun e => e / 1024 != slot }

/-- The operand check of mmam: a negative variance of A or of B (R338). -/
def State.mmamCheck (s : State) (k : Nat) (e : QEntry) (oa ob : Operand) : Eng (Option TrapInfo) :=
  if e.op ≠ 8 then .ok none
  else
    let all := fun (o : Operand) => engMap (fun i => s.rowCodes k o i 0 (mK e.mctl)) (List.range 32)
    (all oa).bind fun a => (all ob).bind fun b =>
      .ok (if a.any (·.any (pairNeg oa)) then some (negTrap 0 0) else if b.any (·.any (pairNeg ob)) then some (negTrap 0 1) else none)

/-! ### Performing an entry (R335, R340-R342) -/

def State.setMxq (s : State) (k : Nat) (q : List QEntry) : State := s.updCore k fun c => { c with mxq := q }
/-- The head of the MX queue is done: what it fetched goes. -/
def State.popMx (s : State) (k : Nat) : State :=
  s.updCore k fun c => { c.clearBuf 11 with mxq := c.mxq.tail }

/-- The trap that a bad access or check of an entry holds, with `f` where all is well and the fetches where bytes are
missing. -/
def State.mxTry {α : Type} (s : State) (k : Nat) (e : QEntry) (x : Eng α) (f : α → State) : State :=
  match x with
  | .ok a => f a
  | .hold => s
  | .need t va n => s.engFetch k 11 e.id 0 t va n
  | .bad t => s.setMxq k (holdFault t (s.core k).mxq)

/-- The start of a product: the checks, the scales, ZC (R335). -/
def State.mxStart (s : State) (k : Nat) (e : QEntry) (oa ob : Operand) : State :=
  let c := s.core k
  if c.fifo.length < e.nsc then
    s.setMxq k (holdFault { cause := 8, d := [BitVec.ofNat 64 e.nsc, BitVec.ofNat 64 c.fifo.length, entryName e.id] } c.mxq)
  else s.mxTry k e (s.mmamCheck k e oa ob) fun neg =>
    match neg with
    | some t => s.setMxq k (holdFault t c.mxq)
    | none =>
      let cs := mCs e.mctl
      let zero := fun (c : Core) =>
        if !mZc e.mctl then c
        else if e.op = 8 then (c.zeroSlot (2 * (cs % 64))).zeroSlot (2 * (cs % 64) + 1) else c.zeroSlot cs
      s.updCore k fun c => zero { c with
        fifo := c.fifo.drop e.nsc,
        mxq := setHead { e with sent := true, tags := (c.fifo.take e.nsc).map BitVec.toNat } c.mxq }

/-- One step of a product: its start, a group, or its end with the mask (R335, R340). -/
def State.mxProduct (s : State) (k : Nat) (e : QEntry) : State :=
  s.mxTry k e (s.operandA k e) fun oa => s.mxTry k e (s.operandB k e) fun ob =>
    if !e.sent then s.mxStart k e oa ob
    else
      let kk := mK e.mctl
      s.mxTry k e (s.groupCodes k oa kk e.prog) fun ca => s.mxTry k e (s.groupCodes k ob kk e.prog) fun cb =>
        let s := s.updCore k fun c =>
          { (c.applyGroup e oa ob e.prog ca cb).clearBuf 11 with mxq := setHead { e with prog := e.prog + 1 } c.mxq }
        if 32 * (e.prog + 1) < kk then s
        else
          (if mMsk e.mctl ∧ e.op ≠ 8 then s.updCore k fun c => c.applyMask (mCs e.mctl) else s).popMx k

/-- A slot's element as a value. -/
def Core.accVal (c : Core) (slot i j : Nat) : XR := f32 (c.getAcc slot (32 * i + j)).toNat
/-- Write a slot from a function of what the core held (R342: S is read whole before D is written). -/
def Core.fillSlot (c : Core) (slot : Nat) (f : Nat → Nat → Nat) : Core :=
  { c.addGroup slot (fun i j _ => f i j) with accPoison := c.accPoison.filter fun e => e / 1024 != slot }
/-- The exact sum of 32 terms, rounded once (R342). -/
def rowSum32 (f : Nat → XR) : Nat := toF32 (exactSum ((List.range 32).map f))
def bit01 (b : Bool) : XR := if b then one else .fin false 0 0

/-- eadd's exponent, cut where every finite value has left the format. -/
def eaddExp (w : Nat) : Int := max (-1000) (min 1000 (sint 32 w))

/-- An MX entry that is not a product performs (R337, R339, R341, R342). -/
def State.mxOther (s : State) (k : Nat) (e : QEntry) : State :=
  let a := e.a.toNat
  let b := e.b.toNat
  let c := s.core k
  let d := a % 128
  let src := b % 128
  match e.op with
  | 0x0A =>
    (s.setCore k (c.fillSlot d fun i j => rowSum32 fun x => (bit01 (i == x)).mul (c.accVal src j x))).popMx k
  | 0x0B =>
    (s.setCore k (c.fillSlot d fun i j =>
      rowSum32 fun x => (bit01 (x == elem 8 e.d.toNat i % 32)).mul (c.accVal src x j))).popMx k
  | 0x0C => (s.setCore k (c.fillSlot d fun i _ => rowSum32 fun x => (c.accVal src i x).mul one)).popMx k
  | 0x0D => (s.setCore k (if bitOf a 7 then (c.zeroSlot d).zeroSlot (Nat.xor d 1) else c.zeroSlot d)).popMx k
  | 0x0F =>
    let row := bits b 12 8
    (s.setCore k { c.setAccRun src (32 * row) ((List.range 32).map fun j => BitVec.ofNat 32 (elem 32 a j)) with
      accPoison := c.accPoison.filter fun x => x / 32 != 32 * src + row }).popMx k
  | 0x10 =>
    (s.setCore k (c.addGroup d fun i _ v => toF32 ((f32 v.toNat).scale (eaddExp (elem 32 b i))))).popMx k
  | 0x11 =>
    let va := a % 2 ^ 64
    if va % 64 ≠ 0 then s.setMxq k (holdFault (alignTrap va 512) c.mxq)
    else s.mxTry k e (s.engRead 11 k va 512) fun bs => (s.setCore k { c with mask := SMap.setRun 0 [] 0 bs }).popMx k
  | 0x12 => (s.setCore k { c with mxd := SMap.set none c.mxd (b % 4) (some (a % 2 ^ 256)) }).popMx k
  | _ =>
    let n := if b % 256 = 0 then 128 else b % 256
    let count := c.fifo.length + n
    if 2048 < count then
      s.setMxq k (holdFault { cause := 8, d := [2048, BitVec.ofNat 64 count, entryName e.id] } c.mxq)
    else (s.setCore k { c with fifo := c.fifo ++ leBytes n a }).popMx k

/-- The gather queue's head performs: the latch is loaded, or an mmag takes its rows (R341). -/
def State.gatherHead (s : State) (k : Nat) (e : QEntry) : State :=
  let c := s.core k
  if e.op = 0x16 then s.setCore k { c with gidx := e.a.toNat % 2 ^ 512, gq := c.gq.tail }
  else
    let idx := (List.range 32).map fun i => elem 16 c.gidx i
    s.setCore k { c with gq := c.gq.tail, mxq := c.mxq.map fun q => if q.id = e.id then { q with aux := idx } else q }

/-- Whether the open segment of a core holds an entry back (R202). -/
def State.heldBySeg (s : State) (k id : Nat) : Bool :=
  match SMap.find s.segs k with
  | some g => g.mxHeld.contains id
  | none => false
/-- The head of the gather queue that can perform, and that of the MX queue. -/
def State.gqReady (s : State) (k : Nat) : Option QEntry :=
  match (s.core k).gq with
  | e :: _ => if e.fault.isSome || s.heldBySeg k e.id then none else some e
  | [] => none
def State.mxReady (s : State) (k : Nat) : Option QEntry :=
  match (s.core k).mxq with
  | e :: _ =>
    if e.fault.isSome || s.heldBySeg k e.id || s.entryBusy e.id || ((s.core k).gq.any fun g => g.id == e.id) then none else some e
  | [] => none

/-- MX_ENTRY_PERFORM (R335): the head of the MX queue, or of the gather queue, performs a step; the two queues are unordered
(R171). -/
def execMxEntryPerform (core : Nat) (s : State) : Host.Outcome State Fault Refusal :=
  .next (match s.gqReady core, s.mxReady core with
    | none, none => s
    | some g, none => s.gatherHead core g
    | none, some e => if e.op ≤ 9 then s.mxProduct core e else s.mxOther core e
    | some g, some e =>
      if s.choose 300 then s.gatherHead core g else if e.op ≤ 9 then s.mxProduct core e else s.mxOther core e)

/-! ### The triggers -/

/-- An entry of the trigger in issue, with its operands as they are read now (R331). -/
def State.mxEntry (s : State) (op : Nat) (a : Val) : QEntry :=
  { id := s.nextId, op := op, a := a, b := s.opPort .mx 1, c := s.opPort .mx 0, d := s.opPort .mx 2, e := s.opPort .mx 3,
    ctx := s.curCx }

/-- An entry joins the MX queue; inside an open segment it is held back (R202). -/
def State.holdIfSeg (s : State) (id : Nat) : State :=
  match SMap.find s.segs s.cur with
  | some g => if g.ctx = s.curCx then { s with segs := SMap.put s.segs s.cur { g with mxHeld := id :: g.mxHeld } } else s
  | none => s
def State.pushMx (s : State) (e : QEntry) : State :=
  s.enter 11 32 s.myCore.mxq.length fun s =>
    ({ s with nextId := s.nextId + 1 }.updMyCore fun c => { c with mxq := c.mxq ++ [e] }).holdIfSeg e.id

/-- An MX trigger that enters the MX queue. -/
def State.mxOp (s : State) (t : Tr) (op : Nat) : Host.Outcome State Fault Refusal :=
  s.acting t false false fun v s => s.pushMx (s.mxEntry op v)

/-- A join on the MX and gather queues (R341): their entries are done, or the fault at a head is raised. -/
def State.mxWait (s : State) (f : State → State) : State :=
  if s.myCore.mxq.isEmpty && s.myCore.gq.isEmpty then f s
  else match s.myCore.headFault 11 with
    | some t => s.raise (queueTrap t)
    | none => s.wait (.fence 3)

/-- MX_MMA (R336): a tile product of two references. -/
def execMxMma (t : Tr) (s : State) : Host.Outcome State Fault Refusal := s.mxOp t 4

/-- MX_MMAG (R336): a product whose A rows the gather latch names; it enters both queues. -/
def execMxMmag (t : Tr) (s : State) : Host.Outcome State Fault Refusal :=
  s.acting t false false fun v s =>
    if 8 ≤ s.myCore.gq.length then s.wait (.full 17)
    else
      let e := s.mxEntry 5 v
      let s' := s.pushMx e
      if s'.bnd.pause ≠ .none then s' else s'.updMyCore fun c => { c with gq := c.gq ++ [e] }

/-- MX_MMAR (R336): a product whose A tile is given by its address. -/
def execMxMmar (t : Tr) (s : State) : Host.Outcome State Fault Refusal := s.mxOp t 6

/-- MX_MMAIC (R336): a product with an IC8 A operand. -/
def execMxMmaic (t : Tr) (s : State) : Host.Outcome State Fault Refusal := s.mxOp t 7

/-- MX_MMAM (R338): a moment product. -/
def execMxMmam (t : Tr) (s : State) : Host.Outcome State Fault Refusal := s.mxOp t 8

/-- A format-table entry that no operation may use (R255). -/
def badFt (w : Nat) : Bool := decide (8 ≤ w % 16) || decide (8 ≤ w / 16 % 16) || decide (2 ^ 12 ≤ w)

/-- MX_MMAFT (R336, R255): a product with formats from the table; a bad entry raises ILLB 15 at the trigger. -/
def execMxMmaft (t : Tr) (s : State) : Host.Outcome State Fault Refusal :=
  s.acting t false false fun v s =>
    let m := v.toNat
    let idx := if bitOf m 29 then bits m 28 25 else (s.me.getLc 0).toNat % 16
    let w := (s.myCore.getFt (finOf 16 idx)).toNat
    if badFt w then s.raise (illb [] 0 15) else s.pushMx { s.mxEntry 9 v with e := natVal w }

/-- MX_TRANS (R342): D := the transpose of S, as a product with the identity. -/
def execMxTrans (t : Tr) (s : State) : Host.Outcome State Fault Refusal := s.mxOp t 0x0A

/-- MX_PERM (R342): the rows of S in the order of a permutation. -/
def execMxPerm (t : Tr) (s : State) : Host.Outcome State Fault Refusal := s.mxOp t 0x0B

/-- MX_ROWSUM (R342): the row sums of S in every column. -/
def execMxRowsum (t : Tr) (s : State) : Host.Outcome State Fault Refusal := s.mxOp t 0x0C

/-- MX_ZERO (R341): a slot, or a slot and its pair, become +0. -/
def execMxZero (t : Tr) (s : State) : Host.Outcome State Fault Refusal := s.mxOp t 0x0D

/-- MX_AM2V (R341): a join; b0 := a row of a slot; an element poisoned under R210 raises UE. -/
def execMxAm2v (t : Tr) (s : State) : Host.Outcome State Fault Refusal :=
  s.acting t false false fun v s => s.gate fun s => s.mxWait fun s =>
    let slot := v.toNat % 128
    let row := bits v.toNat 12 8
    if s.myCore.accPoison.any fun e => e / 32 == 32 * slot + row then s.raise { cause := 0x0E, d := [0, 2, 3, 0] }
    else s.result .mx 0 1 (natVal (pack 32 ((List.range 32).map fun j => (s.myCore.getAcc slot (32 * row + j)).toNat)))

/-- MX_V2AM (R341): a row of a slot := a vector, read at issue (R173). -/
def execMxV2am (t : Tr) (s : State) : Host.Outcome State Fault Refusal := s.mxOp t 0x0F

/-- MX_EADD (R341): the exponents of a slot's columns move by 32 words of b. -/
def execMxEadd (t : Tr) (s : State) : Host.Outcome State Fault Refusal := s.mxOp t 0x10

/-- MX_MSKLD (R339): load the mask block. -/
def execMxMskld (t : Tr) (s : State) : Host.Outcome State Fault Refusal := s.mxOp t 0x11

/-- MX_DESC (R341): set an MX descriptor. -/
def execMxDesc (t : Tr) (s : State) : Host.Outcome State Fault Refusal := s.mxOp t 0x12

/-- MX_JOIN (R341, R337): a join; b0 := the scale count; with SCHK a count that is not 0 raises DESYNC. -/
def execMxJoin (t : Tr) (s : State) : Host.Outcome State Fault Refusal :=
  s.acting t false false fun v s => s.gate fun s => s.mxWait fun s =>
    let n := s.myCore.fifo.length
    if v.getLsbD 0 && n != 0 then s.raise { cause := 8, d := [0, BitVec.ofNat 64 n, entryName s.nextId] }
    else s.result .mx 0 1 (natVal n)

/-- MX_RESUME (R340): clear the fault at the head of the MX or gather queue, so that its entry goes on. -/
def execMxResume (t : Tr) (s : State) : Host.Outcome State Fault Refusal :=
  s.acting t false false fun _ s =>
    let clear := fun (q : List QEntry) => match q with
      | e :: r => { e with fault := none } :: r
      | [] => []
    s.updMyCore fun c => { c with mxq := clear c.mxq, gq := clear c.gq }

/-- MX_SCL (R337): push scales. -/
def execMxScl (t : Tr) (s : State) : Host.Outcome State Fault Refusal := s.mxOp t 0x15

/-- MX_GIDX (R341): load the gather latch, in gather-queue order. -/
def execMxGidx (t : Tr) (s : State) : Host.Outcome State Fault Refusal :=
  s.acting t false false fun v s => s.enter 17 8 s.myCore.gq.length fun s =>
    let e := s.mxEntry 0x16 v
    ({ s with nextId := s.nextId + 1 }.updMyCore fun c => { c with gq := c.gq ++ [e] }).holdIfSeg e.id

end Sys2Proof.Machine
end

