-- ==== Sys2Proof/Machine/Package.lean ====
section
/-! DEFINITION. The package as a whole: resets, service stages, the host link, device registers, power and heat, spares, the
sideband controller (R5, R11-R21, R79, R90-R95). The events of the
SMC that change state stand for operations of an SPDM session with the management-platform role (R94; log 96). -/

namespace Sys2Proof.Machine

/-! ### Package reset (R15, R21, R91, R94) -/

/-- A firmware image takes effect if its signature is good; otherwise the previous one is used (R94). -/
def firmwareOf (old new : List (Nat × Bool)) : List (Nat × Bool) := match new.reverse.find? fun x => x.2 with
  | some x => [x]
  | none => old

/-- The registers of the package after a reset: spare maps, identity, firmware and the cap are kept; pending swaps are applied in the
bring-up that follows (R12, R15, R94). That PKGID and DOMID are kept, though their Reset column says 0, is log 94. -/
def Pkg.afterReset (g : Pkg) (trip : Bool) : Pkg :=
  { pkgId := g.pkgId, domId := g.domId, capWatts := g.capWatts, trip := trip, railDown := if trip then g.railDown else [],
    spareCores := g.spareCores, spareWays := g.spareWays, spareRows := g.spareRows, spareChannels := g.spareChannels,
    pendingSpares := g.pendingSpares ++ g.swapPending.map fun x => SpareCmd.core x.1,
    firmware := firmwareOf g.firmware g.newImages, offClusters := g.offClusters, offStacks := g.offStacks }
/-- What of a port stays: its spare lane map, with a swap that is pending (R15). -/
def Port.afterReset (p : Port) : Port := { lane := p.lane, swap := p.swap, half := p.half }
/-- Every die but the management island is reset; HBM contents are then as after power-on. `trip`: a thermal trip holds them so. In the
bring-up pending swaps are applied. -/
def State.packageReset (s : State) (trip : Bool) : State :=
  let r : State := { State.reset with
    pkg := s.pkg.afterReset trip, ports := s.ports.map fun (x : Nat × Port) => (x.1, x.2.afterReset), smcLog := s.smcLog, out := s.out,
    inbox := s.inbox, nextTag := s.nextTag, nextId := s.nextId, seqs := s.seqs, free := s.free }
  if trip then r else (r.ports.map (·.1)).foldl State.takeLane (r.applySpares true fun _ => true)

/-- CONVENTIONAL_RESET (R91): PERST# resets the package. A tripped package stays in reset (R17). -/
def execConventionalReset (s : State) : Host.Outcome State Fault Refusal := .next (if s.pkg.trip then s else s.packageReset false)

/-- Whether every sensor reads below 90 C, a free value: no state holds temperatures (log 95). -/
def State.cool (s : State) : Bool := s.choose 84
/-- SMC_PACKAGE_RESET (R94): also clears a trip, which it is ordered for once every sensor reads below 90 C (R17). -/
def execSmcPackageReset (s : State) : Host.Outcome State Fault Refusal :=
  .next (if s.pkg.trip ∧ !s.cool then s else s.packageReset false)

/-! ### Service stages (R92, R93) -/

/-- REDUCED_SERVICE_REACHED (R93). -/
def execReducedServiceReached (s : State) : Host.Outcome State Fault Refusal :=
  .next (if s.pkg.svc = 0 ∧ !s.pkg.trip then { s with pkg := { s.pkg with svc := 1 } } else s)

/-- FULL_SERVICE_REACHED (R93): the links have trained, each with a flight time of its own (R29). -/
def execFullServiceReached (s : State) : Host.Outcome State Fault Refusal :=
  .next (if s.pkg.svc = 3 then
      (List.range 18).foldl (fun (s : State) n => s.updPort n fun p => { p with flight := (s.openWord (32 + n)).toNat })
        { s with pkg := { s.pkg with svc := 2 } }
    else s)

/-- DEVSTATE_GOFULL (R92, R93). -/
def execDevstateGofull (s : State) : Host.Outcome State Fault Refusal := .next s.goFull
/-- DEVSTATE_RESUME (R91, R92). -/
def execDevstateResume (s : State) : Host.Outcome State Fault Refusal := .next s.resumeAll
/-- LINKLOSS_CLEAR (R92). -/
def execLinklossClear (s : State) : Host.Outcome State Fault Refusal := .next s.clearLinkLoss

/-- Completion status of a configuration request: 0 done, 1 Request Retry Status (R93). -/
def State.cfgRetry (s : State) (vf : Bool) : Bool := s.pkg.svc == 0 || (vf && s.pkg.svc != 2)

/-- Whether a capability's structure is there (R79 Table 1). -/
def capOf : PcieCap → Bool
  | .pageRequest => false
  | .intx => false
  | .msi => false
  | _ => true
/-- The address translation cache of a function takes a page, the oldest of 512 leaving (R79). -/
def atcFill (l : List (Nat × Nat)) (fn page : Nat) : List (Nat × Nat) :=
  let others := l.filter fun x => x != (fn, page)
  if (others.filter fun x => x.1 == fn).length < 512 then others ++ [(fn, page)]
  else match others.find? fun x => x.1 == fn with
    | some x => others.erase x ++ [(fn, page)]
    | none => others ++ [(fn, page)]
/-- CONFIGURATION_REQUEST (R79, R81, R93): retried in bring-up, and for VFs until full service. What else configuration space holds the
spec does not say (log 9). -/
def execConfigurationRequest (c : CfgReq) (s : State) : Host.Outcome State Fault Refusal :=
  .next (
    let vf := match c with
      | .readVf _ => true
      | .setBar2 p _ => p != 16 && s.pkg.numVfs != 0
      | _ => false
    let ok := fun (s : State) => s.tell (.cfg 0 0)
    if s.cfgRetry vf then s.tell (.cfg 1 0)
    else match c with
    | .readPf => s.tell (.cfg 0 (s.openWord 5).toNat)
    | .readVf _ => s.tell (.cfg 0 (s.openWord 6).toNat)
    | .readTotalVfs => s.tell (.cfg 0 16)
    | .readVfStride => s.tell (.cfg 0 1)
    | .readCap c => s.tell (.cfg 0 (b2n (capOf c)))
    | .setNumVfs n => ok (if n ≤ 16 ∧ !s.pkg.vfEnable then { s with pkg := { s.pkg with numVfs := n } } else s)
    | .setVfEnable on => ok { s with pkg := { s.pkg with vfEnable := on } }
    | .setBar2 p lg => ok (if 30 ≤ lg ∧ lg ≤ 39 then s.updPart p fun x => { x with bar2Lg := lg } else s)
    | .atsComplete fn page => ok { s with atc := atcFill s.atc fn page }
    | .atsInvalidate fn page => ok { s with atc := s.atc.filter fun x => x != (fn, page) })

/-! ### The host link (R90, R91) -/

/-- LINK_LOSS (R90): from now on host writes are dropped, host reads poisoned, interrupts discarded. -/
def execLinkLoss (s : State) : Host.Outcome State Fault Refusal :=
  .next ({ s with pkg := { s.pkg with linkUp := false, linkLoss := true, stopNext := true } }.log (.link 1))

/-- LINK_RETRAIN (R91): the link trains again; partitions stay quiesced. -/
def execLinkRetrain (s : State) : Host.Outcome State Fault Refusal :=
  .next ({ s with pkg := { s.pkg with linkUp := true } }.log (.link 0))

/-! ### Power and heat (R17 to R21) -/

/-- The clock that the power cap asks of a die: none lower at 2,800 W, else a free value (log 95). -/
def capClock (watts d : Nat) : Nat := if watts = 2800 then 1800 else 900 + 100 * (Config.freeAt watts d % 10)
/-- The clock that a limit asks of a die. -/
def asked (m : SMap Nat) (d : Nat) : Nat := SMap.get 1800 m d
/-- The lowest of the clocks that heat, current and the cap ask for applies (R19). -/
def State.setClock (s : State) (d : Nat) : State :=
  s.updDie d fun x => { x with mhz := min (asked s.pkg.heat d) (min (asked s.pkg.current d) (capClock s.pkg.capWatts d)) }
/-- A step lower or higher (R17). -/
def clockDown (f : Nat) : Nat := max 900 (f - 100)
def clockUp (f : Nat) : Nat := min 1800 (f + 100)
def State.setHeat (s : State) (d f : Nat) : State := { s with pkg := { s.pkg with heat := SMap.set 1800 s.pkg.heat d f } }.setClock d

/-- THERMAL_THROTTLE (R17): timing alone changes (R20). -/
def execThermalThrottle (die : Nat) (s : State) : Host.Outcome State Fault Refusal :=
  .next ((s.setHeat die (clockDown (asked s.pkg.heat die))).log (.thermal 0))
/-- THERMAL_CLOCK_RAISE (R17). -/
def execThermalClockRaise (die : Nat) (s : State) : Host.Outcome State Fault Refusal := .next (s.setHeat die (clockUp (asked s.pkg.heat die)))
/-- THERMAL_TRIP (R17, R21): every die but the management island is held in reset. -/
def execThermalTrip (s : State) : Host.Outcome State Fault Refusal := .next ((s.packageReset true).log (.thermal 1))

/-- The dies of a rail, of all 14: which they are the spec does not say, but they are the same at all times (log 95). -/
def railDies (rail : Nat) : List Nat := (List.range 14).filter fun d => Config.freeAt (2 ^ 32 + rail) d % 2 == 1
/-- The current limit of a rail asks its dies for a clock one step lower. -/
def State.lowerRail (s : State) (rail : Nat) : State :=
  (railDies rail).foldl (fun (s : State) d =>
    { s with pkg := { s.pkg with current := SMap.set 1800 s.pkg.current d (clockDown (asked s.pkg.current d)) } }.setClock d) s
/-- RAIL_CURRENT_LIMIT (R18): the dies on the rail slow down. -/
def execRailCurrentLimit (rail : Nat) (s : State) : Host.Outcome State Fault Refusal := .next ((s.lowerRail rail).log (.thermal 2))
/-- RAIL_VOLTAGE_SHUTDOWN (R18): the rail shuts down, and the trip sequence follows. -/
def execRailVoltageShutdown (rail : Nat) (s : State) : Host.Outcome State Fault Refusal :=
  .next (({ s with pkg := { s.pkg with railDown := rail :: s.pkg.railDown } }.packageReset true).log (.thermal 3))

/-! ### Spares (R12 to R14) -/

/-- SMC_SPARE_CONTROL (R12): a spare is scheduled: cores and lanes for a frame boundary, the others for a partition reset. -/
def execSmcSpareControl (k : SpareCmd) (s : State) : Host.Outcome State Fault Refusal :=
  .next (match k with
    | .core c => s.scheduleCore c
    | .lane p => s.holdLane p
    | c => { s with pkg := { s.pkg with pendingSpares := s.pkg.pendingSpares ++ [c] } })

/-- A core that may be swapped: no trap freezes it, of its own or of its group (R179), and it is not inside a segment (R13). -/
def State.swappable (s : State) (k : Nat) : Bool :=
  (SMap.find s.segs k).isNone && !s.groupStopped k && [0, 1, 2, 3].all fun i => !(s.cx k i).inTrap
/-- The frame boundary of a swap, of the first 1,000 ticks since it was scheduled. -/
def State.swapAt (s : State) (k : Nat) : Bool := s.pkg.swapReady && s.pkg.swapPending.any fun x => x.1 == k && decide (x.2 ≤ 1000)
/-- LIVE_CORE_SWAP (R13): the architectural state moves to a spare, which takes the core's index: nothing of it changes. -/
def execLiveCoreSwap (core : Nat) (s : State) : Host.Outcome State Fault Refusal :=
  .next (if s.swapAt core ∧ s.swappable core then
      { s with pkg := { s.pkg with swapPending := s.pkg.swapPending.filter fun (x : Nat × Nat) => x.1 != core } }.applySpare false (SpareCmd.core core)
    else s)

/-- A swap that has not started within 1,000 ticks. -/
def State.swapLate (s : State) (k : Nat) : Bool := s.pkg.swapPending.any fun x => x.1 == k && decide (1000 < x.2)
/-- CORE_SWAP_ABANDON (R13): it is abandoned and logged; the core is swapped at the next partition reset. -/
def execCoreSwapAbandon (core : Nat) (s : State) : Host.Outcome State Fault Refusal :=
  .next (if s.swapLate core then
      { s with pkg := { s.pkg with
          swapPending := s.pkg.swapPending.filter fun (x : Nat × Nat) => x.1 != core,
          pendingSpares := s.pkg.pendingSpares ++ [SpareCmd.core core] } }.log (.swap core 0)
    else s)

/-! ### The sideband controller (R19, R94) -/

/-- SMC_READ_SENSORS (R94): temperatures, currents and voltages are free values; drop counts, the counts of what is in service (R11), spare
maps and the ports' flight times (R29) are the package's own. -/
def execSmcReadSensors (s : State) : Host.Outcome State Fault Refusal :=
  .next (s.tell (.smc ((s.openWord 7).toNat
    :: ((List.range 16).flatMap fun p => [(s.part p).hldrop, (s.part p).filtdrop]) ++ ((List.range 14).map fun r => (s.router r).drops)
    ++ [20 - s.pkg.offClusters.length, 8 - s.pkg.offStacks.length] ++ ((List.range 18).map fun n => (s.port n).flight)
    ++ s.pkg.spareCores.map (·.1) ++ s.pkg.spareWays.map (·.1) ++ s.pkg.spareRows.map (·.1) ++ s.pkg.spareChannels)))

/-- SMC_READ_LOGS (R94). -/
def execSmcReadLogs (s : State) : Host.Outcome State Fault Refusal := .next (s.tell (.logs s.smcLog))

/-- SMC_DUMP_STATE (R94): the debug ring reads a core, the routers and the schedulers without starting anything. -/
def execSmcDumpState (core : Nat) (s : State) : Host.Outcome State Fault Refusal :=
  .next (((s.tell (.dump core (s.core core))).tell (.dumpRouters s.routers)).tell (.dumpSched s.clusters s.dies))

/-- SMC_POWER_CAP (R19): 1,400 W to 2,800 W; one beyond that range is ignored (log 95). -/
def execSmcPowerCap (watts : Nat) (s : State) : Host.Outcome State Fault Refusal :=
  .next (if 1400 ≤ watts ∧ watts ≤ 2800 then
      (List.range 14).foldl State.setClock { s with pkg := { s.pkg with capWatts := watts } }
    else s)

/-- SMC_FIRMWARE_UPDATE (R94): an image is staged for the next package reset. -/
def execSmcFirmwareUpdate (image : Nat) (sigOk : Bool) (s : State) : Host.Outcome State Fault Refusal :=
  .next { s with pkg := { s.pkg with newImages := s.pkg.newImages ++ [(image, sigOk)] } }

end Sys2Proof.Machine
end

