-- ==== Sys2Proof/Machine/Pipe.lean ====
section
/-! DEFINITION. Circular buffers between the cores of a gang (R364-R367). -/

namespace Sys2Proof.Machine

def Pipe.filled (p : Pipe) : Nat := (p.tail - p.head).toNat
def Pipe.room (p : Pipe) : Nat := p.slots - p.filled
/-- Addresses of slot `q` as consumer and producer see it (R365). -/
def Pipe.consVa (p : Pipe) (q : Nat) : Nat := p.off + q * p.size * 16
def Pipe.prodVa (p : Pipe) (q : Nat) : Nat := 2 ^ 24 + 2 ^ 20 * (p.cons % 8) + p.off + q * p.size * 16

def State.updPipe (s : State) (k i : Nat) (f : Pipe → Pipe) : State :=
  s.updCluster (clusterOf k) fun c => { c with pipes := c.pipes.map fun (x : Nat × Pipe) => if x.1 = i then (x.1, f x.2) else x }

/-- The register index that an ILLREG of a cb trigger names (R364); a source that is no cb register has none (log 9). -/
def cbIndex (src : Src) : Nat :=
  match src with
  | .small (.cb i) => 0x40 + i.val
  | _ => (Config.freeWord 40).toNat % 256
def isCbSrc (src : Src) : Bool :=
  match src with
  | .small (.cb _) => true
  | _ => false

/-- The pipe that a handle names, bound to the issuing group (R364). -/
def State.pipeOf (s : State) (h : Nat) : Option Pipe :=
  match SMap.find (s.cluster (clusterOf s.cur)).pipes (bits h 11 0), s.myCore.point with
  | some p, some pt => if bitOf h 31 ∧ p.l = pt.l ∧ p.gang = pt.gang ∧ s.curCx = 0 then some p else none
  | _, _ => none

/-- What every cb trigger does: its handle is checked, with the role it must have (0 producer, 1 consumer), or ILLREG is
raised (R364, R365). -/
def State.cbOp (s : State) (t : Tr) (role : Option Bool) (f : Nat → Nat → Pipe → State → State) : Host.Outcome State Fault Refusal :=
  s.acting t false false fun v s =>
    let h := v.toNat % 2 ^ 32
    let bad := s.raise (illregTrap (cbIndex t.src) 3)
    if !isCbSrc t.src ∨ role = some (!bitOf h 12) then bad
    else match s.pipeOf h with
      | none => bad
      | some p => f (cbIndex t.src) h p s

/-- The count of a wait: 0 reads as 1 (R365). -/
def State.cbCount (s : State) : Nat := if (s.opC .cb).toNat % 512 = 0 then 1 else (s.opC .cb).toNat % 512
def State.cbLimit (s : State) : Nat := (s.opB .cb).toNat % 2 ^ 32
/-- QTIMEOUT of waitf and waite (R365). -/
def cbTimeout (idx : Nat) (p : Pipe) (l : Nat) : List Word :=
  [BitVec.ofNat 64 idx, p.head.setWidth 64, p.tail.setWidth 64, BitVec.ofNat 64 l]

/-- CB_WAITF (R365): a holding wait for n filled slots; then an acquire, and b0 := the slot at HEAD. -/
def execCbWaitf (t : Tr) (s : State) : Host.Outcome State Fault Refusal :=
  s.cbOp t (some true) fun idx _ p s =>
    if s.cbCount ≤ p.filled then
      (s.acquired s.cur 1).result .cb 0 2 (natVal (p.consVa (p.head.toNat % p.slots)))
    else s.holdOn false s.cbLimit (cbTimeout idx p s.cbLimit)

/-- CB_WAITE (R365): a holding wait for n free slots; b0 := the slot at TAIL. -/
def execCbWaite (t : Tr) (s : State) : Host.Outcome State Fault Refusal :=
  s.cbOp t (some false) fun idx _ p s =>
    if s.cbCount ≤ p.room then
      s.result .cb 0 2 (natVal (p.prodVa (p.tail.toNat % p.slots)))
    else s.holdOn false s.cbLimit (cbTimeout idx p s.cbLimit)

/-- CB_PADV (R365, R366): a release at cluster scope; TAIL moves by at most the free slots; b0 := by how many. -/
def execCbPadv (t : Tr) (s : State) : Host.Outcome State Fault Refusal :=
  s.cbOp t (some false) fun _ h p s => s.gate fun s => s.settle 1 0xFFFF fun s =>
    let k := min ((s.opB .cb).toNat % 512) p.room
    (s.updPipe s.cur (bits h 11 0) fun p => { p with tail := p.tail + BitVec.ofNat 32 k }).result .cb 0 2 (natVal k)

/-- CB_CADV (R365, R366): a release at cluster scope; HEAD moves by at most the filled slots; b0 := by how many. -/
def execCbCadv (t : Tr) (s : State) : Host.Outcome State Fault Refusal :=
  s.cbOp t (some true) fun _ h p s => s.gate fun s => s.settle 1 0xFFFF fun s =>
    let k := min ((s.opB .cb).toNat % 512) p.filled
    (s.updPipe s.cur (bits h 11 0) fun p => { p with head := p.head + BitVec.ofNat 32 k }).result .cb 0 2 (natVal k)

/-- CB_CSTAT (R365): b0 := filled, free and the own count. -/
def execCbCstat (t : Tr) (s : State) : Host.Outcome State Fault Refusal :=
  s.cbOp t none fun _ h p s =>
    s.result .cb 0 2 (natVal (p.filled % 512 + p.room % 512 * 2 ^ 16 + (if bitOf h 12 then p.head.toNat else p.tail.toNat) * 2 ^ 32))

end Sys2Proof.Machine
end

