-- ==== Sys2Proof/Machine/Dispatch.lean ====
section
/-! DEFINITION. The meaning of each instruction and event: one arm per constructor of `Instr`, each one direct call. -/

namespace Sys2Proof.Machine

/-- The meaning of an instruction or event: a transport acts within the bundle in issue; an event happens. -/
def exec (i : Instr) (s : State) : Host.Outcome State Fault Refusal :=
  match i with
  | .registerFileWrite d t => Sys2Proof.Machine.execRegisterFileWrite d t s
  | .operandPortWrite u p t => Sys2Proof.Machine.execOperandPortWrite u p t s
  | .seqJmp t => Sys2Proof.Machine.execSeqJmp t s
  | .seqJmpr t => Sys2Proof.Machine.execSeqJmpr t s
  | .seqCall t => Sys2Proof.Machine.execSeqCall t s
  | .seqCallr t => Sys2Proof.Machine.execSeqCallr t s
  | .seqRet t => Sys2Proof.Machine.execSeqRet t s
  | .seqLoop t => Sys2Proof.Machine.execSeqLoop t s
  | .seqLoopx t => Sys2Proof.Machine.execSeqLoopx t s
  | .seqRep t => Sys2Proof.Machine.execSeqRep t s
  | .seqMcall t => Sys2Proof.Machine.execSeqMcall t s
  | .seqMret t => Sys2Proof.Machine.execSeqMret t s
  | .seqSusp t => Sys2Proof.Machine.execSeqSusp t s
  | .seqRdv t => Sys2Proof.Machine.execSeqRdv t s
  | .seqBrk t => Sys2Proof.Machine.execSeqBrk t s
  | .seqWaitg t => Sys2Proof.Machine.execSeqWaitg t s
  | .seqWaitng t => Sys2Proof.Machine.execSeqWaitng t s
  | .aluAdd u t => Sys2Proof.Machine.execAluAdd u t s
  | .aluSub u t => Sys2Proof.Machine.execAluSub u t s
  | .aluMul u t => Sys2Proof.Machine.execAluMul u t s
  | .aluMulh u t => Sys2Proof.Machine.execAluMulh u t s
  | .aluMulhu u t => Sys2Proof.Machine.execAluMulhu u t s
  | .aluAnd u t => Sys2Proof.Machine.execAluAnd u t s
  | .aluOr u t => Sys2Proof.Machine.execAluOr u t s
  | .aluXor u t => Sys2Proof.Machine.execAluXor u t s
  | .aluAndn u t => Sys2Proof.Machine.execAluAndn u t s
  | .aluShl u t => Sys2Proof.Machine.execAluShl u t s
  | .aluShr u t => Sys2Proof.Machine.execAluShr u t s
  | .aluSar u t => Sys2Proof.Machine.execAluSar u t s
  | .aluRol u t => Sys2Proof.Machine.execAluRol u t s
  | .aluMin u t => Sys2Proof.Machine.execAluMin u t s
  | .aluMax u t => Sys2Proof.Machine.execAluMax u t s
  | .aluMinu u t => Sys2Proof.Machine.execAluMinu u t s
  | .aluMaxu u t => Sys2Proof.Machine.execAluMaxu u t s
  | .aluSel u t => Sys2Proof.Machine.execAluSel u t s
  | .aluBfx u t => Sys2Proof.Machine.execAluBfx u t s
  | .aluBfxs u t => Sys2Proof.Machine.execAluBfxs u t s
  | .aluBfi u t => Sys2Proof.Machine.execAluBfi u t s
  | .aluClz u t => Sys2Proof.Machine.execAluClz u t s
  | .aluCtz u t => Sys2Proof.Machine.execAluCtz u t s
  | .aluPopc u t => Sys2Proof.Machine.execAluPopc u t s
  | .aluLimm u t => Sys2Proof.Machine.execAluLimm u t s
  | .aluAddsat u t => Sys2Proof.Machine.execAluAddsat u t s
  | .aluSubsat u t => Sys2Proof.Machine.execAluSubsat u t s
  | .aluCeq u t => Sys2Proof.Machine.execAluCeq u t s
  | .aluCne u t => Sys2Proof.Machine.execAluCne u t s
  | .aluClt u t => Sys2Proof.Machine.execAluClt u t s
  | .aluCle u t => Sys2Proof.Machine.execAluCle u t s
  | .aluCltu u t => Sys2Proof.Machine.execAluCltu u t s
  | .aluCleu u t => Sys2Proof.Machine.execAluCleu u t s
  | .aluCbit u t => Sys2Proof.Machine.execAluCbit u t s
  | .aguSet t => Sys2Proof.Machine.execAguSet t s
  | .aguLin t => Sys2Proof.Machine.execAguLin t s
  | .aguTile t => Sys2Proof.Machine.execAguTile t s
  | .aguArena t => Sys2Proof.Machine.execAguArena t s
  | .aguChk t => Sys2Proof.Machine.execAguChk t s
  | .aguStep t => Sys2Proof.Machine.execAguStep t s
  | .lsuLdb bp t => Sys2Proof.Machine.execLsuLdb bp t s
  | .lsuLdh bp t => Sys2Proof.Machine.execLsuLdh bp t s
  | .lsuLdw bp t => Sys2Proof.Machine.execLsuLdw bp t s
  | .lsuLdd bp t => Sys2Proof.Machine.execLsuLdd bp t s
  | .lsuLdbs bp t => Sys2Proof.Machine.execLsuLdbs bp t s
  | .lsuLdhs bp t => Sys2Proof.Machine.execLsuLdhs bp t s
  | .lsuLdws bp t => Sys2Proof.Machine.execLsuLdws bp t s
  | .lsuLdv bp t => Sys2Proof.Machine.execLsuLdv bp t s
  | .lsuStb t => Sys2Proof.Machine.execLsuStb t s
  | .lsuSth t => Sys2Proof.Machine.execLsuSth t s
  | .lsuStw t => Sys2Proof.Machine.execLsuStw t s
  | .lsuStd t => Sys2Proof.Machine.execLsuStd t s
  | .lsuStv t => Sys2Proof.Machine.execLsuStv t s
  | .lsuStvn t => Sys2Proof.Machine.execLsuStvn t s
  | .lsuGath bp t => Sys2Proof.Machine.execLsuGath bp t s
  | .lsuScat t => Sys2Proof.Machine.execLsuScat t s
  | .lsuPref t => Sys2Proof.Machine.execLsuPref t s
  | .lsuLdacq sc t => Sys2Proof.Machine.execLsuLdacq sc t s
  | .lsuStrel sc t => Sys2Proof.Machine.execLsuStrel sc t s
  | .lsuDrain sc t => Sys2Proof.Machine.execLsuDrain sc t s
  | .vuAdd w t => Sys2Proof.Machine.execVuAdd w t s
  | .vuSub w t => Sys2Proof.Machine.execVuSub w t s
  | .vuMul w t => Sys2Proof.Machine.execVuMul w t s
  | .vuFma w t => Sys2Proof.Machine.execVuFma w t s
  | .vuMin w t => Sys2Proof.Machine.execVuMin w t s
  | .vuMax w t => Sys2Proof.Machine.execVuMax w t s
  | .vuDiv w t => Sys2Proof.Machine.execVuDiv w t s
  | .vuSqrt w t => Sys2Proof.Machine.execVuSqrt w t s
  | .vuAddb w t => Sys2Proof.Machine.execVuAddb w t s
  | .vuSubb w t => Sys2Proof.Machine.execVuSubb w t s
  | .vuMulb w t => Sys2Proof.Machine.execVuMulb w t s
  | .vuFmab w t => Sys2Proof.Machine.execVuFmab w t s
  | .vuMinb w t => Sys2Proof.Machine.execVuMinb w t s
  | .vuMaxb w t => Sys2Proof.Machine.execVuMaxb w t s
  | .vuAddh w t => Sys2Proof.Machine.execVuAddh w t s
  | .vuSubh w t => Sys2Proof.Machine.execVuSubh w t s
  | .vuMulh w t => Sys2Proof.Machine.execVuMulh w t s
  | .vuFmah w t => Sys2Proof.Machine.execVuFmah w t s
  | .vuMinh w t => Sys2Proof.Machine.execVuMinh w t s
  | .vuMaxh w t => Sys2Proof.Machine.execVuMaxh w t s
  | .vuExp2 w t => Sys2Proof.Machine.execVuExp2 w t s
  | .vuLog2 w t => Sys2Proof.Machine.execVuLog2 w t s
  | .vuRcp w t => Sys2Proof.Machine.execVuRcp w t s
  | .vuRsqrt w t => Sys2Proof.Machine.execVuRsqrt w t s
  | .vuTanh w t => Sys2Proof.Machine.execVuTanh w t s
  | .vuErf w t => Sys2Proof.Machine.execVuErf w t s
  | .vuSigm w t => Sys2Proof.Machine.execVuSigm w t s
  | .vuCvt w t => Sys2Proof.Machine.execVuCvt w t s
  | .vuBq t => Sys2Proof.Machine.execVuBq t s
  | .vuIc8d w t => Sys2Proof.Machine.execVuIc8d w t s
  | .vuBscl w t => Sys2Proof.Machine.execVuBscl w t s
  | .vuIadd w t => Sys2Proof.Machine.execVuIadd w t s
  | .vuIsub w t => Sys2Proof.Machine.execVuIsub w t s
  | .vuImul w t => Sys2Proof.Machine.execVuImul w t s
  | .vuIand w t => Sys2Proof.Machine.execVuIand w t s
  | .vuIor w t => Sys2Proof.Machine.execVuIor w t s
  | .vuIxor w t => Sys2Proof.Machine.execVuIxor w t s
  | .vuIshl w t => Sys2Proof.Machine.execVuIshl w t s
  | .vuIshr w t => Sys2Proof.Machine.execVuIshr w t s
  | .vuIsar w t => Sys2Proof.Machine.execVuIsar w t s
  | .vuImin w t => Sys2Proof.Machine.execVuImin w t s
  | .vuImax w t => Sys2Proof.Machine.execVuImax w t s
  | .vuIaddsat w t => Sys2Proof.Machine.execVuIaddsat w t s
  | .vuFcmpeq w t => Sys2Proof.Machine.execVuFcmpeq w t s
  | .vuFcmplt w t => Sys2Proof.Machine.execVuFcmplt w t s
  | .vuFcmple w t => Sys2Proof.Machine.execVuFcmple w t s
  | .vuFcmpun w t => Sys2Proof.Machine.execVuFcmpun w t s
  | .vuIcmpeq w t => Sys2Proof.Machine.execVuIcmpeq w t s
  | .vuIcmplt w t => Sys2Proof.Machine.execVuIcmplt w t s
  | .vuKand w t => Sys2Proof.Machine.execVuKand w t s
  | .vuKor w t => Sys2Proof.Machine.execVuKor w t s
  | .vuKxor w t => Sys2Proof.Machine.execVuKxor w t s
  | .vuKnot w t => Sys2Proof.Machine.execVuKnot w t s
  | .vuKpop w t => Sys2Proof.Machine.execVuKpop w t s
  | .vuKsel w t => Sys2Proof.Machine.execVuKsel w t s
  | .vuPerm w t => Sys2Proof.Machine.execVuPerm w t s
  | .vuBcast w t => Sys2Proof.Machine.execVuBcast w t s
  | .vuShuf w t => Sys2Proof.Machine.execVuShuf w t s
  | .vuLrot w t => Sys2Proof.Machine.execVuLrot w t s
  | .vuRsum w t => Sys2Proof.Machine.execVuRsum w t s
  | .vuRmax w t => Sys2Proof.Machine.execVuRmax w t s
  | .vuRmin w t => Sys2Proof.Machine.execVuRmin w t s
  | .vuIrsum w t => Sys2Proof.Machine.execVuIrsum w t s
  | .vuRnorm w t => Sys2Proof.Machine.execVuRnorm w t s
  | .vuRunif w t => Sys2Proof.Machine.execVuRunif w t s
  | .muMode t => Sys2Proof.Machine.execMuMode t s
  | .muLdp t => Sys2Proof.Machine.execMuLdp t s
  | .muStp t => Sys2Proof.Machine.execMuStp t s
  | .muMadd t => Sys2Proof.Machine.execMuMadd t s
  | .muMsub t => Sys2Proof.Machine.execMuMsub t s
  | .muMmul t => Sys2Proof.Machine.execMuMmul t s
  | .muMscale t => Sys2Proof.Machine.execMuMscale t s
  | .muMexp t => Sys2Proof.Machine.execMuMexp t s
  | .muMrelu t => Sys2Proof.Machine.execMuMrelu t s
  | .muMgelu t => Sys2Proof.Machine.execMuMgelu t s
  | .muMmean t => Sys2Proof.Machine.execMuMmean t s
  | .muMsamp t => Sys2Proof.Machine.execMuMsamp t s
  | .muMpack t => Sys2Proof.Machine.execMuMpack t s
  | .muMunpk t => Sys2Proof.Machine.execMuMunpk t s
  | .mxMma t => Sys2Proof.Machine.execMxMma t s
  | .mxMmag t => Sys2Proof.Machine.execMxMmag t s
  | .mxMmar t => Sys2Proof.Machine.execMxMmar t s
  | .mxMmaic t => Sys2Proof.Machine.execMxMmaic t s
  | .mxMmam t => Sys2Proof.Machine.execMxMmam t s
  | .mxMmaft t => Sys2Proof.Machine.execMxMmaft t s
  | .mxTrans t => Sys2Proof.Machine.execMxTrans t s
  | .mxPerm t => Sys2Proof.Machine.execMxPerm t s
  | .mxRowsum t => Sys2Proof.Machine.execMxRowsum t s
  | .mxZero t => Sys2Proof.Machine.execMxZero t s
  | .mxAm2v t => Sys2Proof.Machine.execMxAm2v t s
  | .mxV2am t => Sys2Proof.Machine.execMxV2am t s
  | .mxEadd t => Sys2Proof.Machine.execMxEadd t s
  | .mxMskld t => Sys2Proof.Machine.execMxMskld t s
  | .mxDesc t => Sys2Proof.Machine.execMxDesc t s
  | .mxJoin t => Sys2Proof.Machine.execMxJoin t s
  | .mxResume t => Sys2Proof.Machine.execMxResume t s
  | .mxScl t => Sys2Proof.Machine.execMxScl t s
  | .mxGidx t => Sys2Proof.Machine.execMxGidx t s
  | .attQmc t => Sys2Proof.Machine.execAttQmc t s
  | .attPart t => Sys2Proof.Machine.execAttPart t s
  | .attMerge t => Sys2Proof.Machine.execAttMerge t s
  | .attFinal t => Sys2Proof.Machine.execAttFinal t s
  | .attApp t => Sys2Proof.Machine.execAttApp t s
  | .attPmtrd t => Sys2Proof.Machine.execAttPmtrd t s
  | .attPmtset t => Sys2Proof.Machine.execAttPmtset t s
  | .attRing t => Sys2Proof.Machine.execAttRing t s
  | .attStat t => Sys2Proof.Machine.execAttStat t s
  | .ceCpy t => Sys2Proof.Machine.execCeCpy t s
  | .ceCpyw t => Sys2Proof.Machine.execCeCpyw t s
  | .ceBind t => Sys2Proof.Machine.execCeBind t s
  | .ceQfence t => Sys2Proof.Machine.execCeQfence t s
  | .ceCkst t => Sys2Proof.Machine.execCeCkst t s
  | .ceCkwait t => Sys2Proof.Machine.execCeCkwait t s
  | .ceCkrst t => Sys2Proof.Machine.execCeCkrst t s
  | .ceCpy2d t => Sys2Proof.Machine.execCeCpy2d t s
  | .cbWaitf t => Sys2Proof.Machine.execCbWaitf t s
  | .cbWaite t => Sys2Proof.Machine.execCbWaite t s
  | .cbPadv t => Sys2Proof.Machine.execCbPadv t s
  | .cbCadv t => Sys2Proof.Machine.execCbCadv t s
  | .cbCstat t => Sys2Proof.Machine.execCbCstat t s
  | .quPush t => Sys2Proof.Machine.execQuPush t s
  | .quPop t => Sys2Proof.Machine.execQuPop t s
  | .quQwait t => Sys2Proof.Machine.execQuQwait t s
  | .quAmo t => Sys2Proof.Machine.execQuAmo t s
  | .quRed t => Sys2Proof.Machine.execQuRed t s
  | .quAmoacq t => Sys2Proof.Machine.execQuAmoacq t s
  | .quAmorel t => Sys2Proof.Machine.execQuAmorel t s
  | .quTalloc t => Sys2Proof.Machine.execQuTalloc t s
  | .quTdec t => Sys2Proof.Machine.execQuTdec t s
  | .quPuth t => Sys2Proof.Machine.execQuPuth t s
  | .quMwait t => Sys2Proof.Machine.execQuMwait t s
  | .quBara t => Sys2Proof.Machine.execQuBara t s
  | .quBarw t => Sys2Proof.Machine.execQuBarw t s
  | .quBarx t => Sys2Proof.Machine.execQuBarx t s
  | .quBari t => Sys2Proof.Machine.execQuBari t s
  | .sysCsrr t => Sys2Proof.Machine.execSysCsrr t s
  | .sysCsrw t => Sys2Proof.Machine.execSysCsrw t s
  | .sysCsrs t => Sys2Proof.Machine.execSysCsrs t s
  | .sysCsrc t => Sys2Proof.Machine.execSysCsrc t s
  | .sysTrap t => Sys2Proof.Machine.execSysTrap t s
  | .sysTret t => Sys2Proof.Machine.execSysTret t s
  | .sysHret t => Sys2Proof.Machine.execSysHret t s
  | .sysLaunch t => Sys2Proof.Machine.execSysLaunch t s
  | .sysLaunchi t => Sys2Proof.Machine.execSysLaunchi t s
  | .sysRetire t => Sys2Proof.Machine.execSysRetire t s
  | .sysFrd t => Sys2Proof.Machine.execSysFrd t s
  | .sysHinst t => Sys2Proof.Machine.execSysHinst t s
  | .sysTlbi t => Sys2Proof.Machine.execSysTlbi t s
  | .sysTlbun t => Sys2Proof.Machine.execSysTlbun t s
  | .sysCinv t => Sys2Proof.Machine.execSysCinv t s
  | .sysCwb t => Sys2Proof.Machine.execSysCwb t s
  | .sysSlotld t => Sys2Proof.Machine.execSysSlotld t s
  | .sysCsw t => Sys2Proof.Machine.execSysCsw t s
  | .sysIrq t => Sys2Proof.Machine.execSysIrq t s
  | .sysDbg t => Sys2Proof.Machine.execSysDbg t s
  | .lateResultArrival core ctx => Sys2Proof.Machine.execLateResultArrival core ctx s
  | .joinResultReady core ctx => Sys2Proof.Machine.execJoinResultReady core ctx s
  | .translationComplete core ctx => Sys2Proof.Machine.execTranslationComplete core ctx s
  | .mxEntryPerform core => Sys2Proof.Machine.execMxEntryPerform core s
  | .copyEntryDone core => Sys2Proof.Machine.execCopyEntryDone core s
  | .sysEntryComplete core ctx => Sys2Proof.Machine.execSysEntryComplete core ctx s
  | .drainComplete core ctx => Sys2Proof.Machine.execDrainComplete core ctx s
  | .holdingWaitTimeout core ctx => Sys2Proof.Machine.execHoldingWaitTimeout core ctx s
  | .rendezvousComplete core => Sys2Proof.Machine.execRendezvousComplete core s
  | .watchdogExpire core ctx => Sys2Proof.Machine.execWatchdogExpire core ctx s
  | .segmentBundleLimit core => Sys2Proof.Machine.execSegmentBundleLimit core s
  | .pairSignatureMismatch core => Sys2Proof.Machine.execPairSignatureMismatch core s
  | .softError e => Sys2Proof.Machine.execSoftError e s
  | .suspendAtSuspensionPoint core => Sys2Proof.Machine.execSuspendAtSuspensionPoint core s
  | .freezeSave core => Sys2Proof.Machine.execFreezeSave core s
  | .frozenRestore core => Sys2Proof.Machine.execFrozenRestore core s
  | .puthArrive t => Sys2Proof.Machine.execPuthArrive t s
  | .handlerActivationStart core => Sys2Proof.Machine.execHandlerActivationStart core s
  | .liveCoreSwap core => Sys2Proof.Machine.execLiveCoreSwap core s
  | .coreSwapAbandon core => Sys2Proof.Machine.execCoreSwapAbandon core s
  | .frameTick => Sys2Proof.Machine.execFrameTick s
  | .launchRelease l => Sys2Proof.Machine.execLaunchRelease l s
  | .pointFire l => Sys2Proof.Machine.execPointFire l s
  | .readyQueueDispatch core => Sys2Proof.Machine.execReadyQueueDispatch core s
  | .readyQueueAging cluster => Sys2Proof.Machine.execReadyQueueAging cluster s
  | .gangHoldExpire cluster => Sys2Proof.Machine.execGangHoldExpire cluster s
  | .preemption l => Sys2Proof.Machine.execPreemption l s
  | .suspendTimeout core => Sys2Proof.Machine.execSuspendTimeout core s
  | .launchTakeBack l => Sys2Proof.Machine.execLaunchTakeBack l s
  | .launchRetire l => Sys2Proof.Machine.execLaunchRetire l s
  | .deadlineArrival l => Sys2Proof.Machine.execDeadlineArrival l s
  | .frameCounterResume => Sys2Proof.Machine.execFrameCounterResume s
  | .streamTableWrite part j v => Sys2Proof.Machine.execStreamTableWrite part j v s
  | .streamTailWake part j => Sys2Proof.Machine.execStreamTailWake part j s
  | .streamMap part j => Sys2Proof.Machine.execStreamMap part j s
  | .streamQuantumUnmap part j => Sys2Proof.Machine.execStreamQuantumUnmap part j s
  | .loadArrive t => Sys2Proof.Machine.execLoadArrive t s
  | .storeArrive t => Sys2Proof.Machine.execStoreArrive t s
  | .atomicArrive a t => Sys2Proof.Machine.execAtomicArrive a t s
  | .pushArrive a t => Sys2Proof.Machine.execPushArrive a t s
  | .popArrive a t => Sys2Proof.Machine.execPopArrive a t s
  | .pairingWindowExpire router => Sys2Proof.Machine.execPairingWindowExpire router s
  | .respArrive a t => Sys2Proof.Machine.execRespArrive a t s
  | .responseTimeout k => Sys2Proof.Machine.execResponseTimeout k s
  | .slotctl t => Sys2Proof.Machine.execSlotctl t s
  | .slotBankSwap router => Sys2Proof.Machine.execSlotBankSwap router s
  | .linkReplay port => Sys2Proof.Machine.execLinkReplay port s
  | .liveLaneSwap port => Sys2Proof.Machine.execLiveLaneSwap port s
  | .portHalfRate port => Sys2Proof.Machine.execPortHalfRate port s
  | .fscDropsRead router => Sys2Proof.Machine.execFscDropsRead router s
  | .query t => Sys2Proof.Machine.execQuery t s
  | .append t => Sys2Proof.Machine.execAppend t s
  | .mirror t => Sys2Proof.Machine.execMirror t s
  | .pmtread t => Sys2Proof.Machine.execPmtread t s
  | .pmtset t => Sys2Proof.Machine.execPmtset t s
  | .pmtCommitNotice t => Sys2Proof.Machine.execPmtCommitNotice t s
  | .ringblk t => Sys2Proof.Machine.execRingblk t s
  | .partialArrive t => Sys2Proof.Machine.execPartialArrive t s
  | .partialToReply t => Sys2Proof.Machine.execPartialToReply t s
  | .attentionQueryTimeout core => Sys2Proof.Machine.execAttentionQueryTimeout core s
  | .pageOwnerWrite page v => Sys2Proof.Machine.execPageOwnerWrite page v s
  | .checkpointEngineCopy k => Sys2Proof.Machine.execCheckpointEngineCopy k s
  | .boundCopyDone core => Sys2Proof.Machine.execBoundCopyDone core s
  | .boundCopyFault core => Sys2Proof.Machine.execBoundCopyFault core s
  | .mwaitWake core ctx => Sys2Proof.Machine.execMwaitWake core ctx s
  | .mwaitTimeout core ctx => Sys2Proof.Machine.execMwaitTimeout core ctx s
  | .mwaitPoll core ctx => Sys2Proof.Machine.execMwaitPoll core ctx s
  | .thermalThrottle die => Sys2Proof.Machine.execThermalThrottle die s
  | .thermalClockRaise die => Sys2Proof.Machine.execThermalClockRaise die s
  | .thermalTrip => Sys2Proof.Machine.execThermalTrip s
  | .railCurrentLimit rail => Sys2Proof.Machine.execRailCurrentLimit rail s
  | .railVoltageShutdown rail => Sys2Proof.Machine.execRailVoltageShutdown rail s
  | .conventionalReset => Sys2Proof.Machine.execConventionalReset s
  | .hotReset => Sys2Proof.Machine.execHotReset s
  | .reducedServiceReached => Sys2Proof.Machine.execReducedServiceReached s
  | .fullServiceReached => Sys2Proof.Machine.execFullServiceReached s
  | .functionLevelReset part => Sys2Proof.Machine.execFunctionLevelReset part s
  | .pfFlr => Sys2Proof.Machine.execPfFlr s
  | .flrDrainAbandon part => Sys2Proof.Machine.execFlrDrainAbandon part s
  | .flrComplete part => Sys2Proof.Machine.execFlrComplete part s
  | .quarantineEnd part => Sys2Proof.Machine.execQuarantineEnd part s
  | .partitionEnable part w0 w1 => Sys2Proof.Machine.execPartitionEnable part w0 w1 s
  | .partitionDisable part => Sys2Proof.Machine.execPartitionDisable part s
  | .partitionDropCountRead part filt => Sys2Proof.Machine.execPartitionDropCountRead part filt s
  | .devstateResume => Sys2Proof.Machine.execDevstateResume s
  | .devstateGofull => Sys2Proof.Machine.execDevstateGofull s
  | .linklossClear => Sys2Proof.Machine.execLinklossClear s
  | .linkLoss => Sys2Proof.Machine.execLinkLoss s
  | .linkRetrain => Sys2Proof.Machine.execLinkRetrain s
  | .bar2Access a => Sys2Proof.Machine.execBar2Access a s
  | .smcReadSensors => Sys2Proof.Machine.execSmcReadSensors s
  | .smcReadLogs => Sys2Proof.Machine.execSmcReadLogs s
  | .smcDumpState core => Sys2Proof.Machine.execSmcDumpState core s
  | .smcPartitionReset part => Sys2Proof.Machine.execSmcPartitionReset part s
  | .smcPackageReset => Sys2Proof.Machine.execSmcPackageReset s
  | .smcPowerCap watts => Sys2Proof.Machine.execSmcPowerCap watts s
  | .smcSpareControl k => Sys2Proof.Machine.execSmcSpareControl k s
  | .smcFirmwareUpdate image sigOk => Sys2Proof.Machine.execSmcFirmwareUpdate image sigOk s
  | .smcDebugResume core ctx rmode => Sys2Proof.Machine.execSmcDebugResume core ctx rmode s
  | .registerWrite r v => Sys2Proof.Machine.execRegisterWrite r v s
  | .emptyBundle => Sys2Proof.Machine.execEmptyBundle s
  | .shevisLinkLoss port => Sys2Proof.Machine.execShevisLinkLoss port s
  | .randomVectorAvailable core ctx => Sys2Proof.Machine.execRandomVectorAvailable core ctx s
  | .attentionEntryComplete core => Sys2Proof.Machine.execAttentionEntryComplete core s
  | .configurationRequest c => Sys2Proof.Machine.execConfigurationRequest c s

end Sys2Proof.Machine
end

