-- ==== Sys2Proof/Machine/Turn.lean ====
section
/-! DEFINITION. Who moves next: the activities that can happen in a state, and the choice among them where the spec gives
no order (R1). -/

namespace Sys2Proof.Machine

/-- The meaning of an event of the package's own, as `exec` gives it. -/
abbrev Happening := State → Host.Outcome State Fault Refusal

/-- One activity: an event from outside, an event of the package's own, or a context that issues a bundle. -/
inductive Act where
  | input (i : Instr)
  | event (f : Happening)
  | issue (k i : Nat)

/-! ### Transactions on the wire (R26-R30, R36, R40) -/

/-- A line of the write-combining buffer, among which no order is kept (R157). -/
def State.wcLine (s : State) (t : Txn) : Bool := match s.reqOf t with
  | some r => r.wc
  | none => false
/-- Requests that have been taken but whose RESP is still to come. -/
def State.owed (s : State) : List Txn :=
  (s.cores.flatMap fun (x : Nat × Core) => x.2.acts.map fun (a : Activation) => a.txn) ++ s.fetches.map (fun (f : Fetch) => f.txn)
    ++ s.appends.map fun (a : Append) => a.txn
/-- A RESP waits for that of an earlier request of its triple (R40): at a source of this package by what it has sent, at another by what
this package still owes it. -/
def State.respWaits (s : State) (t : Txn) : Bool :=
  t.ty == tyResp && t.constituents.isEmpty && (match s.outst.find? fun o => answers o t with
    | some o => s.outst.any fun x => Txn.triple x.txn == Txn.triple o.txn && decide (x.uid < o.uid)
    | none => s.owed.any fun x => x.src == t.dst && x.dst == t.src && x.stream == t.stream
        && x.seq != t.seq && decide ((t.seq + 65536 - x.seq) % 65536 < 32768))
/-- The transaction must stay on the wire: an earlier one of a triple of its own or to its place is there (R40, R164), or its target
cannot take it yet (R40, R49, R160). -/
def State.stays (s : State) (before : List (Nat × Txn)) (t : Txn) : Bool :=
  (before.any fun (x : Nat × Txn) => decide (x.1 < 1000)
    && ((sameTriple x.2 t && !(s.wcLine x.2 && s.wcLine t)) || s.samePlace x.2 t))
  || s.respWaits t
  || (t.ty == tyAttreq && isNma t.dst && (s.nmaHeld t || (t.subop == 2 && s.appendWaits t false) || (t.subop == 3 && s.appendWaits t true)))
  || (t.ty == tyPartial && t.subop != 0xFF && s.mergeFull t)
/-- The arrival of a transaction at its target. -/
def targetArrival (t : Txn) : List Happening :=
  if t.ty = tyLoad then [execLoadArrive t]
  else if t.ty = tyStore then [execStoreArrive t]
  else if t.ty = tyAtomic then [execAtomicArrive none t]
  else if t.ty = tyPush then [execPushArrive none t]
  else if t.ty = tyPop then [execPopArrive none t]
  else if t.ty = tyPuth then [execPuthArrive t]
  else if t.ty = tyPartial then [if t.subop = 0xFF then execPartialToReply t else execPartialArrive t]
  else if t.ty = tySlotctl then [execSlotctl t]
  else if t.ty = tyResp then [execRespArrive none t]
  else if t.ty = tyAttreq then
    match t.subop with
    | 1 => [execQuery t]
    | 2 => [execAppend t]
    | 3 => [execMirror t]
    | 4 => [execPmtread t]
    | 5 => [if payNat t 8 8 = 0 then execPmtCommitNotice t else execPmtset t]
    | 6 => [execRingblk t]
    | _ => [badAttreq t]
  else [fun s => .next (s.enterPkg t id)]
/-- What may happen to a best-effort transaction that has entered `n` routers of its route: a PUSH or POP comes to the next one, or past
the last to its target (R45); any other comes to its target. -/
def State.arrivals (s : State) (n : Nat) (t : Txn) : List Happening :=
  if t.ty = tyPush ∨ t.ty = tyPop then
    match (s.routeOf t)[n]? with
    | some r => [if t.ty = tyPush then execPushArrive (some r) t else execPopArrive (some r) t]
    | none => targetArrival t
  else targetArrival t
/-- An atomic may join one that is ahead of it in a queue on its way, of its own triple too (R42). -/
def State.joins (s : State) (t : Txn) : List Happening :=
  if t.ty = tyAtomic then (s.routeOf t).map fun r => execAtomicArrive (some r) t else []
/-- What may happen to a transaction on the wire, behind `before`: on a circuit it goes on in a slot that maps its input, once it is first
there (R28, R29); one that a circuit carries is injected; a copy that has arrived performs; a best-effort one goes where every output on its
way carries best-effort traffic. -/
def State.moves (s : State) (before : List (Nat × Txn)) (x : Nat × Txn) : List Happening :=
  let t := x.2
  if 1000 ≤ x.1 then
    let r := (x.1 - 1000) / 32
    let i := (x.1 - 1000) % 32
    if before.any fun y => y.1 == x.1 then [] else (s.slotGroups r i).map fun g => fun s => .next (s.circSend r i t g)
  else if s.stays before t then (if x.1 = 999 ∨ s.onCircuit t then [] else s.joins t)
  else if x.1 = 999 then targetArrival t
  else if s.onCircuit t then [fun s => .next (s.circInject t)]
  else if s.openWay t then s.arrivals x.1 t ++ s.joins t else []
/-- Deliveries from a list of transactions, the earlier ones given. -/
def State.deliveries (s : State) (before : List (Nat × Txn)) : List (Nat × Txn) → List Happening
  | [] => []
  | x :: r => s.moves before x ++ s.deliveries (before ++ [x]) r

/-! ### The package's own events -/

/-- What a context may do apart from issuing. -/
def State.cxEvents (s : State) (k i : Nat) (c : Cx) : List Happening :=
  (if c.flights.any (·.late) then [execLateResultArrival k i] else [])
  ++ (if c.sysq.isEmpty then [] else [execSysEntryComplete k i])
  ++ (match c.pause with
    | .none => if s.wdDue k i then [execWatchdogExpire k i] else []
    | .xlate _ _ _ => [execTranslationComplete k i]
    | .rnd _ => [execRandomVectorAvailable k i]
    | .rdv => [execRendezvousComplete k]
    | .drain _ _ => [execDrainComplete k i]
    | .limit _ => [execHoldingWaitTimeout k i]
    | _ => [execJoinResultReady k i])
/-- What a core may do: its contexts, its engines, its points. -/
def State.coreEvents (s : State) (k : Nat) (c : Core) : List Happening :=
  s.cxEvents k 0 c.cx0 ++ s.cxEvents k 1 c.cx1 ++ s.cxEvents k 2 c.cx2 ++ s.cxEvents k 3 c.cx3
  ++ (if c.mxq.isEmpty ∧ c.gq.isEmpty then [] else [execMxEntryPerform k])
  ++ (if c.atq.isEmpty then [] else [execAttentionEntryComplete k])
  ++ (if c.cpq.isEmpty then [] else [execCopyEntryDone k, execBoundCopyDone k, execBoundCopyFault k])
  ++ (if c.tags.isEmpty then [] else [execAttentionQueryTimeout k])
  ++ (if c.acts.isEmpty then [] else [execHandlerActivationStart k])
  ++ (if c.cx0.pause = .suspending then [execSuspendAtSuspensionPoint k] else [])
  ++ (if c.freezeReq then [execFreezeSave k] else [])
  ++ (if c.restore.isSome then [execFrozenRestore k] else [])
/-- What a cluster may do: aging, and a core that takes work. -/
def clusterEvents (cl : Nat) (c : Cluster) : List Happening :=
  if c.ready.isEmpty then [] else execReadyQueueAging cl :: (List.range 8).map fun j => execReadyQueueDispatch (coreOfCluster cl j)
/-- What the launches and streams of a die may do. -/
def State.dieEvents (s : State) (d : Nat) (x : Die) : List Happening :=
  (x.allLaunches.flatMap fun l =>
    let k : LKey := { l.1 with die := d }
    [execLaunchRelease k, execPointFire k, execPreemption k, execLaunchTakeBack k, execLaunchRetire k, execDeadlineArrival k])
  ++ (x.streams.flatMap fun t =>
    (if t.slot.isNone then [execStreamMap t.part t.j] else []) ++ (if s.wakeDue t then [execStreamTailWake t.part t.j] else [])
    ++ (if s.unmapDue t then [execStreamQuantumUnmap t.part t.j] else []))
  ++ x.monitors.flatMap fun m => [execMwaitWake m.core m.ctx, execMwaitTimeout m.core m.ctx, execMwaitPoll m.core m.ctx]
/-- Lines that the L2 of a die may evict at any time, clean or dirty (R155). -/
def evictions (d : Nat) (x : Die) : List Happening :=
  (x.clean.lines.map fun l => fun s => .next (s.evictLine d (l / 16 * 128)))
  ++ ((x.l2.map fun (b : Nat × L2Byte) => b.1 / 128 * 128).eraseDups.map fun a => fun s =>
    .next (if a < 2 ^ 52 then s.writeBack d fun y => sameLine y.1 a else s.remoteBack d (s.remoteIn d a 128)))
/-- Everything else of the package. -/
def State.packageEvents (s : State) : List Happening :=
  (s.segs.map fun (x : Nat × Seg) => execSegmentBundleLimit x.1)
  ++ (s.routers.flatMap fun (x : Nat × Router) => if x.2.swapTick.isSome then [execSlotBankSwap x.1] else [])
  ++ ((List.range s.ckpts.length).map execCheckpointEngineCopy)
  ++ (s.parts.flatMap fun (x : Nat × Part) => if x.2.state = 2 then [execFlrComplete x.1] else [])
  ++ (s.pkg.swapPending.map fun (x : Nat × Nat) => execCoreSwapAbandon x.1)
  ++ (if s.pkg.stoppers.isEmpty then [] else [execFrameCounterResume])
  ++ (if s.hostq.isEmpty then [] else [hostNext])

/-- Events that the package's own parts may bring about. What time, the host, a failure or another package brings about comes by the
inbox alone. -/
def State.candidates (s : State) : List Happening :=
  (s.cores.flatMap fun (x : Nat × Core) => s.coreEvents x.1 x.2) ++ (s.clusters.flatMap fun (x : Nat × Cluster) => clusterEvents x.1 x.2)
  ++ (s.dies.flatMap fun (x : Nat × Die) => s.dieEvents x.1 x.2 ++ evictions x.1 x.2) ++ s.packageEvents ++ s.deliveries [] s.wire
/-- The swaps that wait for a frame boundary (R13, R14). -/
def State.swaps (s : State) : List Happening :=
  (s.pkg.swapPending.map fun (x : Nat × Nat) => execLiveCoreSwap x.1)
  ++ (s.ports.flatMap fun (x : Nat × Port) => if x.2.swap.isSome then [execLiveLaneSwap x.1] else [])
/-- The frame boundary is over: what could not be swapped waits for another. -/
def endBoundary (s : State) : Host.Outcome State Fault Refusal := .next { s with pkg := { s.pkg with swapReady := false } }

/-- An event that would do something now, and for whose requests their dies have room (R38). -/
def happens (s : State) (f : Happening) : Bool :=
  match f s with
  | .next t => decide (t ≠ s) && !s.overfull t
  | _ => true

/-- The package's own events that can happen now: those whose meaning does something. At a frame boundary the swaps come first. -/
def State.internal (s : State) : List Happening :=
  if s.pkg.swapReady then
    let l := s.swaps.filter (happens s)
    if l.isEmpty then [endBoundary] else l
  else s.candidates.filter (happens s)

/-- The contexts that can issue (R128), on dies in service (R93). -/
def State.issuers (s : State) : List Act :=
  s.cores.filterMap fun (x : Nat × Core) =>
    if s.serves (dieOf x.1) then (s.issuer x.1).map fun i => .issue x.1 i else none

/-- Everything that can happen next. -/
def State.choices (s : State) : List Act :=
  (match s.inbox with
    | i :: _ => if s.pkg.swapReady then [] else [.input i]
    | [] => [])
  ++ s.internal.map .event ++ (if s.pkg.swapReady then [] else s.issuers)

/-- The activity that happens: the only one, or the one the free value picks (log 5). -/
def State.pick (s : State) : Option Act :=
  match s.choices with
  | [] => none
  | [a] => some a
  | l => l[Config.freeNat s.free % l.length]?

/-! ### What arrives from outside -/

/-- The transaction of an arrival from outside, as it lies on the wire. -/
def arrivalOf : Instr → Option Txn
  | .loadArrive t => some { t with ty := tyLoad }
  | .storeArrive t => some { t with ty := tyStore }
  | .atomicArrive none t => some { t with ty := tyAtomic }
  | .pushArrive none t => some { t with ty := tyPush }
  | .popArrive none t => some { t with ty := tyPop }
  | .puthArrive t => some { t with ty := tyPuth }
  | .slotctl t => some { t with ty := tySlotctl }
  | .respArrive none t => some { t with ty := tyResp }
  | .query t => some { t with ty := tyAttreq, subop := 1 }
  | .append t => some { t with ty := tyAttreq, subop := 2 }
  | .mirror t => some { t with ty := tyAttreq, subop := 3 }
  | .pmtread t => some { t with ty := tyAttreq, subop := 4 }
  | .pmtset t => some { t with ty := tyAttreq, subop := 5 }
  | .pmtCommitNotice t => some { t with ty := tyAttreq, subop := 5 }
  | .ringblk t => some { t with ty := tyAttreq, subop := 6 }
  | .partialArrive t => some { t with ty := tyPartial }
  | .partialToReply t => some { t with ty := tyPartial }
  | _ => none
/-- What a tripped package still does: the sideband controller runs on standby power (R17, R94). -/
def ofSmc : Instr → Bool
  | .smcReadSensors => true
  | .smcReadLogs => true
  | .smcPackageReset => true
  | .smcPowerCap _ => true
  | .smcFirmwareUpdate _ _ => true
  | .smcDumpState _ => true
  | .smcPartitionReset _ => true
  | .smcSpareControl _ => true
  | _ => false

/-- An event from outside happens. A transaction behind others of its triple queues up (R40), as does one that a circuit carries (R30) or that a
router of its way may pair (R45); a tripped package hears the sideband controller only. -/
def State.input (run : Instr → State → Host.Outcome State Fault Refusal) (s : State) (i : Instr) : Host.Outcome State Fault Refusal :=
  if s.pkg.trip ∧ !ofSmc i then .next s
  else match arrivalOf i with
    | some t => if s.stays s.wire t ∨ s.onCircuit t ∨ t.ty = tyPush ∨ t.ty = tyPop then .next { s with wire := s.wire ++ [(0, t)] } else run i s
    | none => run i s

/-- One activity happens. Issuing a bundle of context 1 or 2 passes the turn to the other (R128). -/
def State.perform (run : Instr → State → Host.Outcome State Fault Refusal) (s : State) (a : Act) :
    Host.Outcome State Fault Refusal :=
  let s := { s with free := s.free + 1 }
  match a with
  | .input i => { s with inbox := s.inbox.tail }.input run i
  | .event f => f s
  | .issue k i =>
    issue run k i (if i = 1 ∨ i = 2 then s.updCore k fun c => { c with alt := i == 1 } else s)

/-- One step of the package; with nothing to do it stays as it is. -/
def stepWith (run : Instr → State → Host.Outcome State Fault Refusal) (s : State) : Host.Outcome State Fault Refusal :=
  match s.pick with
  | none => .next s
  | some a => s.perform run a

/-- Where `withFetchWord` puts its bundle: virtual 0x200_0000, mapped to the HBM page 0x2_0000. -/
def bootVa : Nat := 2 ^ 25
def bootPa : Nat := 0x20000

/-- Five page-table entries and the bundle: the slot word, and zero words (s0 from s0) in the other slots (R258). -/
def bootMemory (w : Nat) : List Host.Cell :=
  SMap.setRun 0 (SMap.setRun 0 (SMap.setRun 0 (SMap.setRun 0 (SMap.setRun 0 (SMap.setRun 0 []
    0x10000 (leBytes 8 0x11001)) 0x11000 (leBytes 8 0x12001)) 0x12000 (leBytes 8 0x13001))
    0x13080 (leBytes 8 0x14001)) 0x14000 (leBytes 8 0x2000F)) bootPa (leBytes 16 w)

/-- A core whose context 0 is about to issue the bundle at `bootVa`. -/
def bootCore (c : Core) : Core :=
  { c with
    cx0 := { c.cx0 with run := .running, pause := .none, pc := bootVa / 16, upc := 0, pend := none, repLeft := 0, raise := [],
                        skip := false, hold := none, noBrk := false, rqbuf := 4 },
    cx1 := { c.cx1 with run := .idle }, cx2 := { c.cx2 with run := .idle }, cx3 := { c.cx3 with run := .idle },
    point := some { l := ⟨0, 0, 0⟩ }, freezeReq := false, icache := {} }

/-- The machine loaded from outside with one bundle as a lone point of partition 0 on core 0 (notes/assumptions/10); nothing else of the
package is under way. -/
def bootState (s : State) (nbits w : Nat) : State :=
  let s := { s with
    pkg := { s.pkg with svc := 2, trip := false, swapReady := false, swapPending := [], stoppers := [], offStacks := [] },
    cores := [(0, bootCore (s.core 0))], segs := [], inbox := [], hostq := [], wire := [], bnd := {}, dies := [], routers := [], ports := [],
    ckpts := [], parts := [], hbm := bootMemory (w % 2 ^ nbits), hbmPoison := [], llc := [], owner := [(1, 0x10), (2, 0x10)] }
  let s := s.updPart 0 fun p => { p with en := true, state := 1, clmask := 1, root := 0x10, wdlim := 0, prot := false,
                                         fenced := false, mchk := false }
  { s with clusters := [(0, { tlb := [⟨0, bootVa, 65536, 0x2000F, false⟩] })] }

end Sys2Proof.Machine
end

