-- ==== Sys2Proof/Machine/Step.lean ====
section
/-! DEFINITION. One step of the package, and the state in which a given instruction is the next to run. -/

namespace Sys2Proof.Machine

/-- One step: one activity of the package happens (R1), with `exec` as the meaning of instructions and events. -/
def step (s : State) : Host.Outcome State Fault Refusal := stepWith exec s

/-- The state with a bundle placed where step fetches next: slot 0 holds the word, slots 1 to 3 hold zeros. -/
def State.withFetchWord (s : State) (nbits w : Nat) : State := bootState s nbits w

end Sys2Proof.Machine
end

