-- ==== Sys2Proof/Machine/Asm.lean ====
section
/-! DEFINITION. Source lines of the assembler `cras`: names, expressions and transports (R219-R221), and the bundle that it makes of a
line (R222-R224). `none` is a refusal. -/

namespace Sys2Proof.Machine

/-- The text of a line or of a part of one. -/
abbrev Text := List Char

/-! ### Names (R219) -/

def nameStart (c : Char) : Bool := c.isAlpha || c == '_' || c == '.'
def nameChar (c : Char) : Bool := nameStart c || c.isDigit || c == '$'

/-- The value of digits in a base up to 16; none where there is no digit or another character. -/
def digitVal (c : Char) : Nat :=
  if c.isDigit then c.toNat - 48 else if 97 ≤ c.toNat ∧ c.toNat < 103 then c.toNat - 87 else if 65 ≤ c.toNat ∧ c.toNat < 71 then c.toNat - 55 else 99
def digitsVal (base : Nat) (l : Text) : Option Nat :=
  if l.isEmpty || l.any (fun c => decide (base ≤ digitVal c)) then none else some (l.foldl (fun n c => n * base + digitVal c) 0)

/-- The rest of a text after a prefix. -/
def afterPrefix : Text → Text → Option Text
  | [], l => some l
  | c :: p, d :: l => if c = d then afterPrefix p l else none
  | _ :: _, [] => none
/-- The number that stands after a prefix, below a bound, written without a leading zero. -/
def numbered (pre : String) (bound : Nat) (n : Text) : Option Nat :=
  match afterPrefix pre.toList n with
  | some r => match digitsVal 10 r with
    | some v => if v < bound ∧ (r.head? ≠ some '0' ∨ r.length = 1) then some v else none
    | none => none
  | none => none

/-- The register that a name spells (R269, R271); a ct table is written with an entry. -/
def regName (n : Text) : Option RegDst :=
  ((numbered "s" 64 n).map fun i => RegDst.s (finOf 64 i))
  <|> ((numbered "v" 64 n).map fun i => RegDst.v (finOf 64 i))
  <|> ((numbered "m" 16 n).map fun i => RegDst.m (finOf 16 i))
  <|> ((numbered "k" 16 n).map fun i => RegDst.small (.k (finOf 16 i)))
  <|> ((numbered "g" 8 n).map fun i => RegDst.small (.g (finOf 8 i)))
  <|> ((numbered "a" 16 n).map fun i => RegDst.small (.a (finOf 16 i)))
  <|> ((numbered "lc" 4 n).map fun i => RegDst.small (.lc (finOf 4 i)))
  <|> ((numbered "cb" 16 n).map fun i => RegDst.small (.cb (finOf 16 i)))
  <|> ((numbered "ft" 16 n).map fun i => RegDst.small (.ft (finOf 16 i)))
  <|> ((numbered "ct" 4 n).map fun i => RegDst.small (.ct (finOf 4 i)))

/-- The special source that a name spells (R268); lc0 to lc3 are written as registers. -/
def specialName (n : Text) : Option Special :=
  (["rnd", "lc0", "lc1", "lc2", "lc3", "fc", "vcc", "pt.x", "pt.y", "pt.z", "core", "clus", "ctx", "arg0", "arg1", "arg2", "arg3"].idxOf?
    (String.ofList n)).bind Special.ofCode

/-- The id of the unit that a name spells (R270). -/
def unitName (n : Text) : Option Nat :=
  ["s", "v", "m", "k", "seq", "alu0", "alu1", "agu", "lsu", "vu", "mu", "mx", "att", "ce", "cb", "qu", "sys"].idxOf? (String.ofList n)

/-- The mnemonics of a unit in the order of their codes, from the first of a block on (R272 Tables 10-19). -/
def mnemonicsOf : Nat → List (Nat × List String)
  | 4 => [(4, ["jmp", "jmpr", "call", "callr", "ret", "loop", "loopx", "rep", "mcall", "mret", "susp", "rdv", "brk", "waitg", "waitng"])]
  | 5 | 6 => [(4, ["add", "sub", "mul", "mulh", "mulhu", "and", "or", "xor", "andn", "shl", "shr", "sar", "rol", "min", "max", "minu",
      "maxu", "sel", "bfx", "bfxs", "bfi", "clz", "ctz", "popc", "limm", "addsat", "subsat"]),
      (0x20, ["ceq", "cne", "clt", "cle", "cltu", "cleu", "cbit"])]
  | 7 => [(4, ["set", "lin", "tile", "arena", "chk", "step"])]
  | 8 => [(4, ["ldb", "ldh", "ldw", "ldd", "ldbs", "ldhs", "ldws", "ldv", "stb", "sth", "stw", "std", "stv", "stvn", "gath", "scat", "pref"]),
      (0x18, ["ldacq"]), (0x20, ["strel"]), (0x28, ["drain"])]
  | 9 => [(4, ["add", "sub", "mul", "fma", "min", "max", "div", "sqrt", "addb", "subb", "mulb", "fmab", "minb", "maxb", "addh", "subh", "mulh",
      "fmah", "minh", "maxh", "exp2", "log2", "rcp", "rsqrt", "tanh", "erf", "sigm"]), (0x20, ["cvt", "bq", "ic8d", "bscl"]),
      (0x28, ["iadd", "isub", "imul", "iand", "ior", "ixor", "ishl", "ishr", "isar", "imin", "imax", "iaddsat"]),
      (0x38, ["fcmpeq", "fcmplt", "fcmple", "fcmpun", "icmpeq", "icmplt"]), (0x40, ["kand", "kor", "kxor", "knot", "kpop", "ksel"]),
      (0x48, ["perm", "bcast", "shuf", "lrot"]), (0x50, ["rsum", "rmax", "rmin", "irsum"]), (0x58, ["rnorm", "runif"])]
  | 10 => [(4, ["mode", "ldp", "stp", "madd", "msub", "mmul", "mscale", "mexp", "mrelu", "mgelu", "mmean", "msamp", "mpack", "munpk"])]
  | 11 => [(4, ["mma", "mmag", "mmar", "mmaic", "mmam", "mmaft", "trans", "perm", "rowsum", "zero", "am2v", "v2am", "eadd", "mskld", "desc",
      "join", "resume", "scl", "gidx"])]
  | 12 => [(4, ["qmc", "part", "merge", "final", "app", "pmtrd", "pmtset", "ring", "stat"])]
  | 13 => [(4, ["cpy", "cpyw", "bind", "qfence", "ckst", "ckwait", "ckrst", "cpy2d"])]
  | 14 => [(4, ["waitf", "waite", "padv", "cadv", "cstat"])]
  | 15 => [(4, ["push", "pop", "qwait", "amo", "red", "amoacq", "amorel", "talloc", "tdec", "puth", "mwait", "bara", "barw", "barx", "bari"])]
  | 16 => [(4, ["csrr", "csrw", "csrs", "csrc", "trap", "tret", "hret", "launch", "launchi", "retire", "frd", "hinst", "tlbi", "tlbun", "cinv",
      "cwb", "slotld", "csw", "irq", "dbg"])]
  | _ => []
/-- The code of a mnemonic of a unit. -/
def opName (unit : Nat) (n : Text) : Option Nat :=
  (mnemonicsOf unit).findSome? fun b => (b.2.idxOf? (String.ofList n)).map (b.1 + ·)

/-- A name that may be defined: well-formed, and spelling no register, unit, special source or mnemonic. -/
def nameOk (n : Text) : Bool :=
  (match n with
    | c :: r => nameStart c && r.all nameChar
    | [] => false) && decide (n.length ≤ 255) && (regName n).isNone && (specialName n).isNone && (unitName n).isNone
    && (List.range 17).all fun u => (opName u n).isNone

/-! ### Values and symbols -/

/-- What a name stands for while a source is assembled: a number, an address that the loader fixes (the index of its symbol), a cb
register (R225), or a thing with no value. -/
inductive SymVal where
  | const (v : Int)
  | addr (sym : Nat)
  | cb (n : Nat)
  | obj
  deriving DecidableEq, Repr
/-- The value of an expression: a number, or the address of a symbol plus an addend, shifted right by 4 if `mpc` is set (R220). -/
inductive AVal where
  | abs (v : Int)
  | rel (sym : Nat) (add : Int) (mpc : Bool)
  deriving DecidableEq, Repr
abbrev Env := List (String × SymVal)

/-! ### Expressions (R220) -/

/-- Tokens: a number, a name, an operator (`<` and `>` stand for the shifts). -/
inductive Tok where
  | num (v : Int)
  | name (n : Text)
  | op (c : Char)
  deriving DecidableEq, Repr

def literal : Text → Option Nat
  | '0' :: 'x' :: r => digitsVal 16 (r.filter (· != '_'))
  | '0' :: 'b' :: r => digitsVal 2 r
  | l => digitsVal 10 l
/-- An integer literal with an optional minus. -/
def signed : Text → Option Int
  | '-' :: r => (digitsVal 10 r).map fun n => -(n : Int)
  | '+' :: r => (digitsVal 10 r).map fun n => (n : Int)
  | r => (digitsVal 10 r).map fun n => (n : Int)
/-- The exact value of a decimal literal, or one that rounds as it does in every format. -/
def decimal (l : Text) : Option XR :=
  let neg := l.head? == some '-'
  let l := if neg then l.drop 1 else l
  let m := l.takeWhile fun c => c != 'e' && c != 'E'
  let whole := m.takeWhile (· != '.')
  let frac := m.drop (whole.length + 1)
  match digitsVal 10 (whole ++ frac), (if m.length = l.length then some 0 else signed (l.drop (m.length + 1))) with
  | some n, some e =>
    let e := e - frac.length
    some (if 0 ≤ e then .fin neg (n * 10 ^ e.toNat) 0 else XR.div (.fin neg n 0) (.fin false (10 ^ (-e).toNat) 0))
  | _, _ => none
/-- The format of the functions f32, bf16 and f16. -/
def floatFn (n : Text) : Option Fmt :=
  (["f32", "bf16", "f16"].idxOf? (String.ofList n)).bind ([Fmt.fp32, .bf16, .fp16][·]?)

/-- The tokens of an expression. -/
def tokens : Nat → Text → Option (List Tok)
  | _, [] => some []
  | 0, _ :: _ => none
  | k + 1, c :: r =>
    if c = ' ' ∨ c = '\t' then tokens k r
    else if c.isDigit then
      let d := c :: r.takeWhile fun c => c.isAlphanum || c == '_'
      match literal d, tokens k ((c :: r).drop d.length) with
      | some v, some t => some (.num v :: t)
      | _, _ => none
    else if nameStart c then
      let n := c :: r.takeWhile nameChar
      let rest := ((c :: r).drop n.length)
      match floatFn n, rest with
      | some f, '(' :: q =>
        let d := (q.takeWhile (· != ')')).filter (· != ' ')
        match decimal d, tokens k (q.drop ((q.takeWhile (· != ')')).length + 1)) with
        | some x, some t => some (.num (f.round 0 x) :: t)
        | _, _ => none
      | _, _ => (tokens k rest).map (.name n :: ·)
    else match c, r with
      | '<', '<' :: q => (tokens k q).map (.op '<' :: ·)
      | '>', '>' :: q => (tokens k q).map (.op '>' :: ·)
      | _, _ => if ['+', '-', '*', '/', '%', '&', '|', '^', '~', '(', ')'].contains c then (tokens k r).map (.op c :: ·) else none

/-- The precedence of a binary operator, as in C. -/
def precOf (c : Char) : Option Nat :=
  match c with
  | '|' => some 1 | '^' => some 2 | '&' => some 3 | '<' => some 4 | '>' => some 4 | '+' => some 5 | '-' => some 5
  | '*' => some 6 | '/' => some 6 | '%' => some 6 | _ => none
/-- A bitwise operation on integers of any size, in two's complement. -/
def bitwise (f : {n : Nat} → BitVec n → BitVec n → BitVec n) (a b : Int) : Int :=
  let w := max (Nat.log2 a.natAbs) (Nat.log2 b.natAbs) + 2
  (f (BitVec.ofInt w a) (BitVec.ofInt w b)).toInt
/-- A binary operation: exact over the integers; an address takes an addend only. -/
def binOp (c : Char) (a b : AVal) : Option AVal :=
  match a, b with
  | .abs x, .abs y => match c with
    | '|' => some (.abs (bitwise (· ||| ·) x y))
    | '^' => some (.abs (bitwise (· ^^^ ·) x y))
    | '&' => some (.abs (bitwise (· &&& ·) x y))
    | '<' => if 0 ≤ y then some (.abs (x * 2 ^ y.toNat)) else none
    | '>' => if 0 ≤ y then some (.abs (x / 2 ^ y.toNat)) else none
    | '+' => some (.abs (x + y))
    | '-' => some (.abs (x - y))
    | '*' => some (.abs (x * y))
    | '/' => if y = 0 then none else some (.abs (x.tdiv y))
    | '%' => if y = 0 then none else some (.abs (x.tmod y))
    | _ => none
  | .rel s x false, .abs y => match c with
    | '+' => some (.rel s (x + y) false)
    | '-' => some (.rel s (x - y) false)
    | _ => none
  | .abs x, .rel s y false => if c = '+' then some (.rel s (x + y) false) else none
  | _, _ => none
/-- The value of a name. -/
def nameVal (env : Env) (n : Text) : Option AVal :=
  match env.lookup (String.ofList n) with
  | some (.const v) => some (.abs v)
  | some (.addr s) => some (.rel s 0 false)
  | _ => none

mutual
/-- An operand of an expression, and what follows it. -/
def operand (env : Env) : Nat → List Tok → Option (AVal × List Tok)
  | 0, _ => none
  | k + 1, ts =>
    match ts with
    | .num v :: t => some (.abs v, t)
    | .op '-' :: t => match operand env k t with
      | some (.abs v, t) => some (.abs (-v), t)
      | _ => none
    | .op '~' :: t => match operand env k t with
      | some (.abs v, t) => some (.abs (-v - 1), t)
      | _ => none
    | .op '(' :: t => match expr env k 1 t with
      | some (v, .op ')' :: t) => some (v, t)
      | _ => none
    | .name n :: .op '(' :: t => if String.ofList n = "mpc" then (match expr env k 1 t with
        | some (.rel s a false, .op ')' :: t) => some (.rel s a true, t)
        | some (.abs v, .op ')' :: t) => some (.abs (v / 16), t)
        | _ => none) else none
    | .name n :: t => (nameVal env n).map fun v => (v, t)
    | _ => none
/-- An expression of operators of a precedence `p` or higher. -/
def expr (env : Env) : Nat → Nat → List Tok → Option (AVal × List Tok)
  | 0, _, _ => none
  | k + 1, p, ts => match operand env k ts with
    | some (v, t) => climb env k p v t
    | none => none
/-- The operators that follow an operand. -/
def climb (env : Env) : Nat → Nat → AVal → List Tok → Option (AVal × List Tok)
  | 0, _, _, _ => none
  | k + 1, p, v, ts =>
    match ts with
    | .op c :: t => match precOf c with
      | some q => if q < p then some (v, ts) else match expr env k (q + 1) t with
        | some (w, t) => match binOp c v w with
          | some x => climb env k p x t
          | none => none
        | none => none
      | none => some (v, ts)
    | _ => some (v, ts)
end
/-- The value of an expression. -/
def exprVal (env : Env) (l : Text) : Option AVal :=
  match tokens (l.length + 1) l with
  | some ts => match expr env (3 * ts.length + 3) 1 ts with
    | some (v, []) => some v
    | _ => none
  | none => none
/-- The value of an expression that the loader does not change. -/
def constVal (env : Env) (l : Text) : Option Int :=
  match exprVal env l with
  | some (.abs v) => some v
  | _ => none
/-- A natural number below a bound. -/
def boundedVal (env : Env) (bound : Nat) (l : Text) : Option Nat :=
  match constVal env l with
  | some v => if 0 ≤ v ∧ v < bound then some v.toNat else none
  | none => none

/-! ### Lines -/

def isSpace (c : Char) : Bool := c == ' ' || c == '\t'
def trim (l : Text) : Text := ((l.dropWhile isSpace).reverse.dropWhile isSpace).reverse
/-- A line without its comment. -/
def uncomment : Text → Text
  | [] => []
  | ';' :: _ => []
  | '/' :: '/' :: _ => []
  | c :: r => c :: uncomment r
/-- Cut a text at the first place of two characters. -/
def cutAt (a b : Char) : Text → Option (Text × Text)
  | c :: d :: r => if c = a ∧ d = b then some ([], r) else (cutAt a b (d :: r)).map fun x => (c :: x.1, x.2)
  | _ => none
/-- Split a text at every place of two characters. -/
def splitAt2 (a b : Char) : Nat → Text → List Text
  | 0, l => [l]
  | k + 1, l => match cutAt a b l with
    | some (x, y) => x :: splitAt2 a b k y
    | none => [l]
/-- Split a text at the commas outside parentheses. -/
def splitComma : Nat → Text → List Text
  | _, [] => [[]]
  | d, c :: r =>
    if c = ',' ∧ d = 0 then [] :: splitComma 0 r
    else match splitComma (if c = '(' then d + 1 else if c = ')' then d - 1 else d) r with
      | x :: t => (c :: x) :: t
      | [] => [[c]]
/-- The arguments of a directive. -/
def argsOf (l : Text) : List Text := if (trim l).isEmpty then [] else (splitComma 0 l).map trim
/-- The parts of a name between its points. -/
def splitDots : Text → List Text
  | [] => [[]]
  | '.' :: r => [] :: splitDots r
  | c :: r => match splitDots r with
    | x :: t => (c :: x) :: t
    | [] => [[c]]
/-- The label of a line and the rest (R219). -/
def labelOf (l : Text) : Option Text × Text :=
  let l := trim (uncomment l)
  let n := l.takeWhile nameChar
  match l.drop n.length with
  | ':' :: r => if n.isEmpty then (none, l) else (some n, trim r)
  | _ => (none, l)

/-! ### Transports (R221) -/

/-- A source: one that the S field names alone, one with a selector (R263), or an immediate. -/
inductive ASrc where
  | plain (s : Src)
  | sel (s : Src) (code : Nat)
  | imm (v : AVal)
  deriving DecidableEq, Repr
/-- A transport as it is written; `sel` is the entry of a ct table that it writes. -/
structure ATr where
  g : Guard := ⟨false, 0⟩
  src : ASrc
  unit : Nat
  op : Nat
  m : Nat := 0
  sel : Option Nat := none
  lend : Option Nat := none
  deriving DecidableEq, Repr

/-- A guard at the head of a transport; `(!g0)` is refused. -/
def guardOf (l : Text) : Option (Guard × Text) :=
  match l with
  | '(' :: r =>
    let neg := r.head? == some '!'
    let q := (if neg then r.drop 1 else r).dropWhile isSpace
    match numbered "g" 8 (trim (q.takeWhile (· != ')'))) with
    | some i => if neg ∧ i = 0 then none else some (⟨neg, finOf 8 i⟩, q.drop ((q.takeWhile (· != ')')).length + 1))
    | none => some (⟨false, 0⟩, l)
  | _ => some (⟨false, 0⟩, l)

/-- `name[i]` of a ct table. -/
def ctEntry (env : Env) (l : Text) : Option (Fin 4 × Nat) :=
  match numbered "ct" 4 (trim (l.takeWhile (· != '['))), l.dropWhile (· != '[') with
  | some t, '[' :: r => match r.reverse with
    | ']' :: q => (boundedVal env 256 q.reverse).map fun e => (finOf 4 t, e)
    | _ => none
  | _, _ => none
/-- The register that a source or destination names, a `.cb` name among them. -/
def regOf (env : Env) (n : Text) : Option RegDst :=
  match regName n with
  | some r => some r
  | none => match env.lookup (String.ofList n) with
    | some (.cb i) => some (.small (.cb (finOf 16 i)))
    | _ => none
/-- A source with points in it: a bypass register, an element of a v register, a lane of an m register. -/
def dotted (l : Text) : Option ASrc :=
  match splitDots l with
  | [u, b] => match (unitName u).bind FUnit.ofId, regName u with
    | some f, _ => match numbered "b" 4 b, numbered "j" 4 b with
      | some i, _ => if i < f.nByp then some (.plain (.byp f false (finOf 4 i))) else none
      | _, some i => if i < f.nByp then some (.plain (.byp f true (finOf 4 i))) else none
      | _, _ => none
    | none, some (.v i) => (numbered "e" 16 b).map fun e => .sel (.v i) (0x80 + e)
    | none, some (.m i) => (numbered "l" 32 b).map fun e => .sel (.m i) (0xA0 + e)
    | _, _ => none
  | _ => none
/-- The source of a register: lc0 to lc3 go by their special codes (R268), a whole ct table is none. -/
def regSrc : RegDst → Option Src
  | .s i => some (.s i)
  | .v i => some (.v i)
  | .m i => some (.m i)
  | .small (.lc i) => some (.special (.lc i))
  | .small (.ct _) => none
  | .small r => some (.small r)
def srcOf (env : Env) (l : Text) : Option ASrc :=
  match specialName l, regOf env l, dotted l, ctEntry env l with
  | some c, _, _, _ => some (.plain (.special c))
  | _, some r, _, _ => (regSrc r).map .plain
  | _, _, some s, _ => some s
  | _, _, _, some (t, e) => some (.sel (.small (.ct t)) e)
  | _, _, _, _ => (exprVal env l).map .imm

/-- Whether an lsu operation takes its scope from a suffix (R273). -/
def takesScope (unit op : Nat) : Bool := unit == 8 && (op == 0x18 || op == 0x20 || op == 0x28)
/-- The code and the M field of an operation with its suffix (R221, R266, R273). -/
def withSuffix (unit op : Nat) (suf : List Text) : Option (Nat × Nat) :=
  match suf.map String.ofList with
  | [] => if takesScope unit op then none else some (op, 0)
  | [x] =>
    if takesScope unit op then (["core", "clus", "die", "pkg", "dom", "sys"].idxOf? x).map fun c => (op + c, 0)
    else if unit = 9 ∧ x = "w512" then some (op, 1)
    else if unit = 9 ∧ x = "w256" then some (op, 2)
    else if unit = 8 ∧ x = "bp" then some (op, 2)
    else none
  | _ => none
/-- A destination: unit, operation, M and the entry of a ct table. -/
def dstOf (env : Env) (l : Text) : Option (Nat × Nat × Nat × Option Nat) :=
  match ctEntry env l, regOf env l with
  | some (t, e), _ => some (3, (RegDst.small (.ct t)).index, 0, some e)
  | none, some (.small (.ct _)) => none
  | none, some r => some (r.unit, r.index, 0, none)
  | none, none => match splitDots l with
    | u :: o :: suf => match unitName u with
      | some n => if n < 4 then none else match numbered "o" 4 o with
        | some p => if suf.isEmpty then some (n, p, 0, none) else none
        | none => match opName n o with
          | some c => (withSuffix n c suf).map fun x => (n, x.1, x.2, none)
          | none => none
      | none => none
    | _ => none
/-- The lend code of a register; none where Table 3 of R261 has none. -/
def lendOf : RegDst → Option Nat
  | .s i => some i.val
  | .v i => some (0x40 + i.val)
  | .m i => some (0x80 + i.val)
  | .small (.k i) => some (0x90 + i.val)
  | .small (.g i) => some (0xA0 + i.val)
  | .small (.a i) => some (0xB0 + i.val)
  | .small (.lc i) => some (0xC0 + i.val)
  | _ => none
def parseTransport (env : Env) (l : Text) : Option ATr :=
  match guardOf (trim l) with
  | none => none
  | some (g, r) => match cutAt '-' '>' r with
    | none => none
    | some (src, rest) =>
      let (dst, lend) : Text × Option Text := match cutAt '=' '>' rest with
        | some (d, n) => (d, some n)
        | none => (rest, none)
      match srcOf env (trim src), dstOf env (trim dst), lend.map fun n => (regOf env (trim n)).bind lendOf with
      | some s, some (u, o, m, e), none => some { g := g, src := s, unit := u, op := o, m := m, sel := e }
      | some s, some (u, o, m, e), some (some c) =>
        if u < 4 ∨ o < 4 then none else some { g := g, src := s, unit := u, op := o, m := m, sel := e, lend := some c }
      | _, _, _ => none
/-- The transports of a bundle line. -/
def parseLine (env : Env) (l : Text) : Option (List ATr) := (splitAt2 '|' '|' l.length l).mapM (parseTransport env)

/-! ### From line to bundle (R222-R224) -/

/-- The flags of `.segment`, `.susp` and `.rdv`. -/
structure Flags3 where
  seg : Bool := false
  susp : Bool := false
  rdv : Bool := false
  deriving DecidableEq, Repr

/-- The header kinds that a transport needs (R223 Table 1); none where its immediate is beyond 34 bits. -/
def ATr.needs (t : ATr) : Option (List Nat) :=
  let l := (if t.lend.isSome then [0] else []) ++ (if t.sel.isSome then [2] else [])
  match t.src with
  | .plain _ => some l
  | .sel _ _ => some (2 :: l)
  | .imm (.rel ..) => some (3 :: l)
  | .imm (.abs v) =>
    if -512 ≤ v ∧ v ≤ 511 then some l
    else if -131072 ≤ v ∧ v ≤ 131071 then some (1 :: l)
    else if -(2 ^ 33) ≤ v ∧ v < 2 ^ 33 then some (3 :: l)
    else none
/-- The immediate of a transport as a 34-bit number; one that the loader fixes is 0 until then. -/
def ATr.immBits (t : ATr) : Option Nat :=
  match t.src with
  | .imm (.abs v) => some (v % 2 ^ 34).toNat
  | .imm (.rel ..) => some 0
  | _ => none
/-- The source as its slot encodes it. -/
def ATr.slotSrc (t : ATr) : Src :=
  match t.src with
  | .plain s => s
  | .sel s _ => s
  | .imm _ => .imm (BitVec.ofNat 10 (t.immBits.getD 0))
/-- The header byte of a transport under a kind (R223 Table 1). -/
def ATr.byte (kind : Nat) (t : ATr) : Nat :=
  match kind with
  | 0 => t.lend.getD 0xFF
  | 1 => (t.immBits.map fun v => bits v 17 10).getD 0
  | _ => match t.src, t.sel with
    | .sel _ c, _ => c
    | _, some c => c
    | _, none => 0xFF
/-- The relocation of a bundle's immediate, if the loader fixes it: symbol, addend, macro PC. -/
def relOf (ts : List ATr) : Option (Nat × Int × Bool) :=
  ts.findSome? fun t => match t.src with
    | .imm (.rel s a p) => some (s, a, p)
    | _ => none
/-- The empty slot (R258). -/
def emptySlot : Slot32 := 0x40000000

/-- The slots of a bundle: S0 first (R222, R223). Refused are a need of two kinds, a header beside four transports, and what decode would
reject with ILLB or ILLT (R224); `micro`: the line stands in `.cstore`; `ctx` is the context that a handler kernel is declared for. -/
def bundleOf (micro : Bool) (ctx : Nat) (f : Flags3) (ts : List ATr) : Option (List Slot32) :=
  match ts.mapM ATr.needs with
  | none => none
  | some ns =>
    let kinds := ns.flatten.eraseDups
    let slots := ts.map fun t => encodeSlot ⟨t.g, t.slotSrc⟩ t.m t.unit t.op
    let full : Bool := !kinds.isEmpty || f.seg || f.susp || f.rdv
    let kind := kinds.headD 0
    let b := if full then
        let x := fun k => match ts[k]? with
          | some t => t.byte kind
          | none => if kind = 1 then 0 else 0xFF
        let field := if kind = 3 then bits ((ts.findSome? ATr.immBits).getD 0) 33 10 else x 0 + x 1 * 2 ^ 8 + x 2 * 2 ^ 16
        let h := 2 ^ 31 + (if f.seg then 2 ^ 30 else 0) + (if f.susp then 2 ^ 29 else 0) + (if f.rdv then 2 ^ 28 else 0) + field * 16 + kind
        BitVec.ofNat 32 h :: slots
      else slots
    let b := b ++ List.replicate (4 - b.length) emptySlot
    if ts.isEmpty || decide (2 ≤ kinds.length) || decide (b.length ≠ 4) || !(bundleReasons micro b).isEmpty then none
    else match firstSlotCause ctx false 0 b (liveSlots b) with
      | some (_, .illt _) => none
      | some (_, .illreg _ _) => if ctx = 0 then some b else none
      | _ => some b

end Sys2Proof.Machine
end

