-- ==== Sys2Proof/Machine/Cras.lean ====
section
/-! DEFINITION. The assembler `cras` over a whole source: directives (R225), circuits (R232) and launch templates (R234), and the CXF
container that it writes (R226, R227, R229-R231, R233). `none` is a refusal, after which no container is written (R224). -/

namespace Sys2Proof.Machine

/-! ### What a source has made so far -/

/-- A symbol (R230); `sect` is the TYPE of its section, 0xFF for a constant, and `owner` the symbol of the kernel that owns it. -/
structure Sym where
  name : Text
  kind : Nat
  sect : Nat
  value : Nat := 0
  size : Nat := 0
  owner : Option Nat := none
  deriving DecidableEq, Repr

/-- A relocation (R231); `mpc` asks for the macro PC of the address. -/
structure Rel where
  sect : Nat
  owner : Option Nat := none
  off : Nat
  kind : Nat
  sym : Nat
  add : Int
  mpc : Bool := false
  deriving DecidableEq, Repr

/-- A gang (R225): its symbol, its kernels' symbols and the word 0 of each of its pipe descriptors. -/
structure GangDef where
  sym : Nat
  kernels : List Nat
  pipes : List Nat := []
  deriving DecidableEq, Repr

/-- A circuit (R232): its symbol, source endpoint code, stream mask and hops: logical package, die, slot, output, code. -/
structure CircDef where
  sym : Nat
  ep : Nat
  mask : Nat
  hops : List (Nat × Nat × Nat × Nat × Nat) := []
  deriving DecidableEq, Repr

/-- A block that `.end` closes (R225). -/
inductive Block where
  | none | kernel | circuit | launch (named : Bool)
  deriving DecidableEq, Repr

/-- The assembler's state. Bundles are numbers of 128 bits; `half` is a `.word` value that waits for its pair; `kern` is the kernel whose
block is open. -/
structure Cras where
  env : Env := []
  syms : List Sym := []
  rels : List Rel := []
  sect : Nat := 0
  half : Option Nat := none
  flags : Flags3 := {}
  block : Block := .none
  kern : Option Nat := none
  ended : Bool := false
  text : List Nat := []
  textLg : Nat := 4
  rod : List Byte := []
  rodLg : Nat := 4
  cstore : List (Nat × Nat) := []
  fmt : List (Nat × Nat × Nat) := []
  ctab : List (Nat × Nat × Nat) := []
  bpool : List (List Nat) := []
  gangs : List GangDef := []
  circs : List CircDef := []
  launches : List (List Nat) := []
  deriving DecidableEq, Repr

/-- The micro-bundles of the open kernel (R225). -/
def Cras.micro (c : Cras) (k : Nat) : List Nat := (c.cstore.filter fun x => x.1 == k).map (·.2)

/-- Define a name, once. -/
def Cras.define (c : Cras) (n : Text) (v : SymVal) : Option Cras :=
  if nameOk n ∧ (c.env.lookup (String.ofList n)).isNone then some { c with env := c.env ++ [(String.ofList n, v)] } else none
/-- Define a name that stands for a symbol of its own, whose index is next. -/
def Cras.addSym (c : Cras) (y : Sym) (v : SymVal) : Option Cras :=
  (c.define y.name v).map fun c => { c with syms := c.syms ++ [y] }

/-- The place where the section's next bundle or byte goes. -/
def Cras.here (c : Cras) : Option Nat :=
  match c.sect with
  | 1 => some (16 * c.text.length)
  | 2 => c.kern.map fun k => (c.micro k).length
  | 4 => some c.rod.length
  | _ => none
/-- A label (R219): an address, in `.cstore` the index of a micro-bundle. -/
def Cras.label (c : Cras) (n : Text) : Option Cras :=
  if c.half.isSome ∨ c.flags ≠ {} ∨ (c.block ≠ .none ∧ c.block ≠ .kernel) then none
  else match c.here with
    | none => none
    | some p =>
      if c.sect = 2 then c.addSym { name := n, kind := 7, sect := 2, value := p, owner := c.kern } (.const p)
      else c.addSym { name := n, kind := 0, sect := c.sect, value := p } (.addr c.syms.length)

/-- Put a bundle into the section (R224, R225). -/
def Cras.put (c : Cras) (b : Nat) : Option Cras :=
  match c.sect, c.kern with
  | 1, _ => some { c with text := c.text ++ [b] }
  | 2, some k => if (c.micro k).length < 1024 then some { c with cstore := c.cstore ++ [(k, b)] } else none
  | _, _ => none
def Cras.putMany (c : Cras) (b : Nat) : Nat → Option Cras
  | 0 => some c
  | n + 1 => match c.put b with
    | some c => c.putMany b n
    | none => none
/-- The bundle of four empty slots (R258). -/
def emptyBundle : Nat := 0x40000000400000004000000040000000
def bundleNat (b : List Slot32) : Nat := b.foldr (fun w n => w.toNat + 2 ^ 32 * n) 0

/-- Note a relocation in the open section at offset `off` of it. -/
def Cras.rel (c : Cras) (sect off kind : Nat) (r : Nat × Int × Bool) : Cras :=
  { c with rels := c.rels ++ [{ sect := sect, owner := if sect = 2 then c.kern else none, off := off, kind := kind, sym := r.1, add := r.2.1, mpc := r.2.2 }] }
/-- The offset in bytes of the section's next bundle or byte. -/
def Cras.offset (c : Cras) : Nat := if c.sect = 2 then 16 * (c.here.getD 0) else c.here.getD 0

/-- A bundle line. In the first pass (`final` none) only its place counts. -/
def Cras.bundle (c : Cras) (final : Option Env) (l : Text) : Option Cras :=
  if c.half.isSome ∨ (c.sect ≠ 1 ∧ c.sect ≠ 2) then none
  else match final with
    | none => { c with flags := {} }.put 0
    | some env => match parseLine env l with
      | none => none
      | some ts => match bundleOf (c.sect == 2) 0 c.flags ts with
        | none => none
        | some b =>
          let c1 := { c with flags := {} }
          (match relOf ts with
            | some r => c1.rel c.sect c.offset 5 r
            | none => c1).put (bundleNat b)

/-- One `.word` value: two make a bundle, low word first (R224, R225). A label's address is patched by ABS64, its macro PC by MPC48. -/
def Cras.word (c : Cras) (final : Option Env) (l : Text) : Option Cras :=
  let v : Option AVal := match final with
    | none => some (.abs 0)
    | some env => exprVal env l
  match v with
  | none => none
  | some v =>
    let n := match v with
      | .abs x => if -(2 ^ 63) ≤ x ∧ x < 2 ^ 64 then some (x % 2 ^ 64).toNat else none
      | .rel .. => some 0
    match n with
    | none => none
    | some n =>
      let c := match v with
        | .rel s a p => c.rel c.sect (c.offset + if c.half.isSome then 8 else 0) (if p then 2 else 1) (s, a, p)
        | .abs _ => c
      if c.sect = 4 then some { c with rod := c.rod ++ leBytes 8 n }
      else match c.half with
        | some lo => { c with half := none }.put (lo + 2 ^ 64 * n)
        | none => if c.sect = 1 ∨ c.sect = 2 then some { c with half := some n } else none

/-! ### Directives (R225 Table 3) -/

/-- `.space` and the padding of `.align`. -/
def Cras.space (c : Cras) (n : Nat) : Option Cras :=
  if c.sect = 4 then some { c with rod := c.rod ++ List.replicate n 0 }
  else if n % 16 ≠ 0 then none else c.putMany (if c.sect = 1 then emptyBundle else 0) (n / 16)
def Cras.alignTo (c : Cras) (n : Nat) : Option Cras :=
  if n = 0 ∨ 2 ^ Nat.log2 n ≠ n ∨ 2 ^ 30 < n ∨ (c.sect = 1 ∧ n < 16) then none
  else
    let pad := (n - c.offset % n) % n
    let c := { c with textLg := if c.sect = 1 then max c.textLg (Nat.log2 n) else c.textLg,
                      rodLg := if c.sect = 4 then max c.rodLg (Nat.log2 n) else c.rodLg }
    if c.sect = 2 ∧ n < 16 then some c else c.space pad

/-- The kernels that names stand for. -/
def Cras.kernelSym (c : Cras) (n : Text) : Option Nat :=
  match c.env.lookup (String.ofList n) with
  | some (.addr s) => if (c.syms[s]?.map (·.kind)) = some 1 then some s else none
  | _ => none
/-- A symbol of a kind by its name. -/
def Cras.symOf (c : Cras) (kind : Nat) (n : Text) : Option Nat :=
  let i := c.syms.findIdx fun y => y.kind == kind && y.name == n
  if i < c.syms.length then some i else none

/-- A pipe descriptor's argument: a kernel of the gang by its name or index; a cb handle by its number or register. -/
def Cras.pipeKernel (c : Cras) (g : GangDef) (l : Text) : Option Nat :=
  match c.kernelSym l with
  | some s => g.kernels.idxOf? s
  | none => boundedVal c.env 4 l
def Cras.pipeCb (c : Cras) (l : Text) : Option Nat :=
  match regOf c.env l with
  | some (.small (.cb i)) => some i.val
  | some _ => none
  | none => boundedVal c.env 16 l
/-- `.pipe` (R110). -/
def Cras.pipe (c : Cras) (args : List Text) : Option Cras :=
  match args with
  | [g, p, q, pcb, ccb, slots, size, off] => match c.symOf 2 g with
    | none => none
    | some i => match c.gangs.find? fun x => x.sym == i with
      | none => none
      | some d => match c.pipeKernel d p, c.pipeKernel d q, c.pipeCb pcb, c.pipeCb ccb, boundedVal c.env (2 ^ 8) slots,
          boundedVal c.env (2 ^ 12) size, boundedVal c.env (2 ^ 20) off with
        | some p, some q, some a, some b, some n, some z, some o =>
          let w := p + q * 2 ^ 2 + a * 2 ^ 4 + b * 2 ^ 8 + n * 2 ^ 12 + z * 2 ^ 20 + o * 2 ^ 32
          if pdBad d.kernels.length w ∨ o % 16 ≠ 0 ∨ 16 ≤ d.pipes.length then none
          else some { c with gangs := c.gangs.map fun x => if x.sym = i then { x with pipes := x.pipes ++ [w] } else x }
        | _, _, _, _, _, _, _ => none
  | _ => none

/-- The numbers of a list in parentheses. -/
def listOf (env : Env) (l : Text) : Option (List Int) :=
  match trim l with
  | '(' :: r => match r.reverse with
    | ')' :: q => (argsOf q.reverse).mapM (constVal env)
    | _ => none
  | _ => none
/-- `.brec` (R229): its base, extents, strides, format and page class. -/
def Cras.brec (c : Cras) (final : Option Env) (args : List Text) : Option Cras :=
  match args with
  | [n, base, shape, strides, format, cls] =>
    match c.addSym { name := n, kind := 3, sect := 3, value := c.bpool.length, size := 32 } (.const c.bpool.length), final with
    | none, _ => none
    | some c, none => some { c with bpool := c.bpool ++ [[]] }
    | some c, some env => match exprVal env base, listOf env shape, listOf env strides, boundedVal env 256 format, boundedVal env 3 cls with
      | some b, some es, some ss, some f, some p =>
        let ext := fun (i : Nat) => ((es[i]?).getD 1 - 1).toNat
        let str := fun (i : Nat) => ((ss[i]?).getD 0).toNat
        if es.isEmpty ∨ 3 < es.length ∨ 2 < ss.length ∨ es.any (fun x => decide (x < 1 ∨ 65536 < x)) ∨ ss.any (fun x => decide (x < 0 ∨ 2 ^ 32 ≤ x))
        then none
        else
          let rest := [ext 0 + ext 1 * 2 ^ 16 + ext 2 * 2 ^ 32 + es.length * 2 ^ 48, str 0 + str 1 * 2 ^ 32, f + p * 2 ^ 8]
          match b with
          | .abs v => if 0 ≤ v ∧ v < 2 ^ 57 then some { c with bpool := c.bpool ++ [v.toNat :: rest] } else none
          | .rel s a false => some { c.rel 3 (32 * c.bpool.length) 4 (s, a, false) with bpool := c.bpool ++ [0 :: rest] }
          | .rel _ _ true => none
      | _, _, _, _, _ => none
  | _ => none

/-! ### Circuits (R232) -/

/-- The code of an input: a port of the router, best-effort or idle (R27). -/
def hopIn (env : Env) (die : Nat) (l : Text) : Option Nat :=
  if String.ofList l = "be" then some 0x3E else if String.ofList l = "idle" then some 0x3F
  else match boundedVal env 32 l with
    | some p => if portOk die p then some p else none
    | none => none
/-- A `hop` statement: a port that the router has, and no second value for an output of a slot. -/
def hopOf (env : Env) (hops : List (Nat × Nat × Nat × Nat × Nat)) (l : Text) : Option (List (Nat × Nat × Nat × Nat × Nat)) :=
  match afterPrefix "hop ".toList l with
  | none => none
  | some r => match argsOf r with
    | [p, d, s, o, i] => match boundedVal env 256 p, boundedVal env 14 d, boundedVal env 256 s, boundedVal env 32 o with
      | some p, some d, some s, some o => match hopIn env d i with
        | some x => if portOk d o ∧ !(hops.any fun h => h.1 == p && h.2.1 == d && h.2.2.1 == s && h.2.2.2.1 == o && h.2.2.2.2 != x) then
            some (hops ++ [(p, d, s, o, x)]) else none
        | none => none
      | _, _, _, _ => none
    | _ => none

/-! ### Launch templates (R234) -/

/-- A field of the launch record: word, lowest bit, width (R97 Table 1). -/
def launchField (n : String) : Option (Nat × Nat × Nat) :=
  ([("ENTRY0", 0, 0, 48), ("NKERN", 0, 48, 2), ("NDIM", 0, 50, 2), ("TOKENS", 0, 52, 4), ("PCLASS", 0, 56, 2), ("NDEP", 0, 58, 3),
    ("TIMED", 0, 61, 1), ("HASDL", 0, 62, 1), ("IRQ", 0, 63, 1), ("ENTRY1", 1, 0, 48), ("ENTRY2", 2, 0, 48), ("EXTX", 3, 0, 16),
    ("EXTY", 3, 16, 16), ("EXTZ", 3, 32, 16), ("DEP0", 4, 0, 15), ("DEP1", 4, 15, 15), ("DEP2", 4, 30, 15), ("DEP3", 4, 45, 15),
    ("BMODE", 4, 60, 4), ("PREDLID", 5, 0, 16), ("CLSET", 5, 16, 20), ("EST", 5, 36, 24), ("RELEASE", 6, 0, 64), ("DEADLINE", 7, 0, 64),
    ("COMPADDR", 8, 0, 51), ("PIPETAB", 9, 0, 51), ("NPIPE", 9, 51, 5), ("ARG0", 10, 0, 64), ("ARG1", 11, 0, 64), ("ARG2", 12, 0, 64),
    ("ARG3", 13, 0, 64), ("LID", 14, 0, 16), ("NFRAME", 14, 16, 16), ("FRAMESZ", 14, 32, 16), ("IRQVEC", 14, 48, 6), ("AREA", 15, 0, 51)] :
    List (String × Nat × Nat × Nat)).lookup n
/-- Set a field of a record. -/
def setField (ws : List Nat) (f : Nat × Nat × Nat) (v : Nat) : List Nat :=
  let w := ws.getD f.1 0
  ws.set f.1 (w - bits w (f.2.1 + f.2.2 - 1) f.2.1 * 2 ^ f.2.1 + v * 2 ^ f.2.1)
/-- The relocation that carries an address in a field: MPC48 in ENTRY, VA51 in COMPADDR, PIPETAB and AREA, ABS64 in a whole word. -/
def fieldRel (f : Nat × Nat × Nat) (mpc : Bool) : Option Nat :=
  if f.2.2 = 48 then some 2 else if f.2.2 = 51 ∧ !mpc then some 3 else if f.2.2 = 64 ∧ 10 ≤ f.1 ∧ !mpc then some 1 else none
/-- Change the last template. -/
def Cras.setLaunch (c : Cras) (g : List Nat → List Nat) : Cras :=
  { c with launches := c.launches.dropLast ++ [g (c.launches.getLast?.getD [])] }
def Cras.launchOff (c : Cras) (w : Nat) : Nat := 128 * (c.launches.length - 1) + 8 * w
/-- `KERNEL = name`: a kernel, or a gang with its pipes. -/
def Cras.launchKernel (c : Cras) (n : Text) : Option Cras :=
  match c.kernelSym n, c.symOf 2 n with
  | some k, _ => some (({ c with block := .launch true }.setLaunch fun ws => setField ws (0, 48, 2) 1).rel 8 (c.launchOff 0) 2 (k, 0, true))
  | none, some g => (c.gangs.find? fun x => x.sym == g).map fun d =>
      let c := { c with block := .launch true }.setLaunch fun ws => setField (setField ws (0, 48, 2) d.kernels.length) (9, 51, 5) d.pipes.length
      let c := (List.range d.kernels.length).foldl (fun (c : Cras) i => c.rel 8 (c.launchOff i) 2 (d.kernels.getD i 0, 0, true)) c
      if d.pipes.isEmpty then c else c.rel 8 (c.launchOff 9) 3 (g, 0, false)
  | none, none => none
/-- `FIELD = expression`. -/
def Cras.launchSet (c : Cras) (env : Env) (l : Text) : Option Cras :=
  let n := trim (l.takeWhile (· != '='))
  let e := trim ((l.dropWhile (· != '=')).drop 1)
  if String.ofList n = "KERNEL" then c.launchKernel e
  else match launchField (String.ofList n), exprVal env e with
    | some f, some (.abs v) =>
      if (0 ≤ v ∨ (f.2.2 = 64 ∧ -(2 ^ 63) ≤ v)) ∧ v < 2 ^ f.2.2 then some (c.setLaunch fun ws => setField ws f (v % 2 ^ f.2.2).toNat) else none
    | some f, some (.rel s a p) => (fieldRel f p).map fun k => (c.setLaunch fun ws => setField ws f 0).rel 8 (c.launchOff f.1) k (s, a, p)
    | _, _ => none
/-- A vector of `.deps`, with whether it is one of the predecessor launch. -/
def depVec (env : Env) (l : Text) : Option (Nat × Bool) :=
  let from_ : Bool := l.getLast? == some 'm'
  match listOf env (if from_ then l.take (l.length - 4) else l) with
  | some v =>
    if v.isEmpty ∨ 3 < v.length ∨ v.any (fun x => decide (x < -15 ∨ 15 < x)) ∨ (from_ ∧ l.drop (l.length - 4) ≠ "from".toList) then none
    else some (((v.map fun x => (x % 32).toNat).zip [0, 5, 10]).foldl (fun n x => n + x.1 * 2 ^ x.2) 0, from_)
  | none => none
/-- `.deps`: NDEP, DEPj and BMODE. -/
def Cras.deps (c : Cras) (env : Env) (args : List Text) : Option Cras :=
  match args.mapM (depVec env) with
  | some vs => if 4 < vs.length then none else some (c.setLaunch fun ws =>
      setField (ws.set 4 ((vs.zip [0, 1, 2, 3]).foldl (fun n v => n + v.1.1 * 2 ^ (15 * v.2) + if v.1.2 then 2 ^ (60 + v.2) else 0) 0)) (0, 58, 3) vs.length)
  | none => none
/-- A template that fails check 2, 3, 4, 6 or 9 of R98, as far as `cras` sees it. -/
def templateBad (ws : List Nat) : Bool :=
  let l : Launch := { words := ws.map (BitVec.ofNat 64) }
  l.shapeDetail.isSome || (l.nkern == 1 && l.npipe != 0) || decide (16 < l.npipe) || (l.hasdl && l.timed && decide (l.deadline < l.release))

/-! ### A source -/

/-- `.end`: it closes the innermost block, or ends the source. -/
def Cras.endBlock (c : Cras) : Option Cras :=
  if c.flags ≠ {} then none
  else match c.block with
    | .none => some { c with ended := true }
    | .kernel => some { c with block := .none, kern := none }
    | .circuit => some { c with block := .none }
    | .launch named => if !named ∨ templateBad (c.launches.getLast?.getD []) then none else some { c with block := .none }
/-- A flag of the next bundle line. -/
def Cras.flag (c : Cras) (f : Flags3 → Flags3) : Option Cras := if c.sect = 1 ∨ c.sect = 2 then some { c with flags := f c.flags } else none

/-- A directive (R225 Table 3), outside circuits and templates. -/
def Cras.directive (c : Cras) (final : Option Env) (d : String) (args : List Text) : Option Cras :=
  if d = ".word" then args.foldl (fun c l => c.bind fun c => c.word final l) (if args.isEmpty then none else some c)
  else if c.half.isSome then none
  else match d, args with
  | ".section", [n] => (([".text", ".cstore", ".rodata"].idxOf? (String.ofList n)).map fun i => { c with sect := [1, 2, 4].getD i 1 })
  | ".kernel", [n] =>
    if c.sect ≠ 1 ∨ c.block ≠ .none then none
    else (c.addSym { name := n, kind := 1, sect := 1, value := c.offset } (.addr c.syms.length)).map fun c' =>
      { c' with block := .kernel, kern := some c.syms.length }
  | ".gang", n :: ks => match ks.mapM c.kernelSym with
    | some l => if l.length = 2 ∨ l.length = 3 then
        (c.addSym { name := n, kind := 2, sect := 4 } .obj).map fun c' =>
          { c' with gangs := c'.gangs ++ [{ sym := c.syms.length, kernels := l }] }
        else none
    | none => none
  | ".pipe", as => c.pipe as
  | ".cb", [n, v] => (boundedVal c.env 16 v).bind fun i => c.define n (.cb i)
  | ".space", [n] => (boundedVal c.env (2 ^ 40) n).bind c.space
  | ".align", [n] => (boundedVal c.env (2 ^ 40) n).bind c.alignTo
  | ".brec", as => c.brec final as
  | ".fmt", [i, v] => match c.kern, boundedVal c.env 16 i, boundedVal c.env (2 ^ 16) v with
    | some k, some i, some v => if badFt v then none else some { c with fmt := c.fmt ++ [(k, i, v)] }
    | _, _, _ => none
  | ".ctab", [t, e, v] => match c.kern, boundedVal c.env 4 t, boundedVal c.env 256 e, boundedVal c.env (2 ^ 32) v with
    | some k, some t, some e, some v => some { c with ctab := c.ctab ++ [(k, 256 * t + e, v)] }
    | _, _, _, _ => none
  | ".circuit", [n, e, m] => if c.block ≠ .none then none else match boundedVal c.env 256 e, boundedVal c.env (2 ^ 16) m with
    | some e, some m => (c.addSym { name := n, kind := 4, sect := 7 } .obj).map fun c' =>
        { c' with block := .circuit, circs := c'.circs ++ [{ sym := c.syms.length, ep := e, mask := m }] }
    | _, _ => none
  | ".launch", [n] => if c.block ≠ .none then none
    else (c.addSym { name := n, kind := 5, sect := 8, value := 128 * c.launches.length, size := 128 } (.addr c.syms.length)).map fun c' =>
      { c' with block := .launch false, launches := c'.launches ++ [List.replicate 16 0] }
  | ".segment", [] => c.flag fun f => { f with seg := true }
  | ".susp", [] => c.flag fun f => { f with susp := true }
  | ".rdv", [] => c.flag fun f => { f with rdv := true }
  | ".equ", [n, e] => (constVal c.env e).bind fun v => c.addSym { name := n, kind := 6, sect := 0xFF, value := (v % 2 ^ 64).toNat } (.const v)
  | ".end", [] => c.endBlock
  | _, _ => none

/-- What a line without its label and comment does. -/
def Cras.body (c : Cras) (final : Option Env) (l : Text) : Option Cras :=
  if l.isEmpty then some c
  else
    let d := String.ofList (l.takeWhile fun x => !isSpace x)
    let args := argsOf (l.dropWhile fun x => !isSpace x)
    match c.block with
    | .circuit => if d = ".end" then c.endBlock else match final with
      | none => some c
      | some env => match c.circs.getLast? with
        | some x => (hopOf env x.hops l).map fun h => { c with circs := c.circs.dropLast ++ [{ x with hops := h }] }
        | none => none
    | .launch _ => if d = ".end" then (match final with
        | none => some { c with block := .none }
        | some _ => c.endBlock) else match final with
      | none => some c
      | some env => if d = ".deps" then c.deps env args else c.launchSet env l
    | _ => if d.toList.head? = some '.' then c.directive final d args else c.bundle final l
/-- One line. -/
def Cras.line (final : Option Env) (c : Option Cras) (l : Text) : Option Cras :=
  match c with
  | none => none
  | some c =>
    if c.ended then some c
    else match labelOf l with
      | (some n, r) => (c.label n).bind fun c => c.body final r
      | (none, r) => c.body final r
/-- The lines of a text. -/
def textLines : Text → List Text
  | [] => [[]]
  | '\n' :: r => [] :: textLines r
  | c :: r => match textLines r with
    | x :: t => (c :: x) :: t
    | [] => [[c]]
/-- The end of a source: blocks are closed, no flag and no half of a bundle is left, and the pipe tables of the gangs follow in `.rodata`, each
at a multiple of 64. -/
def Cras.finish (c : Cras) : Option Cras :=
  if c.half.isSome ∨ c.flags ≠ {} ∨ c.block ≠ .none then none
  else some (c.gangs.foldl (fun (c : Cras) g =>
    if g.pipes.isEmpty then c
    else
      let rod := c.rod ++ List.replicate ((64 - c.rod.length % 64) % 64) 0
      { c with rod := rod ++ g.pipes.flatMap (fun w => leBytes 8 w ++ leBytes 8 0), rodLg := max c.rodLg 6,
               syms := c.syms.set g.sym { (c.syms.getD g.sym { name := [], kind := 2, sect := 4 }) with value := rod.length, size := 16 * g.pipes.length } }) c)
/-- Assemble a source in two passes: the first finds what every name stands for. -/
def crasSource (source : String) : Option Cras :=
  let ls := textLines source.toList
  match ls.foldl (Cras.line none) (some {}) with
  | none => none
  | some c => match ls.foldl (Cras.line (some c.env)) (some {}) with
    | some c => c.finish
    | none => none

/-! ### The container (R226, R227, R230, R233) -/

/-- A section as it is written. -/
structure Sect where
  ty : Nat
  link : Nat := 0xFFFFFFFF
  lg : Nat := 4
  bytes : List Byte
  deriving DecidableEq, Repr

def words8 (l : List Nat) : List Byte := l.flatMap (leBytes 8)
/-- A full `.fmt` or `.ctab` image: the last value set, else the reset value (R137, R227). -/
def imageOf (k n width : Nat) (dflt : Nat → Nat) (l : List (Nat × Nat × Nat)) : List Byte :=
  (List.range n).flatMap fun i => leBytes width (match (l.filter fun x => x.1 == k && x.2.1 == i).getLast? with
    | some x => x.2.2
    | none => dflt i)
/-- The slot-table entry of a router's hops in one slot: best-effort where no hop names an output. -/
def hopEntry (hs : List (Nat × Nat × Nat × Nat × Nat)) : Nat :=
  (List.range 32).foldl (fun n p => n + ((hs.find? fun h => h.2.2.2.1 == p).map (·.2.2.2.2) |>.getD 0x3E) * 2 ^ (6 * p)) 0
/-- A circuit template (R233). -/
def circBytes (c : CircDef) : List Byte :=
  let routers := (c.hops.map fun h => (h.1, h.2.1)).eraseDups
  words8 [c.sym + c.ep * 2 ^ 32 + c.mask * 2 ^ 40, routers.length] ++ routers.flatMap fun r =>
    let hs := c.hops.filter fun h => (h.1, h.2.1) == r
    let slots := (hs.map (·.2.2.1)).eraseDups
    words8 [r.1 + r.2 * 2 ^ 8 + slots.length * 2 ^ 12] ++ slots.flatMap fun n =>
      leBytes 8 n ++ leBytes 32 (hopEntry (hs.filter fun h => h.2.2.1 == n))

/-- The reset value of an entry of the codebooks (R137). -/
def ctReset (i : Nat) : Nat := (ctDefault (i % 256)).toNat

/-- The sections that a source gives, in the order of their types; `.sym` and `.reloc` aside. -/
def Cras.sections (c : Cras) : List Sect :=
  let kernels := (List.range c.syms.length).filter fun i => (c.syms[i]?.map (·.kind)) == some 1
  let l : List Sect := [{ ty := 1, lg := c.textLg, bytes := c.text.flatMap (leBytes 16) }]
    ++ (kernels.map fun k => ({ ty := 2, link := k, bytes := (c.micro k).flatMap (leBytes 16) } : Sect))
    ++ [{ ty := 3, lg := 5, bytes := c.bpool.flatMap words8 }, { ty := 4, lg := c.rodLg, bytes := c.rod }]
    ++ (kernels.map fun k => ({ ty := 5, link := k, bytes := if c.fmt.any (·.1 == k) then imageOf k 16 2 (fun _ => 0) c.fmt else [] } : Sect))
    ++ (kernels.map fun k => ({ ty := 6, link := k, bytes := if c.ctab.any (·.1 == k) then imageOf k 1024 4 ctReset c.ctab else [] } : Sect))
    ++ [{ ty := 7, bytes := c.circs.flatMap circBytes }, { ty := 8, lg := 6, bytes := c.launches.flatMap words8 }]
  l.filter fun x => !x.bytes.isEmpty
/-- The index of a section. -/
def sectIndex (l : List Sect) (ty : Nat) (owner : Option Nat) : Nat :=
  if ty = 0xFF then 0xFF else l.findIdx fun x => x.ty == ty && (ty != 2 || some x.link == owner)
/-- The symbol table (R230). -/
def symBytes (l : List Sect) (ys : List Sym) : List Byte :=
  let base := 16 + 32 * ys.length
  let recs := ys.foldl (fun (r : List Byte × Nat) y =>
    (r.1 ++ words8 [r.2 + y.name.length * 2 ^ 32 + y.kind * 2 ^ 40 + sectIndex l y.sect y.owner * 2 ^ 48, y.value, y.size, 0], r.2 + y.name.length)) ([], base)
  words8 [ys.length, 0] ++ recs.1 ++ ys.flatMap fun y => y.name.map fun ch => BitVec.ofNat 8 ch.toNat
/-- A relocation record (R231); bit 56 of its word 0 says that LIMM34 takes the macro PC (log 98). -/
def relBytes (l : List Sect) (r : Rel) : List Byte :=
  words8 [r.off + sectIndex l r.sect r.owner * 2 ^ 40 + r.kind * 2 ^ 48 + (if r.mpc && r.kind == 5 then 2 ^ 56 else 0),
    r.sym + (r.add % 2 ^ 32).toNat * 2 ^ 32]
/-- A file with its sections laid out behind the header and the section table, each at a multiple of 16 (R226, R227). -/
def layOut (l : List Sect) : List Byte :=
  let start := 64 + 32 * l.length
  let r := l.foldl (fun (r : List Byte × List Byte) x =>
    let off := start + r.2.length
    (r.1 ++ words8 [x.ty + x.link * 2 ^ 16, off, x.bytes.length, x.lg], r.2 ++ x.bytes ++ List.replicate ((16 - x.bytes.length % 16) % 16) 0)) ([], [])
  words8 [0x31465843 + 2 ^ 32, l.length, 64, 0, 0, 0, 0, 0] ++ r.1 ++ r.2
/-- The CRC-32C over the whole file with its field zero (R226). -/
def withFileCrc (f : List Byte) : List Byte :=
  let z := f.take 24 ++ [0, 0, 0, 0] ++ f.drop 28
  z.take 24 ++ leBytes 4 (crc32c z) ++ z.drop 28
/-- The container of an assembled source; an addend beyond 32 bits is refused. -/
def Cras.container (c : Cras) : Option (List Byte) :=
  if c.rels.any fun r => decide (r.add < -(2 ^ 31) ∨ 2 ^ 31 ≤ r.add) then none
  else
    let l := c.sections
    let l := l ++ [{ ty := 9, bytes := symBytes l c.syms }]
    some (withFileCrc (layOut (if c.rels.isEmpty then l else l ++ [{ ty := 10, bytes := c.rels.flatMap (relBytes l) }])))
/-- `cras`: from a source to a container. -/
def cras (source : String) : Option (List Byte) := (crasSource source).bind Cras.container

end Sys2Proof.Machine
end

