-- ==== Sys2Proof/Machine/Loader.lean ====
section
/-! DEFINITION. The loader's work on a CXF container (R226-R231, R233): the checks, the relocations, and what it places for a partition.
`none` refuses the whole container, and nothing is mapped (R228). -/

namespace Sys2Proof.Machine

/-- A number of `n` bytes at a place of a file. -/
def rd (f : List Byte) (off n : Nat) : Nat := leNat ((f.drop off).take n)

/-- A section that the loader knows: its place in the table, type, owner, alignment and contents. -/
structure LSect where
  idx : Nat
  ty : Nat
  link : Nat
  lg : Nat
  bytes : List Byte
  deriving DecidableEq, Repr

/-- The header's checks (R226): any MINOR is accepted. -/
def headerOk (f : List Byte) : Bool :=
  decide (64 ≤ f.length) && rd f 0 4 == 0x31465843 && rd f 4 2 == 1 && f == withFileCrc f && rd f 16 8 % 32 == 0
    && decide (rd f 16 8 + 32 * rd f 8 2 ≤ f.length)
/-- The size that a section of a type must have (R227). -/
def sizeOk (ty n : Nat) : Bool :=
  if ty = 1 then n % 16 == 0 else if ty = 2 then n % 16 == 0 && decide (n ≤ 16384) else if ty = 3 then n % 32 == 0
  else if ty = 5 then n == 32 else if ty = 6 then n == 4096 else if ty = 8 then n % 128 == 0 else if ty = 10 then n % 16 == 0 else true
/-- Entry `i` of the section table: none refuses, `some none` is skipped (R227). -/
def sectOf (f : List Byte) (i : Nat) : Option (Option LSect) :=
  let at_ := rd f 16 8 + 32 * i
  let w0 := rd f at_ 8
  let off := rd f (at_ + 8) 8
  let n := rd f (at_ + 16) 8
  let lg := rd f (at_ + 24) 8 % 64
  let ty := bits w0 7 0
  if ty = 0 ∨ 10 < ty then (if bitOf w0 8 then some none else none)
  else if off % 16 ≠ 0 ∨ f.length < off + n ∨ lg < 4 ∨ 30 < lg ∨ sizeOk ty n = false then none
  else some (some { idx := i, ty := ty, link := bits w0 47 16, lg := lg, bytes := (f.drop off).take n })
/-- The sections of a file that passes R226 and R227: at most one of a type, of `.cstore`, `.fmt` and `.ctab` one of a kernel. -/
def sectsOf (f : List Byte) : Option (List LSect) :=
  if !headerOk f then none
  else match (List.range (rd f 8 2)).mapM (sectOf f) with
    | none => none
    | some l =>
      let l := l.filterMap id
      if l.any fun x => l.any fun y => x.idx != y.idx && x.ty == y.ty && (!([2, 5, 6].contains x.ty) || x.link == y.link) then none else some l

/-- The first section of a type, as its bytes. -/
def partOf (l : List LSect) (ty : Nat) : List Byte := ((l.find? fun x => x.ty == ty).map (·.bytes)).getD []

/-- A symbol as `.sym` holds it (R230). -/
structure LSym where
  kind : Nat
  sect : Nat
  value : Nat
  deriving DecidableEq, Repr
def symsOf (l : List LSect) : List LSym :=
  let b := partOf l 9
  (List.range (rd b 0 4)).map fun i =>
    let w := rd b (16 + 32 * i) 8
    { kind := bits w 47 40, sect := bits w 55 48, value := rd b (24 + 32 * i) 8 }
/-- The load address of a symbol; a buffer record and a control-store entry go by their index. -/
def LSym.addr (at_ : Nat → Nat) (y : LSym) : Nat :=
  at_ y.sect + y.value * (if y.kind = 3 then 32 else if y.kind = 7 then 16 else 1)

/-- Replace bytes of a section. -/
def patch (l : List LSect) (i off n v : Nat) : List LSect :=
  l.map fun x => if x.idx = i then { x with bytes := x.bytes.take off ++ leBytes n v ++ x.bytes.drop (off + n) } else x
/-- Replace bits [hi:lo] of a number. -/
def withBits (w hi lo v : Nat) : Nat := w - bits w hi lo * 2 ^ lo + v * 2 ^ lo
/-- The bundle of a long immediate with another value: header [27:4], and S[9:0] of the slot that has the immediate (R223). -/
def setLimm (b v : Nat) : Option Nat :=
  ([1, 2, 3].find? fun k => bits b (32 * k + 11) (32 * k + 10) == 2 && bits b (32 * k + 31) (32 * k + 27) != 8).map fun k =>
    withBits (withBits b 27 4 (bits v 33 10)) (32 * k + 9) (32 * k) (v % 1024)
/-- One relocation (R231 Table 5): none where its kind, its symbol, its place, its alignment or its range does not hold. -/
def relocate (at_ : Nat → Nat) (ys : List LSym) (l : List LSect) (w0 w1 : Nat) : Option (List LSect) :=
  let off := bits w0 39 0
  let i := bits w0 47 40
  match l.find? fun x => x.idx == i, ys[w1 % 2 ^ 32]? with
  | some x, some y =>
    let add : Int := bits w1 63 32
    let a : Int := (y.addr at_ : Int) + (if bitOf w1 63 then add - 2 ^ 32 else add)
    let n := a.toNat
    let w := rd x.bytes off 8
    if y.kind = 6 ∨ a < 0 ∨ x.bytes.length < off + (if bits w0 55 48 = 5 then 16 else 8) then none
    else match bits w0 55 48 with
    | 1 => if n < 2 ^ 64 then some (patch l i off 8 n) else none
    | 2 => if n % 16 = 0 ∧ n < 2 ^ 52 then some (patch l i off 8 (withBits w 47 0 (n / 16))) else none
    | 3 => if n % 64 = 0 ∧ n < 2 ^ 57 then some (patch l i off 8 (withBits w 50 0 (n / 64))) else none
    | 4 => if n < 2 ^ 57 then some (patch l i off 8 (withBits w 56 0 n)) else none
    | 5 =>
      let v := if bitOf w0 56 then n / 16 else n
      if v < 2 ^ 33 ∧ (bitOf w0 56 = false ∨ n % 16 = 0) then (setLimm (rd x.bytes off 16) v).map fun b => patch l i off 16 b else none
    | _ => none
  | _, _ => none
/-- Every relocation, in record order (R228 step 3). -/
def relocateAll (at_ : Nat → Nat) (l : List LSect) : Option (List LSect) :=
  let b := partOf l 10
  (List.range (b.length / 16)).foldl (fun r j => r.bind fun l' => relocate at_ (symsOf l) l' (rd b (16 * j) 8) (rd b (16 * j + 8) 8)) (some l)

/-! ### Circuit templates (R233) -/

/-- The entries of a router record: slot and slot-table entry. -/
def entriesOf (b : List Byte) (off : Nat) : Nat → List (Nat × Nat)
  | 0 => []
  | n + 1 => (rd b off 1, rd b (off + 8) 32) :: entriesOf b (off + 40) n
/-- The router records of a circuit, as hops, and where the next circuit begins. -/
def routersOf (b : List Byte) : Nat → Nat → List (Nat × Nat × Nat × Nat) × Nat
  | 0, off => ([], off)
  | n + 1, off =>
    let w := rd b off 8
    let cnt := bits w 20 12
    let r := routersOf b n (off + 8 + 40 * cnt)
    ((entriesOf b (off + 8) cnt).map (fun e => (bits w 7 0, bits w 11 8, e.1, e.2)) ++ r.1, r.2)
/-- The circuits of `.slot`. The source lies on the die of the circuit's first router. -/
def circuitsIn (pkg : Nat) (b : List Byte) : Nat → Nat → Option (List Circuit)
  | 0, _ => some []
  | n + 1, off =>
    if b.length ≤ off then some []
    else
      let w := rd b off 8
      let r := routersOf b (rd b (off + 8) 2) (off + 16)
      if b.length < r.2 then none
      else (circuitsIn pkg b n r.2).map fun l =>
        { src := ⟨pkg, (r.1.head?.map (·.2.1)).getD 0, bits w 39 32⟩, mask := bits w 55 40, hops := r.1 } :: l
/-- The check of the relocated templates (R228 step 4): routers that exist, no reserved code, no absent port. -/
def hopOk (h : Nat × Nat × Nat × Nat) : Bool :=
  decide (h.2.1 < 14) && !badEntry h.2.2.2 && (List.range 32).all fun p =>
    let x := outCode h.2.2.2 p
    decide (0x3E ≤ x) || (portOk h.2.1 p && portOk h.2.1 x)

/-! ### Placing a container (R228) -/

/-- Where the loader puts a section: its index, virtual address, physical address, and for one that is mapped the address of the level-0
entry of its first page. -/
structure Place where
  idx : Nat
  va : Nat
  pa : Nat
  pte : Option Nat := none
  deriving DecidableEq, Repr

/-- The leaf of a page of a section (R144, R228 step 2): `.text` executable, none writable. -/
def leafOf (ty pa : Nat) : Nat := 3 + (if ty = 1 then 8 else 0) + pa / 2 ^ 16 * 2 ^ 16
/-- One section goes into memory, and its pages into the partition's tables where it is mapped. -/
def State.placeSect (s : State) (ps : List Place) (x : LSect) : State :=
  match ps.find? fun p => p.idx == x.idx with
  | none => s
  | some p =>
    let s := s.hbmWrite p.pa x.bytes
    match p.pte with
    | none => s
    | some t => (List.range ((x.bytes.length + 65535) / 65536)).foldl
        (fun (s : State) i => s.hbmWrite (t + 8 * i) (leBytes 8 (leafOf x.ty (p.pa + 65536 * i)))) s
/-- The numbers of `w` bytes that a section holds. -/
def cellsOf (w : Nat) (b : List Byte) : List Nat := (List.range (b.length / w)).map fun i => rd b (w * i) w
/-- What the loader keeps for kernel symbol `i` (R136, R138, R229). -/
def imageFor (p : Nat) (at_ : Nat → Nat) (l : List LSect) (cs : List Circuit) (pkgs : List (Nat × Nat)) (y : LSym) (i : Nat) : KernelImage :=
  let own := fun (ty w : Nat) => (cellsOf w (((l.find? fun x => x.ty == ty && x.link == i).map (·.bytes)).getD []))
  { ptag := p, entry := y.addr at_ / 16, ft := (own 5 2).map (BitVec.ofNat 16), ct := (own 6 4).map (BitVec.ofNat 32),
    cstore := (own 2 16).map (BitVec.ofNat 128), src := ((l.find? fun x => x.ty == 2 && x.link == i).map fun x => at_ x.idx).getD 0,
    circuits := cs, pkgs := pkgs, pool := (l.find? fun x => x.ty == 3).map fun x => (at_ x.idx, x.bytes.length / 32) }
/-- Load a container for partition `p` (R228): checked, relocated and mapped, or refused as a whole. `pkgs` gives the physical packages of the
logical ones. -/
def State.loadContainer (s : State) (p : Nat) (pkgs : List (Nat × Nat)) (ps : List Place) (f : List Byte) : Option State :=
  let at_ := fun (i : Nat) => ((ps.find? fun x => x.idx == i).map Place.va).getD 0
  match sectsOf f with
  | none => none
  | some l =>
    if l.any fun x => x.ty < 9 && (match ps.find? fun q => q.idx == x.idx with
        | some q => q.va % 2 ^ x.lg != 0 || ([1, 3, 4, 8].contains x.ty && (q.pte.isNone || q.pa % 65536 != q.va % 65536))
        | none => true) then none
    else match relocateAll at_ l with
      | none => none
      | some l' =>
        let b := partOf l' 7
        match circuitsIn s.pkg.pkgId b b.length 0 with
        | none => none
        | some cs =>
          if (cs.flatMap Circuit.hops).any fun h => !hopOk h then none
          else
            let s := l'.foldl (fun (s : State) x => s.placeSect ps x) s
            let ks := ((symsOf l).zipIdx.filter fun y => y.1.kind == 1).map fun y => imageFor p at_ l' cs pkgs y.1 y.2
            some { s with kernels := ks ++ s.kernels.filter fun k => !(ks.any fun x => x.ptag == k.ptag && x.entry == k.entry) }

end Sys2Proof.Machine
end

