-- ==== Sys2Proof/Safety.lean ====
section
/-! DEFINITION. What counts as a safe run, and the invariant that claims use. -/

namespace Sys2Proof.Machine

/-- Every memory of the machine is in canonical form: HBM and each scratchpad. -/
def State.memOk (s : State) : Bool :=
  Memory.wf s.hbm && s.cores.all fun (x : Nat × Core) => Memory.wf x.2.sp

/-- A step that goes on: it neither stops nor is refused. -/
def State.goesOn (s : State) : Bool :=
  match step s with
  | .next _ => true
  | _ => false

end Sys2Proof.Machine
end

