-- ==== Sys2Proof/Certificates/Slice0/Obligations.lean ====
section
/-! DEFINITION. The statements for the provers, and the predicates and tables that they are written with. -/

namespace Sys2Proof.Claims

open Sys2Proof.Machine

/-! ### What the statements are written with -/

/-- A transport acts in a state: its guard is true, a seq transport stands in the last repetition of its bundle (R265, R288), and its
source is read as `v`, which leaves the state `s'` (a join takes a result, rnd pops a vector). -/
def Reads (s : State) (t : Tr) (seq whole : Bool) (v : Val) (s' : State) : Prop :=
  s.guard t.g = true ∧ (seq = true → s.bnd.repSeq = true) ∧ s.readSrc whole t.src = .ok v s'

/-- The transport of an encoded instruction, and whether it goes to the sequencer; none for an event. -/
def transportOf : Instr → Option (Tr × Bool)
  | .registerFileWrite _ t | .aluAdd _ t | .aluSub _ t | .aluMul _ t | .aluMulh _ t | .aluMulhu _ t | .aluAnd _ t
  | .aluOr _ t | .aluXor _ t | .aluAndn _ t | .aluShl _ t | .aluShr _ t | .aluSar _ t | .aluRol _ t | .aluMin _ t
  | .aluMax _ t | .aluMinu _ t | .aluMaxu _ t | .aluSel _ t | .aluBfx _ t | .aluBfxs _ t | .aluBfi _ t | .aluClz _ t
  | .aluCtz _ t | .aluPopc _ t | .aluLimm _ t | .aluAddsat _ t | .aluSubsat _ t | .aluCeq _ t | .aluCne _ t | .aluClt _ t
  | .aluCle _ t | .aluCltu _ t | .aluCleu _ t | .aluCbit _ t | .aguSet t | .aguLin t | .aguTile t | .aguArena t | .aguChk t
  | .aguStep t | .lsuLdb _ t | .lsuLdh _ t | .lsuLdw _ t | .lsuLdd _ t | .lsuLdbs _ t | .lsuLdhs _ t | .lsuLdws _ t
  | .lsuLdv _ t | .lsuStb t | .lsuSth t | .lsuStw t | .lsuStd t | .lsuStv t | .lsuStvn t | .lsuGath _ t | .lsuScat t
  | .lsuPref t | .lsuLdacq _ t | .lsuStrel _ t | .lsuDrain _ t | .vuAdd _ t | .vuSub _ t | .vuMul _ t | .vuFma _ t
  | .vuMin _ t | .vuMax _ t | .vuDiv _ t | .vuSqrt _ t | .vuAddb _ t | .vuSubb _ t | .vuMulb _ t | .vuFmab _ t | .vuMinb _ t
  | .vuMaxb _ t | .vuAddh _ t | .vuSubh _ t | .vuMulh _ t | .vuFmah _ t | .vuMinh _ t | .vuMaxh _ t | .vuExp2 _ t
  | .vuLog2 _ t | .vuRcp _ t | .vuRsqrt _ t | .vuTanh _ t | .vuErf _ t | .vuSigm _ t | .vuCvt _ t | .vuBq t | .vuIc8d _ t
  | .vuBscl _ t | .vuIadd _ t | .vuIsub _ t | .vuImul _ t | .vuIand _ t | .vuIor _ t | .vuIxor _ t | .vuIshl _ t
  | .vuIshr _ t | .vuIsar _ t | .vuImin _ t | .vuImax _ t | .vuIaddsat _ t | .vuFcmpeq _ t | .vuFcmplt _ t | .vuFcmple _ t
  | .vuFcmpun _ t | .vuIcmpeq _ t | .vuIcmplt _ t | .vuKand _ t | .vuKor _ t | .vuKxor _ t | .vuKnot _ t | .vuKpop _ t
  | .vuKsel _ t | .vuPerm _ t | .vuBcast _ t | .vuShuf _ t | .vuLrot _ t | .vuRsum _ t | .vuRmax _ t | .vuRmin _ t
  | .vuIrsum _ t | .vuRnorm _ t | .vuRunif _ t | .muMode t | .muLdp t | .muStp t | .muMadd t | .muMsub t | .muMmul t
  | .muMscale t | .muMexp t | .muMrelu t | .muMgelu t | .muMmean t | .muMsamp t | .muMpack t | .muMunpk t | .mxMma t
  | .mxMmag t | .mxMmar t | .mxMmaic t | .mxMmam t | .mxMmaft t | .mxTrans t | .mxPerm t | .mxRowsum t | .mxZero t
  | .mxAm2v t | .mxV2am t | .mxEadd t | .mxMskld t | .mxDesc t | .mxJoin t | .mxResume t | .mxScl t | .mxGidx t | .attQmc t
  | .attPart t | .attMerge t | .attFinal t | .attApp t | .attPmtrd t | .attPmtset t | .attRing t | .attStat t | .ceCpy t
  | .ceCpyw t | .ceBind t | .ceQfence t | .ceCkst t | .ceCkwait t | .ceCkrst t | .ceCpy2d t | .cbWaitf t | .cbWaite t
  | .cbPadv t | .cbCadv t | .cbCstat t | .quPush t | .quPop t | .quQwait t | .quAmo t | .quRed t | .quAmoacq t | .quAmorel t
  | .quTalloc t | .quTdec t | .quPuth t | .quMwait t | .quBara t | .quBarw t | .quBarx t | .quBari t | .sysCsrr t
  | .sysCsrw t | .sysCsrs t | .sysCsrc t | .sysTrap t | .sysTret t | .sysHret t | .sysLaunch t | .sysLaunchi t
  | .sysRetire t | .sysFrd t | .sysHinst t | .sysTlbi t | .sysTlbun t | .sysCinv t | .sysCwb t | .sysSlotld t | .sysCsw t
  | .sysIrq t | .sysDbg t => some (t, false)
  | .seqJmp t | .seqJmpr t | .seqCall t | .seqCallr t | .seqRet t | .seqLoop t | .seqLoopx t | .seqRep t | .seqMcall t
  | .seqMret t | .seqSusp t | .seqRdv t | .seqBrk t | .seqWaitg t | .seqWaitng t => some (t, true)
  | .operandPortWrite u _ t => some (t, u == .seq)
  | _ => none

/-- The rows of R293 with one result: unit, transport, latency, and b0 as a function of a, b, c and the guard registers. -/
def aluOne : Instr → Option (AluSel × Tr × Nat × (Word → Word → Word → (Fin 8 → Bool) → Word))
  | .aluMul u t => some (u, t, 3, fun a b _ _ => BitVec.ofNat 64 (a.toNat * b.toNat))
  | .aluMulh u t => some (u, t, 3, fun a b _ _ => BitVec.ofInt 64 (a.toInt * b.toInt / 2 ^ 64))
  | .aluMulhu u t => some (u, t, 3, fun a b _ _ => BitVec.ofNat 64 (a.toNat * b.toNat / 2 ^ 64))
  | .aluAnd u t => some (u, t, 1, fun a b _ _ => a &&& b)
  | .aluOr u t => some (u, t, 1, fun a b _ _ => a ||| b)
  | .aluXor u t => some (u, t, 1, fun a b _ _ => a ^^^ b)
  | .aluAndn u t => some (u, t, 1, fun a b _ _ => a &&& ~~~b)
  | .aluShl u t => some (u, t, 1, fun a b _ _ => BitVec.ofNat 64 (a.toNat * 2 ^ (b.toNat % 64)))
  | .aluShr u t => some (u, t, 1, fun a b _ _ => BitVec.ofNat 64 (a.toNat / 2 ^ (b.toNat % 64)))
  | .aluSar u t => some (u, t, 1, fun a b _ _ => BitVec.ofInt 64 (a.toInt / 2 ^ (b.toNat % 64)))
  | .aluRol u t => some (u, t, 1, fun a b _ _ =>
      BitVec.ofNat 64 (a.toNat * 2 ^ (b.toNat % 64) % 2 ^ 64 + a.toNat / 2 ^ (64 - b.toNat % 64)))
  | .aluMin u t => some (u, t, 1, fun a b _ _ => BitVec.ofInt 64 (min a.toInt b.toInt))
  | .aluMax u t => some (u, t, 1, fun a b _ _ => BitVec.ofInt 64 (max a.toInt b.toInt))
  | .aluMinu u t => some (u, t, 1, fun a b _ _ => BitVec.ofNat 64 (min a.toNat b.toNat))
  | .aluMaxu u t => some (u, t, 1, fun a b _ _ => BitVec.ofNat 64 (max a.toNat b.toNat))
  | .aluSel u t => some (u, t, 1, fun a b c g => if xor (g (finOf 8 (c.toNat % 8))) (c.getLsbD 3) then a else b)
  | .aluLimm u t => some (u, t, 1, fun a b _ _ => (a <<< 32) ||| (b &&& 0xFFFFFFFF))
  | .aluCeq u t => some (u, t, 1, fun a b _ _ => if a = b then 1 else 0)
  | .aluCne u t => some (u, t, 1, fun a b _ _ => if a ≠ b then 1 else 0)
  | .aluClt u t => some (u, t, 1, fun a b _ _ => if a.toInt < b.toInt then 1 else 0)
  | .aluCle u t => some (u, t, 1, fun a b _ _ => if a.toInt ≤ b.toInt then 1 else 0)
  | .aluCltu u t => some (u, t, 1, fun a b _ _ => if a.toNat < b.toNat then 1 else 0)
  | .aluCleu u t => some (u, t, 1, fun a b _ _ => if a.toNat ≤ b.toNat then 1 else 0)
  | .aluCbit u t => some (u, t, 1, fun a b _ _ => if a.getLsbD (b.toNat % 64) then 1 else 0)
  | _ => none

/-- The bit-field and counting rows of R293 and R294: b0 as a function of a, pos, len and c. -/
def aluField : Instr → Option (AluSel × Tr × (Word → Nat → Nat → Word → Word))
  | .aluBfx u t => some (u, t, fun a pos len _ => BitVec.ofNat 64 (a.toNat / 2 ^ pos % 2 ^ len))
  | .aluBfxs u t => some (u, t, fun a pos len _ =>
      -- the field of a sign-extended, and then extended from its own top bit
      if len = 0 then 0 else BitVec.ofInt 64 ((a.toInt / 2 ^ pos + 2 ^ (len - 1)) % 2 ^ len - 2 ^ (len - 1)))
  | .aluBfi u t => some (u, t, fun a pos len c =>
      let m := BitVec.ofNat 64 ((2 ^ len - 1) * 2 ^ pos)
      (c &&& ~~~m) ||| (BitVec.ofNat 64 (a.toNat * 2 ^ pos) &&& m))
  | .aluClz u t => some (u, t, fun a _ _ _ => BitVec.ofNat 64 (if a = 0 then 64 else 63 - Nat.log2 a.toNat))
  | .aluCtz u t => some (u, t, fun a _ _ _ => BitVec.ofNat 64 ((List.range 64).findIdx fun i => a.getLsbD i))
  | .aluPopc u t => some (u, t, fun a _ _ _ => BitVec.ofNat 64 ((List.range 64).filter fun i => a.getLsbD i).length)
  | _ => none

/-- The rows of R293 with a flag in b1: b0 and b1 as functions of a and b. -/
def aluTwo : Instr → Option (AluSel × Tr × (Word → Word → Word) × (Word → Word → Bool))
  | .aluAdd u t => some (u, t, fun a b => BitVec.ofNat 64 (a.toNat + b.toNat), fun a b => decide (2 ^ 64 ≤ a.toNat + b.toNat))
  | .aluSub u t => some (u, t, fun a b => BitVec.ofInt 64 (a.toNat - b.toNat), fun a b => decide (a.toNat < b.toNat))
  | .aluAddsat u t => some (u, t, fun a b => BitVec.ofInt 64 (max (-(2 ^ 63)) (min (2 ^ 63 - 1) (a.toInt + b.toInt))),
      fun a b => decide (a.toInt + b.toInt < -(2 ^ 63)) || decide (2 ^ 63 ≤ a.toInt + b.toInt))
  | .aluSubsat u t => some (u, t, fun a b => BitVec.ofInt 64 (max (-(2 ^ 63)) (min (2 ^ 63 - 1) (a.toInt - b.toInt))),
      fun a b => decide (a.toInt - b.toInt < -(2 ^ 63)) || decide (2 ^ 63 ≤ a.toInt - b.toInt))
  | _ => none

/-- The address rows of R295: the address from a, b, and base, stride and slot size of the generator. -/
def aguSum : Instr → Option (Tr × (Word → Word → Word → Word → Word → Word))
  | .aguLin t => some (t, fun a _ base stride _ => base + a * stride)
  | .aguTile t => some (t, fun a b base stride _ => base + a * stride + b)
  | .aguArena t => some (t, fun a b base stride slot => base + b * slot + a * stride)
  | _ => none

/-- Register j of the generator that c[1:0] selects (R295). -/
def genReg (s : State) (j : Nat) : Word := s.me.getA (finOf 16 (4 * ((s.opC .agu).toNat % 4) + j))
/-- In-bounds as R295 defines it. -/
def inb (base limit x : Word) : Bool := decide (limit = 0) || decide ((x - base).toNat < limit.toNat)

/-- The bundle that the assembler makes of a line, after `.rdv` if that is set. -/
def lineBundle (rdv : Bool) (l : String) : Option Nat :=
  ((parseLine [] l.toList).bind (bundleOf false 0 { rdv := rdv })).map bundleNat

end Sys2Proof.Claims

section

open Sys2Proof Sys2Proof.Machine Sys2Proof.Claims

/-! ### Encoding -/

/-- Words that the spec prints decode to the instruction they are printed for (chapters 13, 14, 16 to 18), and the assembler makes of
printed lines the bundles that are printed for them, and refuses two lines that it must (R222 to R224; chapters 13, 20, 21). -/
def Obligations.DecodeWords : Prop :=
  decodeTableWord 32 0x00404BFC = some (.seqJmp ⟨⟨false, 0⟩, .imm 0x3FC⟩)
  ∧ decodeTableWord 32 0x30404BFE = some (.seqJmp ⟨⟨false, 6⟩, .imm 0x3FE⟩)
  ∧ decodeTableWord 32 0x00707009 = some (.aguArena ⟨⟨false, 0⟩, .s 9⟩)
  ∧ decodeTableWord 32 0x02907103 = some (.vuFma .w512 ⟨⟨false, 0⟩, .v 3⟩)
  ∧ decodeTableWord 32 0x04807004 = some (.lsuLdd true ⟨⟨false, 0⟩, .s 4⟩)
  ∧ decodeTableWord 32 0x0082B800 = some (.lsuDrain .pkg ⟨⟨false, 0⟩, .imm 0⟩)
  ∧ decodeTableWord 32 0x00A07201 = some (.muMadd ⟨⟨false, 0⟩, .m 1⟩)
  ∧ decodeTableWord 32 0x00B0E00D = some (.mxAm2v ⟨⟨false, 0⟩, .s 13⟩)
  ∧ decodeTableWord 32 0x00C04C0D = some (.attQmc ⟨⟨false, 0⟩, .special (.arg 0)⟩)
  ∧ decodeTableWord 32 0x00D04002 = some (.ceCpy ⟨⟨false, 0⟩, .s 2⟩)
  ∧ decodeTableWord 32 0x00F1101B = some (.quBarx ⟨⟨false, 0⟩, .s 27⟩)
  ∧ decodeTableWord 32 0x0100D800 = some (.sysRetire ⟨⟨false, 0⟩, .imm 0⟩)
  ∧ lineBundle true "s2 -> alu0.o1 || s5 -> alu0.add => s6 || (!g3) lc0 -> s7" = some 0x58007C0100504005005010029FF06FF0
  ∧ lineBundle false "alu0.b0 -> alu1.o1 || 2 -> alu1.cltu => g1" = some 0x4000000000624802006014A08FFA1FF0
  ∧ lineBundle false "arg1 -> lsu.ldacq.dom || lc0 -> alu1.cne => g2" = some 0x4000000000621C010081CC0E8FFA2FF0
  ∧ lineBundle false "arg2 -> lsu.o1 || (g2) s25 -> lsu.strel.dom" = some 0x40000000400000001082401900801C0F
  ∧ lineBundle false "-1000 -> alu0.o1 || alu0.b0 -> alu0.add => s6" = none
  ∧ lineBundle false "-1000 -> alu0.o1 || 1 -> alu0.o2 || 2 -> alu1.o1 || 3 -> alu1.o2" = none

/-- Every well-formed transport has a word, and the decoder reads that word as the transport, every operand included (R264 to R272). -/
def Obligations.DecodeEncode : Prop :=
  ∀ i : Instr, i.wf = true → transportOf i ≠ none → ∃ w, encode i = some w ∧ decodeSlot w = .ok i

/-- A word has one meaning: what the decoder reads from it is encoded as that word again, and is well-formed. Unit codes 0x11 to
0x1F name no unit: a slot that holds one never decodes, and a live one is refused as ILLT with its code (R181, R270). -/
def Obligations.WordsHaveOneMeaning : Prop :=
  (∀ (w : Slot32) (i : Instr), decodeSlot w = .ok i → encode i = some w ∧ i.wf = true)
  ∧ (∀ w : Slot32, 0x11 ≤ slotUnit w → slotTop w = false → slotEmpty w = false → decodeSlot w = .error (.illt (slotUnit w)))

/-! ### Transports in general -/

/-- A transport with a false guard moves nothing: it reads no source, writes no port and fires no trigger (R123, R265); in an earlier
repetition of a repeated bundle a seq transport counts as guard false (R288). -/
def Obligations.GuardsDecide : Prop :=
  (∀ (i : Instr) (t : Tr) (seq : Bool) (s : State), transportOf i = some (t, seq) → s.guard t.g = false → exec i s = .next s)
  ∧ (∀ (i : Instr) (t : Tr) (s : State), transportOf i = some (t, true) → s.bnd.repSeq = false → exec i s = .next s)

/-- A register-file write is kept with the bundle, with its selector, until the end of the cycle; an operand port holds what is written
to it at once, and every other port and register keeps its value (R123, R271). -/
def Obligations.MovesComplete : Prop :=
  (∀ (d : RegDst) (t : Tr) (s s' : State) (v : Val),
    Reads s t false (match d with | .m _ => true | _ => false) v s' →
    exec (.registerFileWrite d t) s
      = .next { s' with bnd := { s'.bnd with writes := s'.bnd.writes ++ [(d, selCode s'.bnd.words s'.bnd.slot, v)] } })
  ∧ (∀ (u : FUnit) (p : Fin 4) (t : Tr) (s s' : State) (v : Val), Reads s t (u == .seq) (u == .mu) v s' →
    ∃ x, exec (.operandPortWrite u p t) s = .next x ∧ x.opPort u p.val = v
      ∧ (∀ (u' : FUnit) (p' : Fin 4), (u', p') ≠ (u, p) → x.opPort u' p'.val = s'.opPort u' p'.val)
      ∧ { x with cores := s'.cores } = s' ∧ (∀ k, k ≠ s'.cur → x.core k = s'.core k)
      ∧ x.me = { s'.me with ports := x.me.ports } ∧ x.myCore.sp = s'.myCore.sp)

/-- What the end of the cycle makes of a register-file write: the named register takes the value at its own width, s0 and g0
discard it, and every other s, k, g, a, lc, cb, v, m and ft register keeps its value (R137, R271). s0 reads 0 and g0 reads 1 in
every context of every core, whatever was written (R137). -/
def Obligations.RegisterWriteLands : Prop :=
  (∀ (s : State) (k i : Nat) (sel : Option Nat) (v : Val),
    (∀ r j, ((s.applyWrite k i (.s r, sel, v)).cx k i).getS j = if j = r ∧ r ≠ 0 then v.setWidth 64 else (s.cx k i).getS j)
    ∧ (∀ r j, ((s.applyWrite k i (.small (.g r), sel, v)).cx k i).getG j = if j = r ∧ r ≠ 0 then v.getLsbD 0 else (s.cx k i).getG j)
    ∧ (∀ r j, ((s.applyWrite k i (.small (.k r), sel, v)).cx k i).getK j = if j = r then v.setWidth 64 else (s.cx k i).getK j)
    ∧ (∀ r j, ((s.applyWrite k i (.small (.a r), sel, v)).cx k i).getA j = if j = r then v.setWidth 64 else (s.cx k i).getA j)
    ∧ (∀ r j, ((s.applyWrite k i (.small (.lc r), sel, v)).cx k i).getLc j = if j = r then v.setWidth 32 else (s.cx k i).getLc j)
    ∧ (∀ r j, ((s.applyWrite k i (.small (.cb r), sel, v)).cx k i).getCb j = if j = r then v.setWidth 32 else (s.cx k i).getCb j)
    ∧ (∀ r j, ((s.applyWrite k i (.v r, sel, v)).core k).getV j = if j = r then v.setWidth 1024 else (s.core k).getV j)
    ∧ (∀ r j, ((s.applyWrite k i (.m r, sel, v)).core k).getM j = if j = r then v else (s.core k).getM j)
    ∧ (∀ r j, ((s.applyWrite k i (.small (.ft r), sel, v)).core k).getFt j = if j = r then v.setWidth 16 else (s.core k).getFt j)
    ∧ (∀ r j e f, e < 256 → f < 256 → ((s.applyWrite k i (.small (.ct r), some e, v)).core k).getCt j f
        = if j = r ∧ f = e then v.setWidth 32 else (s.core k).getCt j f)
    ∧ (∀ (w : RegDst × Option Nat × Val) q, { s.applyWrite k i w with cores := s.cores } = s
        ∧ (q ≠ k → (s.applyWrite k i w).core q = s.core q) ∧ ((s.applyWrite k i w).core k).sp = (s.core k).sp))
  ∧ (∀ (s : State) (k i : Nat) (v : Val) (sel : Option Nat),
    ((s.applyWrite k i (.s 0, sel, v)).cx k i).getS 0 = 0 ∧ ((s.applyWrite k i (.small (.g 0), sel, v)).cx k i).getG 0 = true
    ∧ s.applyWrite k i (.s 0, sel, v) = s.updCx k i id ∧ ((s.writeLend k i 0 v).cx k i).getS 0 = 0
    ∧ ((s.writeLend k i 0xA0 v).cx k i).getG 0 = true)

/-- A fixed-latency result with one cycle left reaches its bypass register at the end of this cycle, and one with more cycles left moves
one cycle on and does not, whatever registers the bundle of the cycle writes (R124). -/
def Obligations.ResultLands : Prop :=
  ∀ (s : State) (k i : Nat) (ws : List (RegDst × Option Nat × Val)) (f : Flight) (b : Nat), (s.cx k i).flights = [f] →
    f.byp = some b → b < 4 → f.lend = 0xFF → f.late = false → f.fault = none →
    ((f.remain = 1 → (s.tickCx k i ws).bypAt k i f.unit b = f.val ∧ ((s.tickCx k i ws).cx k i).flights = [])
    ∧ (2 ≤ f.remain → (s.tickCx k i ws).bypAt k i f.unit b = s.bypAt k i f.unit b
        ∧ ((s.tickCx k i ws).cx k i).flights = [{ f with remain := f.remain - 1 }])
    ∧ ((s.tickCx k i ws).cx k i).vcc = (s.cx k i).vcc + 1)

/-! ### Integer and address units -/

/-- The triggers of alu0 and alu1 complete. The one-result rows have the value of R293's table in flight for b0, at latency 1, or
3 for the multiplies; the bit-field and counting rows the value of R294's pseudocode, at latency 1; add, sub, addsat and subsat
the sum, difference or clamped value in b0 and the carry, borrow or clamped flag in b1 (R293), of which a lend takes only b0
(R277). lin, tile and arena complete with the address in b0 and whether it is in bounds in b1. set, step and chk complete: set and
step write the generator's registers as lends do, visible in the next cycle; chk writes none (R295). -/
def Obligations.IntegerUnits : Prop :=
  ((∀ (i : Instr) (u : AluSel) (t : Tr) (lat : Nat) (f : Word → Word → Word → (Fin 8 → Bool) → Word) (s s' : State) (v : Val),
    aluOne i = some (u, t, lat, f) → Reads s t false false v s' →
    exec i s = .next (s'.result u.unit 0 lat (wordVal (f (valWord v) (s'.opB u.unit) (s'.opC u.unit) s'.me.getG))))
  ∧ (∀ (i : Instr) (u : AluSel) (t : Tr) (f : Word → Nat → Nat → Word → Word) (s s' : State) (v : Val),
    aluField i = some (u, t, f) → Reads s t false false v s' →
    exec i s = .next (s'.result u.unit 0 1 (wordVal (f (valWord v) ((s'.opB u.unit).toNat % 64)
      (min ((s'.opB u.unit).toNat / 2 ^ 8 % 2 ^ 7) 64) (s'.opC u.unit)))))
  ∧ (∀ (i : Instr) (u : AluSel) (t : Tr) (f : Word → Word → Word) (g : Word → Word → Bool) (s s' : State) (v : Val),
    aluTwo i = some (u, t, f, g) → Reads s t false false v s' →
    exec i s = .next ((s'.result u.unit 0 1 (wordVal (f (valWord v) (s'.opB u.unit)))).result1 u.unit 1 1
      (boolVal (g (valWord v) (s'.opB u.unit))))))
  ∧ ((∀ (i : Instr) (t : Tr) (f : Word → Word → Word → Word → Word → Word) (s s' : State) (v : Val),
    aguSum i = some (t, f) → Reads s t false false v s' →
    exec i s = .next
      (let x := f (valWord v) (s'.opB .agu) (genReg s' 0) (genReg s' 1) (genReg s' 2)
       (s'.result .agu 0 1 (wordVal x)).result1 .agu 1 1 (boolVal (inb (genReg s' 0) (genReg s' 3) x))))
  ∧ (∀ (t : Tr) (s s' : State) (v : Val), Reads s t false false v s' →
    let a := valWord v
    let code := fun j => 0xB0 + 4 * ((s'.opC .agu).toNat % 4) + j
    exec (.aguSet t) s = .next (((((s'.result .agu 0 1 (wordVal a)).lendWrite (code 0) (wordVal a)).lendWrite (code 1)
        (wordVal (s'.opB .agu))).lendWrite (code 2) (wordVal (s'.opD .agu))).lendWrite (code 3) (wordVal (s'.opE .agu)))
    ∧ exec (.aguStep t) s = .next ((s'.result .agu 0 1 (wordVal (genReg s' 0 + a))).lendWrite (code 0) (wordVal (genReg s' 0 + a)))
    ∧ exec (.aguChk t) s = .next ((s'.result .agu 0 1 (boolVal (inb (genReg s' 0) (genReg s' 3) a))).result1 .agu 1 1
        (wordVal (a - genReg s' 0)))))

end

namespace Sys2Proof.Claims

open Sys2Proof.Machine

/-- The floating-point rows of R301: width, latency, element format and the exact operation on a_i, b_i, c_i. -/
def vuFloatRow : Instr → Option (VWidth × Tr × Nat × Fmt × (XR → XR → XR → XR))
  | .vuAdd w t => some (w, t, 3, .fp32, fun a b _ => a.add b)
  | .vuSub w t => some (w, t, 3, .fp32, fun a b _ => a.sub b)
  | .vuMul w t => some (w, t, 3, .fp32, fun a b _ => a.mul b)
  | .vuFma w t => some (w, t, 4, .fp32, fun a b c => (a.mul b).add c)
  | .vuMin w t => some (w, t, 3, .fp32, fun a b _ => a.min b)
  | .vuMax w t => some (w, t, 3, .fp32, fun a b _ => a.max b)
  | .vuAddb w t => some (w, t, 3, .bf16, fun a b _ => a.add b)
  | .vuSubb w t => some (w, t, 3, .bf16, fun a b _ => a.sub b)
  | .vuMulb w t => some (w, t, 3, .bf16, fun a b _ => a.mul b)
  | .vuFmab w t => some (w, t, 4, .bf16, fun a b c => (a.mul b).add c)
  | .vuMinb w t => some (w, t, 3, .bf16, fun a b _ => a.min b)
  | .vuMaxb w t => some (w, t, 3, .bf16, fun a b _ => a.max b)
  | .vuAddh w t => some (w, t, 3, .fp16, fun a b _ => a.add b)
  | .vuSubh w t => some (w, t, 3, .fp16, fun a b _ => a.sub b)
  | .vuMulh w t => some (w, t, 3, .fp16, fun a b _ => a.mul b)
  | .vuFmah w t => some (w, t, 4, .fp16, fun a b c => (a.mul b).add c)
  | .vuMinh w t => some (w, t, 3, .fp16, fun a b _ => a.min b)
  | .vuMaxh w t => some (w, t, 3, .fp16, fun a b _ => a.max b)
  | .vuDiv w t => some (w, t, 12, .fp32, fun a b _ => a.div b)
  | .vuSqrt w t => some (w, t, 12, .fp32, fun a _ _ => a.sqrt)
  | _ => none

/-- The correctly rounded functions of R302. -/
def vuFunRow : Instr → Option (VWidth × Tr × Nat × CrFun)
  | .vuExp2 w t => some (w, t, 8, .exp2) | .vuLog2 w t => some (w, t, 8, .log2) | .vuRcp w t => some (w, t, 10, .rcp)
  | .vuRsqrt w t => some (w, t, 10, .rsqrt) | .vuTanh w t => some (w, t, 14, .tanh) | .vuErf w t => some (w, t, 14, .erf)
  | .vuSigm w t => some (w, t, 14, .sigm)
  | _ => none

/-- The integer, select and permute rows of R307, R309 and R310: element `i` of the result, of `z` bits each, from the elements of a, b and
c, the number `n` of elements and the control word; `i < n`. -/
def vuElemRow : Instr → Option (VWidth × Tr × Nat × (Nat → Nat → (Nat → Nat) → (Nat → Nat) → Nat → Nat → Nat → Nat))
  | .vuIadd w t => some (w, t, 3, fun _ _ a b _ _ i => a i + b i)
  | .vuIsub w t => some (w, t, 3, fun z _ a b _ _ i => (((a i : Int) - b i) % 2 ^ z).toNat)
  | .vuImul w t => some (w, t, 4, fun _ _ a b _ _ i => a i * b i)
  | .vuIand w t => some (w, t, 3, fun _ _ a b _ _ i => a i &&& b i)
  | .vuIor w t => some (w, t, 3, fun _ _ a b _ _ i => a i ||| b i)
  | .vuIxor w t => some (w, t, 3, fun _ _ a b _ _ i => a i ^^^ b i)
  | .vuIshl w t => some (w, t, 3, fun z _ a b _ _ i => a i <<< (b i % z))
  | .vuIshr w t => some (w, t, 3, fun z _ a b _ _ i => a i >>> (b i % z))
  | .vuIsar w t => some (w, t, 3, fun z _ a b _ _ i => ((sint z (a i) >>> (b i % z)) % 2 ^ z).toNat)
  | .vuImin w t => some (w, t, 3, fun z _ a b _ _ i => ((min (sint z (a i)) (sint z (b i))) % 2 ^ z).toNat)
  | .vuImax w t => some (w, t, 3, fun z _ a b _ _ i => ((max (sint z (a i)) (sint z (b i))) % 2 ^ z).toNat)
  | .vuIaddsat w t => some (w, t, 3, fun z _ a b _ _ i =>
      ((max (-2 ^ (z - 1)) (min (2 ^ (z - 1) - 1) (sint z (a i) + sint z (b i)))) % 2 ^ z).toNat)
  | .vuKsel w t => some (w, t, 3, fun _ _ a b c _ i => if i < 64 ∧ c.testBit i then a i else b i)
  | .vuPerm w t => some (w, t, 4, fun _ n a b _ _ i => a (b i % n))
  | .vuBcast w t => some (w, t, 4, fun _ n a _ _ ctl _ => a (ctl / 2 ^ 24 % 256 % n))
  | .vuShuf w t => some (w, t, 4, fun _ n a b _ ctl i =>
      let x := fun j => if j < n then a j else b (j - n)
      match ctl / 4 % 4 with
      | 0 => x (i / 2 + i % 2 * n) | 1 => x (n / 2 + i / 2 + i % 2 * n) | 2 => x (2 * i) | _ => x (2 * i + 1))
  | .vuLrot w t => some (w, t, 4, fun _ n a b _ _ i => a ((i + n - b 0 % n) % n))
  | _ => none

/-- The element size in bits that ESZ of a control word names (R297 Table 1). -/
def eszBits (ctl : Nat) : Nat := match ctl % 4 with | 0 => 32 | 1 => 16 | 2 => 8 | _ => 64

/-- The operands of the VU as numbers: a (the trigger value's low 1,024 bits), b, c and CTL (R296, R297). -/
def vuA (v : Val) : Nat := v.toNat % 2 ^ 1024
def vuOp (s : State) (p : Nat) : Nat := (s.opPort .vu p).toNat % 2 ^ 1024
def vuCtlOf (s : State) : Nat := (s.opPort .vu 2).toNat % 2 ^ 32

/-- The compares of R308: the element size (32, or by ESZ) and whether bit i is 1. -/
def vuCmpRow : Instr → Option (VWidth × Tr × Bool × (Nat → Nat → Nat → Bool))
  | .vuFcmpeq w t => some (w, t, false, fun _ a b => (f32 a).feq (f32 b))
  | .vuFcmplt w t => some (w, t, false, fun _ a b => (f32 a).flt (f32 b))
  | .vuFcmple w t => some (w, t, false, fun _ a b => (f32 a).flt (f32 b) || (f32 a).feq (f32 b))
  | .vuFcmpun w t => some (w, t, false, fun _ a b => (f32 a).isNan || (f32 b).isNan)
  | .vuIcmpeq w t => some (w, t, true, fun _ a b => a == b)
  | .vuIcmplt w t => some (w, t, true, fun z a b => decide (sint z a < sint z b))
  | _ => none

/-- The rows of the VU whose whole result is one function of the operands (R303 to R305, R309, R311). -/
def vuWholeRow : Instr → Option (VWidth × Tr × Nat × (State → Nat → Nat → Nat))
  | .vuCvt w t => some (w, t, 3, fun s a _ => cvtVec w.bits (vuCtlOf s) a)
  | .vuBq t => some (.w1024, t, 6, fun s a _ => bqVec (vuCtlOf s / 2 ^ 12 % 16) a)
  | .vuIc8d w t => some (w, t, 4, fun s a _ => s.ic8dVec w.bits a)
  | .vuKand w t => some (w, t, 3, fun _ a b => (a % 2 ^ 64) &&& (b % 2 ^ 64))
  | .vuKor w t => some (w, t, 3, fun _ a b => (a % 2 ^ 64) ||| (b % 2 ^ 64))
  | .vuKxor w t => some (w, t, 3, fun _ a b => (a % 2 ^ 64) ^^^ (b % 2 ^ 64))
  | .vuKnot w t => some (w, t, 3, fun _ a _ => 2 ^ 64 - 1 - a % 2 ^ 64)
  | .vuKpop w t => some (w, t, 3, fun _ a _ => ((List.range 64).filter fun i => a.testBit i).length)
  | .vuRsum w t => some (w, t, 10, fun _ a _ => treeSum 5 ((List.range (w.bits / 32)).map (elem 32 a)))
  | .vuRmax w t => some (w, t, 5, fun _ a _ => reduce XR.max ((List.range (w.bits / 32)).map fun i => f32 (elem 32 a i)))
  | .vuRmin w t => some (w, t, 5, fun _ a _ => reduce XR.min ((List.range (w.bits / 32)).map fun i => f32 (elem 32 a i)))
  | .vuIrsum w t => some (w, t, 5, fun s a _ =>
      ((((List.range (w.bits / eszBits (vuCtlOf s))).map fun i => sint (eszBits (vuCtlOf s)) (elem (eszBits (vuCtlOf s)) a i)).sum)
        % 2 ^ 64).toNat)
  | _ => none

/-- The one-operand rows of the MU: what lane j of the result pair is, from the lane's mean and variance and the lanes of b and c
(R325 to R327). -/
def muPairRow : Instr → Option (Tr × Nat × (Nat → Nat → Nat → Nat → Nat × Nat))
  | .muMscale t => some (t, 5, fun m v k o =>
      (toF32 (((f32 k).mul (f32 m)).add (f32 o)), toF32 (xprod [f32 k, f32 k, readVar v])))
  | .muMexp t => some (t, 14, fun m v _ _ => mexpLane m v)
  | .muMrelu t => some (t, 20, fun m v _ _ => mreluLane m v)
  | .muMgelu t => some (t, 20, fun m v _ _ => mgeluLane m v)
  | _ => none
/-- The rows with one FP32 or MV32 word for each lane (R322). -/
def muLaneRow : Instr → Option (Tr × (Nat → Nat → Nat))
  | .muMmean t => some (t, fun m _ => m)
  | .muMpack t => some (t, fun m v => mvPack m v)
  | _ => none
/-- madd, msub and mmul (R323, R324): the lane, and whether their mode may give a negative variance (R320). -/
def muBothRow : Instr → Option (Tr × (Nat → Bool) × (Nat → Nat → Nat → Nat → Nat → Nat × Nat))
  | .muMadd t => some (t, fun m => m == 3, maddLane false)
  | .muMsub t => some (t, fun m => m == 3, maddLane true)
  | .muMmul t => some (t, fun m => m != 0, mmulLane)
  | _ => none

/-- The operands of a moment trigger that R319 checks (Table 2): D1, and the variance that each lane holds. -/
def muChecked (s : State) (v : Val) : Instr → List (Nat × (Nat → Nat))
  | .muMscale _ | .muMexp _ | .muMrelu _ | .muMgelu _ | .muMmean _ | .muMpack _ | .muMsamp _ => [(0, varOf v.toNat)]
  | .muMunpk _ => [(0, fun j => mvVar (elem 32 v.toNat j))]
  | .muLdp _ => [(1, fun j => elem 32 (s.opPort .mu 1).toNat j)]
  | .muMadd _ | .muMsub _ | .muMmul _ => [(0, varOf v.toNat), (1, varOf (s.opPort .mu 1).toNat)]
  | _ => []

/-- No lane of the low 2,048 bits has a negative variance (R249). -/
def noNegVar (x : Nat) : Prop := ∀ j, j < 32 → negVar (varOf x j) = false

end Sys2Proof.Claims

section

open Sys2Proof Sys2Proof.Machine Sys2Proof.Claims

/-! ### The vector unit -/

/-- The floating-point triggers complete: element i of b(k) is the exact result rounded once to the format to nearest even, for
each of the w / width elements, and the bits above are 0 (R296, R301). exp2, log2, rcp, rsqrt, tanh, erf and sigm complete: each
FP32 element is the correctly rounded function of a's element (R302); bscl scales each by the block scale in b[7:0] (R306). -/
def Obligations.VuFloatElements : Prop :=
  (∀ (i : Instr) (w : VWidth) (t : Tr) (lat : Nat) (f : Fmt) (op : XR → XR → XR → XR) (s s' : State) (v : Val),
    vuFloatRow i = some (w, t, lat, f, op) → Reads s t false false v s' →
    ∃ x : Nat, exec i s = .next (s'.result .vu s'.bnd.vuk lat (natVal x)) ∧ x < 2 ^ w.bits
      ∧ ∀ j, j < w.bits / f.width → elem f.width x j = f.round 0 (op (f.decode (elem f.width (vuA v) j))
          (f.decode (elem f.width (vuOp s' 1) j)) (f.decode (elem f.width (vuOp s' 0) j))) % 2 ^ f.width)
  ∧ ((∀ (i : Instr) (w : VWidth) (t : Tr) (lat : Nat) (f : CrFun) (s s' : State) (v : Val),
    vuFunRow i = some (w, t, lat, f) → Reads s t false false v s' →
    ∃ x : Nat, exec i s = .next (s'.result .vu s'.bnd.vuk lat (natVal x)) ∧ x < 2 ^ w.bits
      ∧ ∀ j, j < w.bits / 32 → elem 32 x j = crFun f (elem 32 (vuA v) j) % 2 ^ 32)
  ∧ ∀ (w : VWidth) (t : Tr) (s s' : State) (v : Val), Reads s t false false v s' →
    ∃ x : Nat, exec (.vuBscl w t) s = .next (s'.result .vu s'.bnd.vuk 3 (natVal x)) ∧ x < 2 ^ w.bits
      ∧ ∀ j, j < w.bits / 32 → elem 32 x j = if vuOp s' 1 % 256 = 0xFF then 0x7FC00000
          else toF32 ((f32 (elem 32 (vuA v) j)).scale (((vuOp s' 1 % 256 : Nat) : Int) - 127)) % 2 ^ 32)

/-- The integer, select and permute triggers complete: each element of the size that ESZ names is what R307, R309 or R310 states,
modulo 2^size, and the bits above the width are 0. The compares complete with a mask: bit i for element i below min(n, 64), every
other bit 0 (R308). Conversions, block formats, mask operations and reductions complete with the whole result that R303 to R305,
R309 and R311 state. -/
def Obligations.VuIntegerAndMasks : Prop :=
  (∀ (i : Instr) (w : VWidth) (t : Tr) (lat : Nat) (f : Nat → Nat → (Nat → Nat) → (Nat → Nat) → Nat → Nat → Nat → Nat) (s s' : State)
    (v : Val),
    vuElemRow i = some (w, t, lat, f) → Reads s t false false v s' →
    let z := eszBits (vuCtlOf s')
    let n := w.bits / z
    ∃ x : Nat, exec i s = .next (s'.result .vu s'.bnd.vuk lat (natVal x)) ∧ x < 2 ^ w.bits
      ∧ ∀ j, j < n → elem z x j
          = f z n (elem z (vuA v)) (if i = .vuLrot w t then fun _ => vuOp s' 1 % 2 ^ 16 else elem z (vuOp s' 1)) (vuOp s' 0) (vuCtlOf s') j % 2 ^ z)
  ∧ ((∀ (i : Instr) (w : VWidth) (t : Tr) (byEsz : Bool) (p : Nat → Nat → Nat → Bool) (s s' : State) (v : Val),
    vuCmpRow i = some (w, t, byEsz, p) → Reads s t false false v s' →
    let z := if byEsz then eszBits (vuCtlOf s') else 32
    ∃ x : Nat, exec i s = .next (s'.result .vu s'.bnd.vuk 3 (natVal x))
      ∧ ∀ j, x.testBit j = (decide (j < min (w.bits / z) 64) && p z (elem z (vuA v) j) (elem z (vuOp s' 1) j)))
  ∧ (∀ (i : Instr) (w : VWidth) (t : Tr) (lat : Nat) (f : State → Nat → Nat → Nat) (s s' : State) (v : Val),
    vuWholeRow i = some (w, t, lat, f) → Reads s t false false v s' →
    exec i s = .next (s'.result .vu s'.bnd.vuk lat (natVal (f s' (vuA v) (vuOp s' 1))))))

/-- runif and rnorm complete: runif pops one vector and its element j is (word j >> 8) * 2^-24; rnorm pops three, and element j is
(the sum of its twelve bytes - 1,530) * 2^-8 (R313, R314). The random position moves on by as many vectors, and the vectors depend on
RQKEY and the position alone (R140). -/
def Obligations.VuRandomDraws : Prop :=
  ∀ (w : VWidth) (t : Tr) (s s' : State) (v : Val), Reads s t false false v s' →
    let word := fun (n : Nat) (j : Nat) => elem 32 (rndVec s'.me.rqkey (s'.me.rqpos + BitVec.ofNat 64 n)).toNat j
    let byte := fun (m : Nat) => word (m / 128) (m % 128 / 4) / 2 ^ (8 * (m % 4)) % 256
    let moved := fun (n : Nat) => s'.updMe fun c => { c with rqpos := c.rqpos + BitVec.ofNat 64 n }
    (∃ x : Nat, exec (.vuRunif w t) s = .next ((moved 1).result .vu s'.bnd.vuk 3 (natVal x)) ∧ x < 2 ^ w.bits
      ∧ ∀ j, j < w.bits / 32 → elem 32 x j = toF32 (.fin false (word 0 j / 2 ^ 8) (-24)) % 2 ^ 32)
    ∧ (∃ x : Nat, exec (.vuRnorm w t) s = .next ((moved 3).result .vu s'.bnd.vuk 6 (natVal x)) ∧ x < 2 ^ w.bits
      ∧ ∀ j, j < w.bits / 32 →
          let sum := ((List.range 12).map fun k => byte (12 * j + k)).sum
          elem 32 x j = toF32 (.fin (decide (sum < 1530)) (if sum < 1530 then 1530 - sum else sum - 1530) (-8)) % 2 ^ 32)

/-! ### The moment unit -/

/-- mscale, mexp, mrelu, mgelu, mmean, mpack and munpk complete where no variance they read is negative, lane by lane (R322, R325
to R327). mode, ldp and stp complete: mode writes o3 alone; ldp joins means and variances where no variance is negative, and stp
takes them apart into b0 and b1 (R317, R322). -/
def Obligations.MuLanes : Prop :=
  ((∀ (i : Instr) (t : Tr) (lat : Nat) (f : Nat → Nat → Nat → Nat → Nat × Nat) (s s' : State) (v : Val),
    muPairRow i = some (t, lat, f) → Reads s t false true v s' → noNegVar v.toNat →
    ∃ x : Val, exec i s = .next (s'.result .mu 0 lat x) ∧ ∀ j, j < 32 →
      elem 64 x.toNat j = ((f (meanOf v.toNat j) (varOf v.toNat j) (elem 32 (s'.opPort .mu 1).toNat j) (elem 32 (s'.opPort .mu 0).toNat j)).1
        + (f (meanOf v.toNat j) (varOf v.toNat j) (elem 32 (s'.opPort .mu 1).toNat j) (elem 32 (s'.opPort .mu 0).toNat j)).2 * 2 ^ 32) % 2 ^ 64)
  ∧ (∀ (i : Instr) (t : Tr) (f : Nat → Nat → Nat) (s s' : State) (v : Val),
    muLaneRow i = some (t, f) → Reads s t false true v s' → noNegVar v.toNat →
    ∃ x : Val, exec i s = .next (s'.result .mu 0 4 x) ∧ x.toNat < 2 ^ 1024
      ∧ ∀ j, j < 32 → elem 32 x.toNat j = f (meanOf v.toNat j) (varOf v.toNat j) % 2 ^ 32)
  ∧ ∀ (t : Tr) (s s' : State) (v : Val), Reads s t false true v s' → (∀ j, j < 32 → negVar (mvVar (elem 32 v.toNat j)) = false) →
    ∃ x : Val, exec (.muMunpk t) s = .next (s'.result .mu 0 4 x)
      ∧ ∀ j, j < 32 → elem 64 x.toNat j = (mvMean (elem 32 v.toNat j) + mvVar (elem 32 v.toNat j) * 2 ^ 32) % 2 ^ 64)
  ∧ (∀ (t : Tr) (s s' : State) (v : Val), Reads s t false true v s' →
    (∃ x, exec (.muMode t) s = .next x ∧ (x.opPort .mu 3).toNat % 2 ^ 32 = v.toNat % 4
      ∧ (v.toNat % 4 ≠ 3 → (x.opPort .mu 3).toNat / 2 ^ 32 = v.toNat / 2 ^ 32 % 2 ^ 32)
      ∧ (∀ p, p < 3 → x.opPort .mu p = s'.opPort .mu p) ∧ x.me = s'.me ∧ { x with cores := s'.cores } = s')
    ∧ ((∀ j, j < 32 → negVar (elem 32 (s'.opPort .mu 1).toNat j) = false) →
      ∃ x : Val, exec (.muLdp t) s = .next (s'.result .mu 0 4 x)
        ∧ ∀ j, j < 32 → meanOf x.toNat j = elem 32 v.toNat j ∧ varOf x.toNat j = elem 32 (s'.opPort .mu 1).toNat j)
    ∧ ∃ x y : Val, exec (.muStp t) s = .next ((s'.result .mu 0 4 x).result1 .mu 1 4 y)
        ∧ ∀ j, j < 32 → elem 32 x.toNat j = meanOf v.toNat j ∧ elem 32 y.toNat j = varOf v.toNat j)

/-- madd, msub and mmul complete where no operand variance is negative: a result of latency 10 whose lanes are those of R323 and
R324 under the mode in o3. A negative variance in the result, which only MODE 3, or for mmul MODE 1 to 3, can give, is held with
it as NEGVAR, which its arrival raises (R320); any other result holds none. msamp completes where no variance is negative: it pops
three vectors, and lane j is mean + sqrt(variance) * z_j rounded once, with the normal draw z_j of R314 (R328). A moment trigger
whose checked operands hold a negative variance raises NEGVAR instead, with the lanes in D0 and the operand in D1, operand a
before operand b (R319). -/
def Obligations.MuBinary : Prop :=
  (∀ (i : Instr) (t : Tr) (late : Nat → Bool) (f : Nat → Nat → Nat → Nat → Nat → Nat × Nat) (s s' : State) (v : Val),
    muBothRow i = some (t, late, f) → Reads s t false true v s' → noNegVar v.toNat → noNegVar (s'.opPort .mu 1).toNat →
    let b := (s'.opPort .mu 1).toNat
    let lane := fun j => f ((s'.opPort .mu 3).toNat % 2 ^ 64) (meanOf v.toNat j) (varOf v.toNat j) (meanOf b j) (varOf b j)
    ∃ r : Flight, exec i s = .next (s'.pushFlight s'.cur s'.curCx r) ∧ r.unit = 10 ∧ r.byp = some 0 ∧ r.remain = 10
      ∧ r.lend = s'.lendNow ∧ (∀ j, j < 32 → elem 64 r.val.toNat j = ((lane j).1 + (lane j).2 * 2 ^ 32) % 2 ^ 64)
      ∧ (r.fault.isSome = true ↔ late ((s'.opPort .mu 3).toNat % 4) = true ∧ ¬ noNegVar r.val.toNat)
      ∧ (late ((s'.opPort .mu 3).toNat % 4) = false ∨ noNegVar r.val.toNat → exec i s = .next (s'.result .mu 0 10 r.val)))
  ∧ ((∀ (t : Tr) (s s' : State) (v : Val), Reads s t false true v s' → noNegVar v.toNat →
    ∃ x : Val, exec (.muMsamp t) s
        = .next ((s'.updMe fun c => { c with rqpos := c.rqpos + 3 }).result .mu 0 12 x)
      ∧ ∀ j, j < 32 → elem 32 x.toNat j
          = toF32 ((f32 (meanOf v.toNat j)).add ((crV .sqrt (readVar (varOf v.toNat j))).mul (drawZ s'.pop3.1 j))) % 2 ^ 32)
  ∧ ∀ (i : Instr) (t : Tr) (s s' : State) (v : Val) (which : Nat) (var : Nat → Nat),
    transportOf i = some (t, false) → Reads s t false true v s' →
    (muChecked s' v i).find? (fun c => (List.range 32).any fun j => negVar (c.2 j)) = some (which, var) →
    ∃ mask : Nat, exec i s = .next (s'.raise { cause := 7, d := [BitVec.ofNat 64 mask, BitVec.ofNat 64 which] }) ∧ mask < 2 ^ 32
      ∧ ∀ j, j < 32 → mask.testBit j = negVar (var j))

end

namespace Sys2Proof.Claims

open Sys2Proof.Machine

/-! ### Issue -/

/-- The state in which context `i` of core `k` begins to issue: the step's free value has moved on, the turn of contexts 1 and 2 has
passed (R128), and no bundle is at hand yet. -/
def atIssue (s : State) (k i : Nat) : State :=
  let s := { s with free := s.free + 1 }
  { (if i = 1 ∨ i = 2 then s.updCore k fun c => { c with alt := i == 1 } else s) with cur := k, curCx := i, bnd := {} }

/-- The state before the transports of a bundle act: a segment has opened or ended as its header asks (R200, R201). -/
def before (s : State) (k i : Nat) (ws : List Slot32) : State := (atIssue s k i).segBefore ws

/-- The step issues a bundle of words `ws`, not stepped by a repetition, and its transports may act: nothing is raised before it, none of
its slots has acted yet, no breakpoint matches, it decodes, it meets no rendezvous, and the random vectors that it draws are there. -/
def Issues (s : State) (k i : Nat) (ws : List Slot32) : Prop :=
  s.pick = some (.issue k i) ∧ (atIssue s k i).me.raiseNow = false ∧ (atIssue s k i).fetch = .words ws
  ∧ (atIssue s k i).me.skip = false ∧ (atIssue s k i).me.acted = none ∧ (atIssue s k i).me.repLeft = 0 ∧ (atIssue s k i).breakpoint ws = none
  ∧ (atIssue s k i).decodeTrap ws none = none ∧ allEmpty ws = false
  ∧ (i ≠ 0 ∨ ((before s k i ws).gangCores (before s k i ws).cur).length ≤ 1 ∨ (before s k i ws).me.rdvPass = true
      ∨ (match headerOf ws with | some h => hdrRdv h | none => false) = false)
  ∧ ((before s k i ws).popsBelow ws 4 = 0 ∨ (before s k i ws).me.rqPending = false)
  ∧ min ((before s k i ws).popsBelow ws 4) 4 ≤ (before s k i ws).me.rqbuf

/-- The state in which slot `n` of the bundle acts: the line of the bundle is filled, the bundle's words and slot are known, and the
random position is that of the slot's first draw (R139). -/
def ready (s : State) (k i : Nat) (ws : List Slot32) (n : Nat) : State :=
  let b := before s k i ws
  let x := { b.fillFetch with bnd := { words := ws, slot := n, vuk := vuBelow ws n, live := true,
                                       repSeq := decide (b.me.repLeft ≤ 1), start := some b.nextId } }
  x.updMe fun c => { c with rqpos := b.me.rqpos + BitVec.ofNat 64 (x.popsBelow ws n) }

/-- The state that a bundle's only slot leaves, `x`, with what it sent noted for the signature (R207) and the draws counted (R139). -/
def acted (s : State) (k i : Nat) (ws : List Slot32) (n : Nat) (x : State) : State :=
  let b := before s k i ws
  (x.noteSent (ready s k i ws n) n).updMe fun c =>
    { c with rqpos := b.me.rqpos + BitVec.ofNat 64 (b.popsBelow ws 4), rqbuf := c.rqbuf - b.popsBelow ws 4 }
/-- The bundle may commit: no other member of its group is stopped in a trap (R179), and its die has room for what it sends (R38). -/
def MayCommit (b x : State) : Prop := (b.curCx ≠ 0 ∨ b.groupStopped b.cur = false) ∧ b.overfull x = false

/-- What the package's own parts do without an event of the opcode table: moves on circuits (R28, R29), the arrival of a request that no
unit serves (R36, R60), lines that leave an L2 (R155), the host's next access in its order (R85), the end of a frame boundary (R13, R14). -/
def OwnMove (f : Happening) : Prop :=
  (∃ r i t g, f = fun s => .next (s.circSend r i t g)) ∨ (∃ t, f = fun s => .next (s.circInject t))
  ∨ (∃ t, f = badAttreq t) ∨ (∃ t, f = fun s => .next (s.enterPkg t id))
  ∨ (∃ d a, f = fun s => .next (s.evictLine d a))
  ∨ (∃ d a, f = fun s => .next (if a < 2 ^ 52 then s.writeBack d fun y => sameLine y.1 a else s.remoteBack d (s.remoteIn d a 128)))
  ∨ f = hostNext ∨ f = endBoundary

/-! ### Sequencer -/

/-- A target relative to the bundle, an absolute one, and the return point (R279, R281): PC with micro PC 0, or inside a macro the PC
that the macro returns from with the control-store index plus 1. -/
def relTo (c : Cx) (a : Word) : Nat × Nat :=
  if c.upc = 0 then ((c.pc + a.toNat) % 2 ^ 48, 0) else (c.pc, (c.upc - 1 + a.toNat) % 1024 + 1)
def absTo (c : Cx) (a : Word) : Nat × Nat := if c.upc = 0 then (a.toNat % 2 ^ 48, 0) else (c.pc, a.toNat % 1024 + 1)
def backTo (c : Cx) : Nat := if c.upc = 0 then (c.pc + 3) % 2 ^ 48 else (c.upc - 1 + 3) % 1024

/-- jmp, jmpr, call, callr and ret (R278): the target, and whether b0 takes the return point. -/
def transferRow : Instr → Option (Tr × (Cx → Word → Nat × Nat) × Bool)
  | .seqJmp t => some (t, relTo, false)
  | .seqJmpr t => some (t, absTo, false)
  | .seqCall t => some (t, relTo, true)
  | .seqCallr t => some (t, absTo, true)
  | .seqRet t => some (t, absTo, false)
  | _ => none

/-- A loop of the counters below `n` ends at the context's bundle. -/
def endsHere (c : Cx) (n : Nat) : Prop := (c.loop n).active = true ∧ (c.loop n).endPc = c.pc ∧ (c.loop n).endU = c.upc

/-! ### Loads and stores -/

/-- The loads of R355: queued or not, transport, bytes, alignment, sign extension. -/
def loadRow : Instr → Option (Bool × Tr × Nat × Nat × Bool)
  | .lsuLdb q t => some (q, t, 1, 1, false)
  | .lsuLdh q t => some (q, t, 2, 2, false)
  | .lsuLdw q t => some (q, t, 4, 4, false)
  | .lsuLdd q t => some (q, t, 8, 8, false)
  | .lsuLdbs q t => some (q, t, 1, 1, true)
  | .lsuLdhs q t => some (q, t, 2, 2, true)
  | .lsuLdws q t => some (q, t, 4, 4, true)
  | .lsuLdv q t => some (q, t, 128, 16, false)
  | _ => none
/-- The stores of R355 and R359: transport, bytes, alignment, and whether it writes through. -/
def storeRow : Instr → Option (Tr × Nat × Nat × Bool)
  | .lsuStb t => some (t, 1, 1, false)
  | .lsuSth t => some (t, 2, 2, false)
  | .lsuStw t => some (t, 4, 4, false)
  | .lsuStd t => some (t, 8, 8, false)
  | .lsuStv t => some (t, 128, 16, false)
  | .lsuStvn t => some (t, 128, 16, true)
  | _ => none

/-- `n` bytes at an address lie in the issuing core's own scratchpad window (R142). -/
def Own (s : State) (va n : Nat) : Prop := s.cur < 160 ∧ va + n ≤ 768 * 1024
/-- No acquire of the context is out (R168), and the core has no segment open (R200). -/
def Free (s : State) : Prop := s.acqPending = false ∧ SMap.find s.segs s.cur = none
/-- The value that a load gives from bytes read as a number: zero- or sign-extended to 64 bits, or a whole vector (R355). -/
def loaded (sign : Bool) (n raw : Nat) : Val :=
  natVal (if sign = true ∧ 2 ^ (8 * n - 1) ≤ raw then 2 ^ 64 - 2 ^ (8 * n) + raw else raw)
/-- The operands of a gather or scatter lane: active, and its address (R358). -/
def laneOn (s : State) (j : Nat) : Prop := j < 32 ∧ (s.opC .lsu).getLsbD j = true
def laneVa (s : State) (offs j : Nat) : Nat := (s.opB .lsu + BitVec.ofNat 64 (offs / 2 ^ (32 * j) % 2 ^ 32)).toNat
def LanesOwn (s : State) (offs : Nat) : Prop :=
  s.cur < 160 ∧ ∀ j, laneOn s j → laneVa s offs j % 4 = 0 ∧ laneVa s offs j + 4 ≤ 768 * 1024

/-- What a store into scratchpad `q` leaves: every register of every context and core, every other memory, every message and request,
the launches and L2 of every die. Late loads may lose their second read (R162), poison marks of whole units go (R211), monitors wake
(R376). -/
def SpFrame (s x : State) (q : Nat) : Prop :=
  (∀ k j, x.cx k j = { s.cx k j with flights := (x.cx k j).flights })
  ∧ (∀ k, { x.core k with cx0 := (s.core k).cx0, cx1 := (s.core k).cx1, cx2 := (s.core k).cx2, cx3 := (s.core k).cx3,
                          sp := (s.core k).sp, spPoison := (s.core k).spPoison } = s.core k)
  ∧ (∀ k, k ≠ q → (x.core k).sp = (s.core k).sp)
  ∧ { x with cores := s.cores, dies := s.dies } = s
  ∧ ∀ d, { x.die d with monitors := (s.die d).monitors } = s.die d

end Sys2Proof.Claims

section

open Sys2Proof Sys2Proof.Machine Sys2Proof.Claims

/-! ### Steps -/

/-- A step that issues a bundle with one acting slot runs exec of the instruction that the slot decodes to, in the state `ready`, and exec
goes on: the bundle commits, which with no segment open and no signature to take is the end of its cycle; a trap is taken from the state
before the bundle; a wait pauses the context there, or where it is over by now the slot is tried again. -/
def Obligations.StepRunsDecodedSlot : Prop :=
  ∀ (s : State) (k i n : Nat) (ws : List Slot32) (ins : Instr),
    Issues s k i ws → slotOrder ws = [n] → decodeSlot (slotAt ws n) = .ok ins →
    let b := before s k i ws
    (∀ x, exec ins (ready s k i ws n) = .next x → x.bnd.trap = none → x.bnd.pause = .none →
      x.bnd.waits.all (·.1) = true → b.me.raise = [] →
      step s = .next (b.commitBundle (acted s k i ws n x) ws)
      ∧ (MayCommit b (acted s k i ws n x) → SMap.find x.segs b.cur = none → (x.part (x.ptagOf x.cur)).prot = false →
          step s = .next (acted s k i ws n x).finishBundle))
    ∧ (∀ x t, exec ins (ready s k i ws n) = .next x → x.bnd.trap = some t → step s = .next (b.trapNow t))
    ∧ (∀ x, exec ins (ready s k i ws n) = .next x → x.bnd.trap = none → x.bnd.pause ≠ .none →
      (b.stillWaits b.cur b.curCx x.bnd.pause = true → step s = .next (b.pauseCx x.bnd.pause))
      ∧ (b.stillWaits b.cur b.curCx x.bnd.pause = false → b.me.raise = [] → ∃ y, step s = .next y))
    ∧ ∃ x, exec ins (ready s k i ws n) = .next x

/-- Every other step is exec of one event: of one from outside, unless it queues on the wire behind others of its triple (R40), for a circuit
(R30) or for the routers that may pair it (R45), or unless the package is tripped, when only the sideband controller acts (R17, R94); or
of one that the package's own parts bring about, or one of their moves that are no event of the table. With nothing to do the state stays. -/
def Obligations.StepRunsEvents : Prop :=
  (∀ s : State, s.pick = none → step s = .next s)
  ∧ (∀ (s : State) (i : Instr), s.pick = some (.input i) →
      let s0 := { s with free := s.free + 1, inbox := s.inbox.tail }
      (s.pkg.trip = true → ofSmc i = false → step s = .next s0)
      ∧ (s.pkg.trip = false ∨ ofSmc i = true → arrivalOf i = none → step s = exec i s0))
  ∧ (∀ (s : State) (i : Instr) (t : Txn), s.pick = some (.input i) → s.pkg.trip = false → arrivalOf i = some t →
      let s0 := { s with free := s.free + 1, inbox := s.inbox.tail }
      let queues := s0.stays s0.wire t = true ∨ s0.onCircuit t = true ∨ t.ty = tyPush ∨ t.ty = tyPop
      (¬ queues → step s = exec i s0) ∧ (queues → step s = .next { s0 with wire := s0.wire ++ [(0, t)] }))
  ∧ ∀ (s : State) (f : Happening), s.pick = some (.event f) →
      step s = f { s with free := s.free + 1 } ∧ ((∃ i : Instr, f = exec i) ∨ OwnMove f)

/-! ### The sequencer -/

/-- The next bundle (R280, R282, R286): PC + 1 where nothing else applies; a transfer's target after two delay bundles, with the loops
untouched; the start of the innermost active loop that ends here while its counter is not 0, with the counter lowered; the same
bundle while a repeat has more than one repetition left. -/
def Obligations.NextBundle : Prop :=
  (∀ c : Cx, c.repLeft ≤ 1 → c.pend = none → (∀ n, n < 4 → ¬ endsHere c n) →
    ((c.sequence {}).pc, (c.sequence {}).upc) = c.after ∧ (c.sequence {}).loops = c.loops ∧ (c.sequence {}).lc = c.lc)
  ∧ (∀ (c : Cx) (t : Nat × Nat), c.repLeft ≤ 1 →
    let c1 := c.sequence { xfer := some t }
    let c2 := c1.sequence {}
    let c3 := c2.sequence {}
    (c1.pc, c1.upc) = c.after ∧ (c2.pc, c2.upc) = c1.after ∧ (c3.pc, c3.upc) = t ∧ c3.pend = none ∧ c3.loops = c.loops ∧ c3.lc = c.lc)
  ∧ (∀ (c : Cx) (n : Nat), c.repLeft ≤ 1 → c.pend = none → n < 4 → endsHere c n → (∀ m, m < n → ¬ endsHere c m) →
    (c.getLc (finOf 4 n) ≠ 0 →
      (c.sequence {}).pc = (c.loop n).startPc ∧ (c.sequence {}).upc = (c.loop n).startU
      ∧ ∀ m : Fin 4, (c.sequence {}).getLc m = if m.val = n then c.getLc m - 1 else c.getLc m)
    ∧ (c.getLc (finOf 4 n) = 0 → ((c.sequence {}).loop n).active = false))
  ∧ ∀ c : Cx, 1 < c.repLeft →
    (c.sequence {}).pc = c.pc ∧ (c.sequence {}).upc = c.upc ∧ (c.sequence {}).repLeft = c.repLeft - 1
    ∧ (c.sequence {}).repDone = c.repDone + 1

/-- jmp, jmpr, call, callr and ret complete with the transfer of R279 noted for the bundle's end, and call and callr with the
return point in flight for b0; mcall, where no csw of the core is pending, and mret complete with the transfers of R136. loop,
loopx and rep complete, and the bundle's end starts the loop, with count 0 leaves its body out, ends the lowest active loop, or
repeats the next bundle (R283, R285, R286, R288). -/
def Obligations.SeqTransfersAndLoops : Prop :=
  ((∀ (i : Instr) (t : Tr) (tg : Cx → Word → Nat × Nat) (call : Bool) (s s' : State) (v : Val),
    transferRow i = some (t, tg, call) → Reads s t true false v s' →
    let x := { s' with bnd := { s'.bnd with xfer := some (tg s'.me (valWord v)) } }
    exec i s = .next (if call then x.result .seq 0 1 (natVal (backTo s'.me)) else x))
  ∧ ∀ (t : Tr) (s s' : State) (v : Val), Reads s t true false v s' →
    ((s'.myCore.cx0.sysq.all fun e => e.op != 0x15) = true →
      exec (.seqMcall t) s = .next { s' with bnd := { s'.bnd with xfer := some (s'.me.pc, (valWord v).toNat % 1024 + 1) } })
    ∧ exec (.seqMret t) s = .next { s' with bnd := { s'.bnd with xfer := some ((s'.me.pc + 3) % 2 ^ 48, 0), mret := true } }
    ∧ ∀ (c : Cx) (b : Bnd) (n : Nat), b.mret = true → b.loopW = [] → ((c.sequence b).loop n).active = true →
        ((c.sequence b).loop n).startU = 0)
  ∧ (∀ (t : Tr) (s s' : State) (v : Val), Reads s t true false v s' →
    let n := (s'.opB .seq).toNat % 4
    let len := (s'.opC .seq).toNat % 4096 + 1
    let count := (valWord v).toNat % 2 ^ 32
    (∃ b : Bnd, exec (.seqLoop t) s = .next { s' with bnd := b } ∧ b.xfer = s'.bnd.xfer ∧ b.writes = s'.bnd.writes
      ∧ (0 < count → s'.me.upc = 0 →
          b.loopW = [(n, ⟨(s'.me.pc + 1) % 2 ^ 48, 0, (s'.me.pc + len) % 2 ^ 48, 0, true⟩, BitVec.ofNat 32 (count - 1))]
          ∧ b.loopSkip = s'.bnd.loopSkip)
      ∧ (0 < count → s'.me.upc ≠ 0 →
          b.loopW = [(n, ⟨s'.me.pc, s'.me.upc + 1, s'.me.pc, s'.me.upc + len, true⟩, BitVec.ofNat 32 (count - 1))]
          ∧ b.loopSkip = s'.bnd.loopSkip)
      ∧ (count = 0 → b.loopW = [(n, { s'.me.loop n with active := false }, 0)]
          ∧ b.loopSkip = some (if s'.me.upc = 0 then ((s'.me.pc + len + 1) % 2 ^ 48, 0) else (s'.me.pc, s'.me.upc + len + 1))))
    ∧ exec (.seqLoopx t) s = .next { s' with bnd := { s'.bnd with loopx := true } }
    ∧ (s'.me.repLeft = 0 → exec (.seqRep t) s = .next { s' with bnd := { s'.bnd with rep := some count } })
    ∧ (0 < s'.me.repLeft → exec (.seqRep t) s = .next s')
    ∧ (∀ (c : Cx) (b : Bnd) (j : Fin 4) (l : Loop) (x : BitVec 32), b.loopW = [(j.val, l, x)] →
        (c.sequence b).loop j.val = l ∧ (c.sequence b).getLc j = x)
    ∧ (∀ (c : Cx) (j : Nat), j < 4 → (c.loop j).active = true → (∀ m, m < j → (c.loop m).active = false) →
        ((c.sequence { loopx := true }).loop j).active = false)
    ∧ ∀ (c : Cx) (m : Nat), c.repLeft ≤ 1 → 0 < m → (c.sequence { rep := some m }).repLeft = m ∧ (c.sequence { rep := some m }).repDone = 0)

/-- susp, rdv, brk, waitg and waitng complete: susp sets the suspend request of a context 0 (R289), rdv gives the agreed VCC where its group
has met (R290), brk takes BRK unless its issue follows the RETRY of one (R291), the waits note their test, limit and QTIMEOUT (R292). -/
def Obligations.SeqContextTriggers : Prop :=
  ∀ (t : Tr) (s s' : State) (v : Val), Reads s t true false v s' →
    (s'.curCx = 0 → s'.cur < 160 → exec (.seqSusp t) s = .next (s'.updMe fun c => { c with suspReq := true }))
    ∧ (s'.curCx ≠ 0 ∨ 160 ≤ s'.cur → exec (.seqSusp t) s = .next s')
    ∧ (s'.curCx ≠ 0 ∨ (s'.gangCores s'.cur).length ≤ 1 ∨ s'.me.rdvPass = true →
        exec (.seqRdv t) s = .next (s'.result .seq 0 1 (natVal s'.me.vcc)))
    ∧ (s'.me.noBrk = false → exec (.seqBrk t) s
        = .next (s'.raise { cause := 0x0D, slot := s'.bnd.slot, d := [4, BitVec.ofNat 64 (2 ^ s'.bnd.slot), valWord v] }))
    ∧ (s'.me.noBrk = true → exec (.seqBrk t) s = .next s')
    ∧ let g := s'.me.getG (finOf 8 ((s'.opC .seq).toNat % 8))
      let idx := (s'.opC .seq).toNat % 8
      let l := (valWord v).toNat % 2 ^ 32
      exec (.seqWaitg t) s = .next { s' with bnd := { s'.bnd with waits := s'.bnd.waits
        ++ [(g, l, { cause := 9, slot := s'.bnd.slot, d := [BitVec.ofNat 64 (0x100 + idx), 0, 0, BitVec.ofNat 64 l] })] } }
      ∧ exec (.seqWaitng t) s = .next { s' with bnd := { s'.bnd with waits := s'.bnd.waits
        ++ [(!g, l, { cause := 9, slot := s'.bnd.slot, d := [BitVec.ofNat 64 (0x108 + idx), 0, 0, BitVec.ofNat 64 l] })] } }

/-! ### The load and store unit -/

/-- A load from the issuing core's own scratchpad completes: b(BI) receives the little-endian bytes, extended as its row says, at
latency 4, and nothing else changes (R153, R162, R355, R356). A queued load and an acquire load from the own scratchpad complete
with their result delivered for a join (R125, R153); an acquire of cluster scope or wider empties the first-level caches of its
core, one of package scope or wider the clean lines of the L2 (R154, R168). A queued load from HBM sends one LOAD to the die's L2,
or to the home of an uncached page (R155). -/
def Obligations.Loads : Prop :=
  (∀ (i : Instr) (t : Tr) (n al : Nat) (sg : Bool) (s s' : State) (v : Val),
    loadRow i = some (false, t, n, al, sg) → Reads s t false false v s' →
    let va := (valWord v).toNat
    let q := s'.logical s'.cur
    Own s' va n → va % al = 0 → Free s' → s'.writePending (spKey q va) n = false →
    poisoned (s'.core q).spPoison va n = false →
    ∃ r : Flight, exec i s = .next ({ s' with nextId := s'.nextId + 1 }.pushFlight s'.cur s'.curCx r)
      ∧ r.unit = 8 ∧ r.byp = some ((s'.opE .lsu).toNat % 4) ∧ r.remain = 4 ∧ r.late = false ∧ r.fault = none ∧ r.lend = s'.lendNow
      ∧ r.val = loaded sg n (leNat (s'.spRead q va n)))
  ∧ ((∀ (i : Instr) (t : Tr) (n al : Nat) (sg : Bool) (s s' : State) (v : Val),
    loadRow i = some (true, t, n, al, sg) → Reads s t false false v s' →
    let va := (valWord v).toNat
    let q := s'.logical s'.cur
    Own s' va n → va % al = 0 → Free s' → poisoned (s'.core q).spPoison va n = false →
    exec i s = .next ({ s' with nextId := s'.nextId + 1 }.expectOf ((s'.opE .lsu).toNat % 4)
      { id := s'.nextId, done := true, val := loaded sg n (leNat (s'.spRead q va n)), lend := s'.lendNow }))
  ∧ (∀ (sc : Scope) (t : Tr) (s s' : State) (v : Val), Reads s t false false v s' →
    let va := (valWord v).toNat
    let q := s'.logical s'.cur
    Own s' va 8 → va % 8 = 0 → Free s' → poisoned (s'.core q).spPoison va 8 = false →
    let y := { s' with nextId := s'.nextId + 1 }.expectOf ((s'.opE .lsu).toNat % 4)
      { id := s'.nextId, done := true, val := loaded false 8 (leNat (s'.spRead q va 8)), lend := s'.lendNow }
    exec (.lsuLdacq sc t) s = .next (y.acquired s'.cur sc.code)
    ∧ ((y.acquired s'.cur sc.code).core s'.cur).l1 = (if 1 ≤ sc.code then {} else (s'.core s'.cur).l1)
    ∧ ((y.acquired s'.cur sc.code).core s'.cur).icache = (if 1 ≤ sc.code then {} else (s'.core s'.cur).icache)
    ∧ ((y.acquired s'.cur sc.code).die (dieOf s'.cur)).clean = (if 3 ≤ sc.code then {} else (s'.die (dieOf s'.cur)).clean))
  ∧ ∀ (i : Instr) (t : Tr) (n al pa m : Nat) (sg : Bool) (s s' : State) (v : Val),
    loadRow i = some (true, t, n, al, sg) → Reads s t false false v s' → Free s' →
    s'.reach (valWord v).toNat n al accLoad = .ok [(.hbm pa m, n)] →
    ∃ (x : State) (w : Txn), exec i s = .next x ∧ x.wire = s'.wire ++ [(0, w)] ∧ w.ty = tyLoad ∧ w.addr = pa ∧ 2 ^ w.subop = n
      ∧ w.dst = (if m = 0 then s'.l2Ep (dieOf s'.cur) else llcEp s'.pkg.pkgId pa) ∧ w.src = s'.epOf s'.cur
      ∧ w.ptag = s'.ptagOf s'.cur ∧ w.stream = (s'.opE .lsu).toNat / 4 % 16 ∧ Txn.crcOk w = true
      ∧ (x.joinsAt s'.cur s'.curCx 8 ((s'.opE .lsu).toNat % 4)).getLast?.map (·.done) = some false
      ∧ x.hbm = s'.hbm ∧ ∀ k, (x.core k).sp = (s'.core k).sp)

/-- A store to the own scratchpad completes, and exactly the bytes at operand b change (R152, R355). A store to an HBM page
completes with a STORE of its bytes on the wire, to the die's L2, or written through to the home (R155, R156, R359): no memory
changes until it arrives. -/
def Obligations.Stores : Prop :=
  (∀ (i : Instr) (t : Tr) (n al : Nat) (nt : Bool) (s s' : State) (v : Val),
    storeRow i = some (t, n, al, nt) → Reads s t false false v s' →
    let va := (s'.opB .lsu).toNat
    let q := s'.logical s'.cur
    Own s' va n → va % al = 0 → Free s' →
    ∃ x, exec i s = .next x ∧ SpFrame s' x q
      ∧ ∀ a, SMap.get 0 (x.core q).sp a
          = if va ≤ a ∧ a < va + n then BitVec.ofNat 8 (v.toNat / 256 ^ (a - va)) else SMap.get 0 (s'.core q).sp a)
  ∧ (∀ (i : Instr) (t : Tr) (n al pa m : Nat) (nt : Bool) (s s' : State) (v : Val),
    storeRow i = some (t, n, al, nt) → Reads s t false false v s' → Free s' →
    s'.reach (s'.opB .lsu).toNat n al accStore = .ok [(.hbm pa m, n)] →
    ∃ (x : State) (w : Txn), exec i s = .next x ∧ x.wire = s'.wire ++ [(0, w)] ∧ w.ty = tyStore ∧ w.addr = pa
      ∧ w.payload = leBytes n v.toNat ∧ w.dst = (if m = 0 ∧ nt = false then s'.l2Ep (dieOf s'.cur) else llcEp s'.pkg.pkgId pa)
      ∧ w.subop = (if nt then 1 else 0) ∧ w.src = s'.epOf s'.cur ∧ w.ptag = s'.ptagOf s'.cur ∧ Txn.crcOk w = true
      ∧ x.hbm = s'.hbm ∧ (∀ k, (x.core k).sp = (s'.core k).sp) ∧ ∀ d, (x.die d).l2 = (s'.die d).l2)

/-- gath and scat over the own scratchpad complete (R358): gath delivers the word of each active lane and 0 for the others; scat stores the
words of the active lanes, the highest of the lanes that name a word leaving its value. -/
def Obligations.GatherScatter : Prop :=
  (∀ (bp : Bool) (t : Tr) (s s' : State) (v : Val), Reads s t false false v s' → Free s' → LanesOwn s' v.toNat →
    let q := s'.logical s'.cur
    (∀ j, laneOn s' j → poisoned (s'.core q).spPoison (laneVa s' v.toNat j) 4 = false) →
    ∃ x : Val, exec (.lsuGath bp t) s = .next ({ s' with nextId := s'.nextId + 1 }.expectOf ((s'.opE .lsu).toNat % 4)
        { id := s'.nextId, done := true, val := x, lend := s'.lendNow })
      ∧ x.toNat < 2 ^ 1024
      ∧ (∀ j, laneOn s' j → elem 32 x.toNat j = leNat (s'.spRead q (laneVa s' v.toNat j) 4))
      ∧ ∀ j, j < 32 → ¬ laneOn s' j → elem 32 x.toNat j = 0)
  ∧ ∀ (t : Tr) (s s' : State) (v : Val), Reads s t false false v s' → Free s' →
    let offs := (s'.opPort .lsu 2).toNat
    let q := s'.logical s'.cur
    LanesOwn s' offs →
    ∃ x, exec (.lsuScat t) s = .next x ∧ SpFrame s' x q
      ∧ (∀ a j, laneOn s' j → laneVa s' offs j ≤ a → a < laneVa s' offs j + 4 →
          (∀ j', laneOn s' j' → j < j' → ¬ (laneVa s' offs j' ≤ a ∧ a < laneVa s' offs j' + 4)) →
          SMap.get 0 (x.core q).sp a = BitVec.ofNat 8 (v.toNat / 2 ^ (32 * j) / 256 ^ (a - laneVa s' offs j)))
      ∧ ∀ a, (∀ j, laneOn s' j → ¬ (laneVa s' offs j ≤ a ∧ a < laneVa s' offs j + 4)) →
          SMap.get 0 (x.core q).sp a = SMap.get 0 (s'.core q).sp a

/-- drain, strel and pref complete: a drain whose accesses have performed, or with no stream in its mask, only writes dirty lines
back from package scope on and leaves no clean line that was filled before (R167, R170); a release whose earlier accesses have
performed stores its eight bytes (R168); pref fills the line of a cached page of HBM, asks the home for one of a REMOTE page that
the caches do not hold, and raises nothing (R359). While covered accesses are out the drain waits, and it reports a refused one as
FENCE (R181). An address that its alignment does not divide raises ALIGN with the address and the size; one that no page maps
waits for the walk, and raises its fault; of an access to two pages the XLATE of the second comes before the PERM of the first
(R133, R145, R180, R181). -/
def Obligations.LsuOrderingAndTraps : Prop :=
  ((∀ (sc : Scope) (t : Tr) (s s' : State) (v : Val), Reads s t false false v s' →
    let mask := (s'.opB .lsu).toNat % 65536
    (mask = 0 → exec (.lsuDrain sc t) s = .next s')
    ∧ (mask ≠ 0 → s'.unsettled s'.cur s'.curCx sc.code mask = false → s'.me.fenced.all (fun f => !bitOf mask f.stream) = true →
        exec (.lsuDrain sc t) s
          = .next (if 3 ≤ sc.code then (s'.writeBack (dieOf s'.cur) fun x => x.2.ptag == s'.ptagOf s'.cur).evictAll (dieOf s'.cur)
              else s'))
    ∧ (mask ≠ 0 → s'.unsettled s'.cur s'.curCx sc.code mask = true → exec (.lsuDrain sc t) s = .next (s'.wait (.drain sc.code mask)))
    ∧ ∀ f rest, mask ≠ 0 → s'.unsettled s'.cur s'.curCx sc.code mask = false →
        (s'.me.fenced.filter fun f => bitOf mask f.stream) = f :: rest →
        exec (.lsuDrain sc t) s = .next (s'.raise { cause := 0x10, clear := mask, d := [BitVec.ofNat 64 (rest.length + 1),
          BitVec.ofNat 64 f.status, BitVec.ofNat 64 f.addr, BitVec.ofNat 64 f.stream] }))
  ∧ (∀ (sc : Scope) (t : Tr) (s s' : State) (v : Val), Reads s t false false v s' →
    let va := (s'.opB .lsu).toNat
    let q := s'.logical s'.cur
    Own s' va 8 → va % 8 = 0 → Free s' → s'.unsettled s'.cur s'.curCx sc.code 0xFFFF = false →
    s'.me.fenced.all (fun f => !bitOf 0xFFFF f.stream) = true →
    let y := if 3 ≤ sc.code then s'.writeBack (dieOf s'.cur) fun x => x.2.ptag == s'.ptagOf s'.cur else s'
    ∃ x, exec (.lsuStrel sc t) s = .next x ∧ SpFrame y x q
      ∧ ∀ a, SMap.get 0 (x.core q).sp a
          = if va ≤ a ∧ a < va + 8 then BitVec.ofNat 8 (v.toNat / 256 ^ (a - va)) else SMap.get 0 (s'.core q).sp a)
  ∧ ∀ (t : Tr) (s s' : State) (v : Val), Reads s t false false v s' →
    exec (.lsuPref t) s = .next (match s'.translateNow s'.cur (s'.ptagOf s'.cur) (valWord v).toNat accLoad with
      | .ok (.hbm pa 0) _ _ => if s'.ownerOk (s'.ptagOf s'.cur) pa then s'.fillL1 [(.hbm pa 0, 1)] else s'
      | .ok (.remote pkg pa 0) _ _ => if s'.heldHere (remoteKey pkg (pa / 128 * 128)) 128 then s' else s'.prefRemote pkg pa
      | _ => s'))
  ∧ ((∀ (i : Instr) (q : Bool) (t : Tr) (n al : Nat) (sg : Bool) (s s' : State) (v : Val),
    loadRow i = some (q, t, n, al, sg) → Reads s t false false v s' → s'.acqPending = false →
    let va := (valWord v).toNat
    (va % al ≠ 0 → exec i s = .next (s'.raise { cause := 6, d := [BitVec.ofNat 64 va, BitVec.ofNat 64 n] }))
    ∧ (va % al = 0 → s'.translateMe va accLoad = .miss → exec i s = .next (s'.wait (.xlate va accLoad s'.bnd.slot)))
    ∧ ∀ d1, va % al = 0 → va % 65536 + n ≤ 65536 → s'.translateMe va accLoad = .fault 4 d1 →
        exec i s = .next (s'.raise { cause := 4, d := [BitVec.ofNat 64 va, BitVec.ofNat 64 d1, 0] }))
  ∧ ∀ (i : Instr) (t : Tr) (n al : Nat) (nt : Bool) (s s' : State) (v : Val),
    storeRow i = some (t, n, al, nt) → Reads s t false false v s' → s'.acqPending = false →
    let va := (s'.opB .lsu).toNat
    let next := va + (65536 - va % 65536)
    (va % al ≠ 0 → exec i s = .next (s'.raise { cause := 6, d := [BitVec.ofNat 64 va, BitVec.ofNat 64 n] }))
    ∧ (∀ d1, va % al = 0 → va % 65536 + n ≤ 65536 → s'.translateMe va accStore = .fault 5 d1 →
        exec i s = .next (s'.raise { cause := 5, d := [BitVec.ofNat 64 va, BitVec.ofNat 64 d1] }))
    ∧ (∀ d1, va % al = 0 → va % 65536 + n ≤ 65536 → s'.translateMe va accStore = .fault 4 d1 →
        exec i s = .next (s'.raise { cause := 4, d := [BitVec.ofNat 64 va, BitVec.ofNat 64 d1, 1] }))
    ∧ ∀ d1 d2, va % al = 0 → 65536 < va % 65536 + n → s'.translateMe va accStore = .fault 5 d1 →
        s'.translateMe next accStore = .fault 4 d2 →
        exec i s = .next (s'.raise { cause := 4, d := [BitVec.ofNat 64 next, BitVec.ofNat 64 d2, 1] }))

end

namespace Sys2Proof.Claims

open Sys2Proof.Machine

/-! ### Engine queues -/

/-- The triggers of the matrix engine that enter the MX queue with their operands alone (R331, R336 to R342), by operation code. -/
def mxRow : Instr → Option (Tr × Nat)
  | .mxMma t => some (t, 0x04)
  | .mxMmar t => some (t, 0x06)
  | .mxMmaic t => some (t, 0x07)
  | .mxMmam t => some (t, 0x08)
  | .mxTrans t => some (t, 0x0A)
  | .mxPerm t => some (t, 0x0B)
  | .mxRowsum t => some (t, 0x0C)
  | .mxZero t => some (t, 0x0D)
  | .mxV2am t => some (t, 0x0F)
  | .mxEadd t => some (t, 0x10)
  | .mxMskld t => some (t, 0x11)
  | .mxDesc t => some (t, 0x12)
  | .mxScl t => some (t, 0x15)
  | _ => none
/-- The triggers of the attention interface that enter its queue (R346). -/
def attRow : Instr → Option (Tr × Nat)
  | .attQmc t => some (t, 4)
  | .attPart t => some (t, 5)
  | .attMerge t => some (t, 6)
  | .attFinal t => some (t, 7)
  | .attApp t => some (t, 8)
  | .attPmtrd t => some (t, 9)
  | .attPmtset t => some (t, 0x0A)
  | .attRing t => some (t, 0x0B)
  | _ => none
/-- The triggers of the copy engine that enter its queue (R361, R363); ckst alone delivers b0. -/
def copyRow : Instr → Option (Tr × Nat)
  | .ceCpy t => some (t, 4)
  | .ceCkst t => some (t, 8)
  | .ceCkrst t => some (t, 0x0A)
  | .ceCpy2d t => some (t, 0x0B)
  | _ => none

/-- The queue entry of a trigger: operation code, the operands a = the trigger's value, b = o1, c = o0, d = o2, e = o3 as they are at issue
(R331). -/
def entryOf (s : State) (u : FUnit) (op : Nat) (v : Val) : QEntry :=
  { id := s.nextId, op := op, a := v, b := s.opPort u 1, c := s.opPort u 0, d := s.opPort u 2, e := s.opPort u 3, ctx := s.curCx }
/-- A core with its next identifier given out. -/
def counted (s : State) : State := { s with nextId := s.nextId + 1 }

/-- The MX and gather queues of the acting core are empty, and no acquire is out. -/
def QueuesIdle (s : State) : Prop := s.acqPending = false ∧ s.myCore.mxq = [] ∧ s.myCore.gq = []

/-- The head of the MX queue of core `k` can perform: nothing is in its gather queue, it holds no fault, no segment holds it back, and
nothing that it has asked for is out. -/
def MxHead (s : State) (k : Nat) (e : QEntry) (rest : List QEntry) : Prop :=
  (s.core k).mxq = e :: rest ∧ (s.core k).gq = [] ∧ e.fault = none ∧ s.heldBySeg k e.id = false ∧ s.entryBusy e.id = false

/-- What performing an entry that touches accumulators alone leaves: every context, other core, memory and message; the MX queue has lost
its head. -/
def AccFrame (s x : State) (k : Nat) (rest : List QEntry) : Prop :=
  { x with cores := s.cores } = s ∧ (∀ q, q ≠ k → x.core q = s.core q)
  ∧ { x.core k with acc := (s.core k).acc, accPoison := (s.core k).accPoison, rbuf := (s.core k).rbuf, mxq := (s.core k).mxq } = s.core k
  ∧ (x.core k).mxq = rest

/-! ### Circular buffers -/

/-- A cb trigger names its pipe: its source is a cb register whose handle names a pipe of the group, in the role (consumer or producer)
that its bit 12 gives (R364, R365). -/
def Names (s : State) (t : Tr) (v : Val) (h : Nat) (p : Pipe) : Prop :=
  (∃ c, t.src = .small (.cb c)) ∧ h = v.toNat % 2 ^ 32 ∧ s.pipeOf h = some p
/-- Filled slots of a pipe (R364). -/
def filledOf (p : Pipe) : Nat := (p.tail - p.head).toNat
def cbN (s : State) : Nat := if (s.opC .cb).toNat % 512 = 0 then 1 else (s.opC .cb).toNat % 512

end Sys2Proof.Claims

section

open Sys2Proof Sys2Proof.Machine Sys2Proof.Claims

/-! ### The matrix engine -/

/-- A trigger of the matrix engine completes by joining the MX queue with its operands as they are at issue, where the queue has
room; mmag joins the gather queue too, mmaft takes its formats from the table, gidx joins the gather queue alone. With a queue
that it joins full the VCC pauses, and a bad format-table entry raises ILLB (R133, R255, R331, R336, R341). am2v, join and resume
complete: with both queues empty am2v gives a row of a slot, and join the number of scales held, or DESYNC where SCHK asks for
none; while an entry is queued, and no head holds a fault, both wait for the queues; resume clears the fault at the head of either
queue (R337, R340, R341). -/
def Obligations.MxTriggers : Prop :=
  ((∀ (i : Instr) (t : Tr) (op : Nat) (s s' : State) (v : Val), mxRow i = some (t, op) → Reads s t false false v s' → Free s' →
    (s'.myCore.mxq.length < 32 →
      exec i s = .next ((counted s').updMyCore fun c => { c with mxq := c.mxq ++ [entryOf s' .mx op v] }))
    ∧ (32 ≤ s'.myCore.mxq.length → exec i s = .next (s'.wait (.full 11))))
  ∧ ∀ (t : Tr) (s s' : State) (v : Val), Reads s t false false v s' → Free s' → s'.bnd.pause = .none →
    (s'.myCore.mxq.length < 32 → s'.myCore.gq.length < 8 →
      exec (.mxMmag t) s = .next ((counted s').updMyCore fun c =>
        { c with mxq := c.mxq ++ [entryOf s' .mx 5 v], gq := c.gq ++ [entryOf s' .mx 5 v] }))
    ∧ (8 ≤ s'.myCore.gq.length → exec (.mxMmag t) s = .next (s'.wait (.full 17)) ∧ exec (.mxGidx t) s = .next (s'.wait (.full 17)))
    ∧ (32 ≤ s'.myCore.mxq.length → s'.myCore.gq.length < 8 → exec (.mxMmag t) s = .next (s'.wait (.full 11)))
    ∧ (s'.myCore.gq.length < 8 →
      exec (.mxGidx t) s = .next ((counted s').updMyCore fun c => { c with gq := c.gq ++ [entryOf s' .mx 0x16 v] }))
    ∧ let w := (s'.myCore.getFt (finOf 16 (if bitOf v.toNat 29 then v.toNat / 2 ^ 25 % 16 else (s'.me.getLc 0).toNat % 16))).toNat
      let bad := 8 ≤ w % 16 ∨ 8 ≤ w / 16 % 16 ∨ 2 ^ 12 ≤ w
      (¬ bad → s'.myCore.mxq.length < 32 →
        exec (.mxMmaft t) s = .next ((counted s').updMyCore fun c =>
          { c with mxq := c.mxq ++ [{ entryOf s' .mx 9 v with e := natVal w }] }))
      ∧ (¬ bad → 32 ≤ s'.myCore.mxq.length → exec (.mxMmaft t) s = .next (s'.wait (.full 11)))
      ∧ (bad → exec (.mxMmaft t) s = .next (s'.raise { cause := 2, d := [15, 0, 0] })))
  ∧ (∀ (t : Tr) (s s' : State) (v : Val), Reads s t false false v s' →
    (QueuesIdle s' → s'.myCore.accPoison.any (fun e => e / 32 == 32 * (v.toNat % 128) + v.toNat / 2 ^ 8 % 32) = false →
      ∃ x : Nat, exec (.mxAm2v t) s = .next (s'.result .mx 0 1 (natVal x)) ∧ x < 2 ^ 1024
        ∧ ∀ j, j < 32 → elem 32 x j = (s'.myCore.getAcc (v.toNat % 128) (32 * (v.toNat / 2 ^ 8 % 32) + j)).toNat)
    ∧ (QueuesIdle s' → (v.getLsbD 0 = false ∨ s'.myCore.fifo = []) →
      exec (.mxJoin t) s = .next (s'.result .mx 0 1 (natVal s'.myCore.fifo.length)))
    ∧ (QueuesIdle s' → v.getLsbD 0 = true → s'.myCore.fifo ≠ [] →
      ∃ w, exec (.mxJoin t) s = .next (s'.raise { cause := 8, d := [0, BitVec.ofNat 64 s'.myCore.fifo.length, w] }))
    ∧ (s'.acqPending = false → (s'.myCore.mxq ≠ [] ∨ s'.myCore.gq ≠ []) → s'.myCore.headFault 11 = none →
      exec (.mxAm2v t) s = .next (s'.wait (.fence 3)) ∧ exec (.mxJoin t) s = .next (s'.wait (.fence 3)))
    ∧ exec (.mxResume t) s = .next (s'.updMyCore fun c => { c with
        mxq := (match c.mxq with | e :: r => { e with fault := none } :: r | [] => []),
        gq := (match c.gq with | e :: r => { e with fault := none } :: r | [] => []) }))

/-- MX_ENTRY_PERFORM completes on the accumulators and on nothing else (R250, R251, R335, R341, R342). A group of an unscaled product adds to
each element of C the exact sum of its products, rounded once, or in integers modulo 2^32, and the entry leaves the queue after its last
group; trans, perm and rowsum leave their exact sums rounded once; a zero leaves +0 in every element of its slot, and of its pair where
a[7] is set; a v2am leaves the 32 words of its vector in a row of a slot; every other element stays. -/
def Obligations.MxEntriesPerform : Prop :=
  (∀ (s : State) (k : Nat) (e : QEntry) (rest : List QEntry), MxHead s k e rest →
    let src := e.b.toNat % 128
    let one1 := fun (f : Nat → Nat → Nat → XR) => ∃ x, exec (.mxEntryPerform k) s = .next x ∧ AccFrame s x k rest
      ∧ ∀ sl n, n < 1024 → (x.core k).getAcc sl n
          = if sl = e.a.toNat % 128 then BitVec.ofNat 32 (toF32 (exactSum ((List.range 32).map fun y => f (n / 32) (n % 32) y)))
            else (s.core k).getAcc sl n
    (e.op = 0x0D → ∃ x, exec (.mxEntryPerform k) s = .next x ∧ AccFrame s x k rest
      ∧ ∀ sl n, n < 1024 → (x.core k).getAcc sl n
          = if sl = e.a.toNat % 128 ∨ (e.a.getLsbD 7 = true ∧ sl = Nat.xor (e.a.toNat % 128) 1) then 0 else (s.core k).getAcc sl n)
    ∧ (e.op = 0x0F → ∃ x, exec (.mxEntryPerform k) s = .next x ∧ AccFrame s x k rest
      ∧ ∀ sl n, n < 1024 → (x.core k).getAcc sl n
          = if sl = src ∧ n / 32 = e.b.toNat / 2 ^ 8 % 32 then BitVec.ofNat 32 (elem 32 e.a.toNat (n % 32))
            else (s.core k).getAcc sl n)
    ∧ (e.op = 0x0A → one1 fun i j y => (if i = y then one else .fin false 0 0).mul ((s.core k).accVal src j y))
    ∧ (e.op = 0x0B → one1 fun i j y => (if e.d.toNat / 2 ^ (8 * i) % 32 = y then one else .fin false 0 0).mul ((s.core k).accVal src y j))
    ∧ (e.op = 0x0C → one1 fun i _ y => ((s.core k).accVal src i y).mul one))
  ∧ ∀ (s : State) (k : Nat) (e : QEntry) (rest : List QEntry) (oa ob : Operand) (ca cb : List (List (Option Nat))), MxHead s k e rest →
    e.op = 4 → e.sent = true → s.operandA k e = .ok oa → s.operandB k e = .ok ob → s.groupCodes k oa (mK e.mctl) e.prog = .ok ca →
    s.groupCodes k ob (mK e.mctl) e.prog = .ok cb → e.asc = false → e.bsc = false → mMsk e.mctl = false →
    let row := fun (o : Operand) (l : List (List (Option Nat))) (i : Nat) =>
      ((l.getD i []).zipIdx).map fun x => (s.core k).elemVal o (o.koff + 32 * e.prog + x.2) x.1
    let ints := fun (o : Operand) (l : List (List (Option Nat))) (i : Nat) => (l.getD i []).map fun x => sint (fmtBits o.fmt) (x.getD 0)
    ∃ x, exec (.mxEntryPerform k) s = .next x
      ∧ AccFrame s x k (if 32 * (e.prog + 1) < mK e.mctl then { e with prog := e.prog + 1 } :: rest else rest)
      ∧ ∀ sl n, n < 1024 → (x.core k).getAcc sl n
          = if sl ≠ mCs e.mctl then (s.core k).getAcc sl n
            else if (oa.fmt = 5 ∨ oa.fmt = 6) ∧ (ob.fmt = 5 ∨ ob.fmt = 6) then
              BitVec.ofInt 32 (((s.core k).getAcc sl n).toNat + (List.zipWith (· * ·) (ints oa ca (n / 32)) (ints ob cb (n % 32))).sum)
            else BitVec.ofNat 32 (toF32 ((f32 ((s.core k).getAcc sl n).toNat).add
              (exactSum (List.zipWith XR.mul (row oa ca (n / 32)) (row ob cb (n % 32))))))

/-! ### The attention interface -/

/-- A trigger of the attention interface completes by joining its queue, and att.b0 awaits its ASTAT (R346); stat gives the
entries and the outstanding tags at latency 2. ATTENTION_ENTRY_COMPLETE completes: a merge whose records can be read writes their
merge (R67) at its third operand and ends with its ASTAT for the join; an entry whose writes have performed ends with the ASTAT it
kept (R345, R346). ATTENTION_QUERY_TIMEOUT ends the tags whose limit has passed, and no other (R71). -/
def Obligations.Attention : Prop :=
  ((∀ (i : Instr) (t : Tr) (op : Nat) (s s' : State) (v : Val), attRow i = some (t, op) → Reads s t false false v s' →
    s'.acqPending = false →
    (s'.myCore.atq.length < 16 →
      exec i s = .next (((counted s').updMyCore fun c => { c with
          atq := c.atq ++ [{ id := s'.nextId, op := op, a := v, b := s'.opPort .att 1, c := s'.opPort .att 0, ctx := s'.curCx }] }).expect
        s'.cur s'.curCx 12 0 s'.nextId s'.lendNow))
    ∧ (16 ≤ s'.myCore.atq.length → exec i s = .next (s'.wait (.full 12))))
  ∧ ∀ (t : Tr) (s s' : State) (v : Val), Reads s t false false v s' →
    exec (.attStat t) s = .next (s'.result .att 0 2 (natVal (s'.myCore.atq.length % 32 + s'.myCore.tags.length % 32 * 2 ^ 8))))
  ∧ ((∀ (s s2 : State) (k : Nat) (e : QEntry) (rest : List QEntry) (a b : PRec),
    (s.core k).atq = e :: rest → e.op = 6 → e.fault = none → e.bound = none → e.sent = false → s.attBusy e.id = false →
    s.attRecord k (e.a.toNat % 2 ^ 64) = .ok a → s.attRecord k (e.b.toNat % 2 ^ 64) = .ok b →
    s.attWrites k e.id [(e.c.toNat % 2 ^ 64, (mergeRec a b).bytes)] = .ok s2 → s2.entryBusy e.id = false →
    exec (.attentionEntryComplete k) s = .next (s2.attPop k e (astat (recCode (mergeRec a b)) 0 0)))
  ∧ (∀ (s : State) (k : Nat) (e : QEntry) (rest : List QEntry) (v : Nat),
    (s.core k).atq = e :: rest → e.fault = none → e.bound = some v → s.attBusy e.id = false →
    exec (.attentionEntryComplete k) s = .next (s.attPop k e v))
  ∧ ∀ (s : State) (k : Nat), exec (.attentionQueryTimeout k) s = .next (s.updCore k fun c => { c with
      tags := c.tags.map fun t => if t.done = false ∧ t.limit ≤ s.pkg.ticks then { t with done := true } else t }))

/-- The merge of two records (R67): a record that is INVAL, or a pair with different head dimensions, gives INVAL with the left head
dimension; an empty record gives the other's values; APPROX is kept from either; otherwise the exponent is the larger one and, where
neither scale is below 2^-1000, l and every element of o is the exact sum of the two scaled values, rounded once. -/
def Obligations.MergeRule : Prop :=
  ∀ a b : PRec,
    (mergeRec a b).approx = (a.approx || b.approx) ∧ (mergeRec a b).d = a.d
    ∧ (a.d ≠ b.d ∨ a.inval = true ∨ b.inval = true → (mergeRec a b).inval = true)
    ∧ (a.d = b.d → a.inval = false → b.inval = false →
      (a.empty = true → (mergeRec a b).e = b.e ∧ (mergeRec a b).l = b.l ∧ (mergeRec a b).o = b.o ∧ (mergeRec a b).empty = b.empty)
      ∧ (a.empty = false → b.empty = true →
          (mergeRec a b).e = a.e ∧ (mergeRec a b).l = a.l ∧ (mergeRec a b).o = a.o ∧ (mergeRec a b).empty = false)
      ∧ (a.empty = false → b.empty = false → (mergeRec a b).e = max a.e b.e ∧ (mergeRec a b).empty = false
          ∧ (-1000 ≤ a.e - max a.e b.e → -1000 ≤ b.e - max a.e b.e →
              let sum := fun (x y : Nat) => toF32 (((f32 x).scale (a.e - max a.e b.e)).add ((f32 y).scale (b.e - max a.e b.e)))
              (mergeRec a b).l = sum a.l b.l ∧ (mergeRec a b).o = List.zipWith sum a.o b.o)))

/-! ### The copy engine -/

/-- cpy, cpy2d, ckst and ckrst complete by joining the copy queue (R361, R363); cpyw, with no such copy in the queue, gives 0, and
once its copy has ended the bytes it delivered (R362); bind, with no such copy, does nothing, and else adds 1 to the barrier's
pending count with an ATOMIC (R378); qfence waits for the queues it names and for what the die's L2 has still to write back
(R172); ckwait gives word 3 of a descriptor whose CKSTAT is not 1 (R363). COPY_ENTRY_DONE completes: a copy that has delivered
everything, and is not bound, leaves the queue; a misaligned one holds COPYFAULT; a unit between addresses of the core's own
scratchpad moves 16 bytes and the count (R361). BOUND_COPY_DONE takes a complete bound copy out of its barrier with an ATOMIC, and
BOUND_COPY_FAULT writes word 1 of the barrier before it adds FAULT (R378, R379). -/
def Obligations.CopyEngine : Prop :=
  ((∀ (i : Instr) (t : Tr) (op : Nat) (s s' : State) (v : Val), copyRow i = some (t, op) → Reads s t false false v s' →
    s'.acqPending = false → s'.myCore.cpq.length < 64 →
    let y := (counted s').updMyCore fun c => { c with cpq := c.cpq ++ [entryOf s' .ce op v] }
    exec i s = .next (if op = 8 then y.expect s'.cur s'.curCx 13 0 s'.nextId s'.lendNow else y))
  ∧ (∀ (t : Tr) (s s' : State) (v : Val), Reads s t false false v s' → s'.acqPending = false →
    (∀ n, s'.me.cpyGot = some n → exec (.ceCpyw t) s = .next (s'.result .ce 0 1 (natVal n)))
    ∧ (s'.me.cpyGot = none → (s'.myCore.cpq.all fun e => e.cid != v.toNat % 65536) = true →
        exec (.ceCpyw t) s = .next (s'.result .ce 0 1 0))
    ∧ ((s'.myCore.cpq.all fun e => e.cid != (s'.opB .ce).toNat % 65536) = true → exec (.ceBind t) s = .next s')
    ∧ (∀ e q off, s'.latestCpy s'.cur ((s'.opB .ce).toNat % 65536) = some e →
        s'.reach (valWord v).toNat 16 16 accAtomic = .ok [(.sp q off, 16)] →
        ∃ (x : State) (w : Txn), exec (.ceBind t) s = .next x ∧ x.wire = s'.wire ++ [(0, w)] ∧ w.ty = tyAtomic ∧ w.subop = 16
          ∧ w.dst = ⟨s'.pkg.pkgId, q / 40, q % 40⟩ ∧ w.addr = off ∧ w.payload = leBytes 8 (2 ^ 52)
          ∧ (x.core s'.cur).cpq = s'.myCore.cpq.map fun c =>
              if c.id = e.id then { c with bound := some (valWord v).toNat, boundPa := some (spKey q off) } else c)
    ∧ (v.toNat % 16 = 0 → exec (.ceQfence t) s = .next s')
    ∧ (v.toNat % 16 ≠ 0 → fenceBusy s'.myCore (v.toNat % 16) = false → fenceFault s'.myCore (v.toNat % 16) = none →
        s'.unsettled s'.cur s'.curCx 3 0 = true → exec (.ceQfence t) s = .next (s'.wait (.drain 3 0)))
    ∧ (v.toNat % 16 ≠ 0 → fenceBusy s'.myCore (v.toNat % 16) = false → fenceFault s'.myCore (v.toNat % 16) = none →
        s'.unsettled s'.cur s'.curCx 3 0 = false → exec (.ceQfence t) s = .next (s'.writeBack (dieOf s'.cur) fun x => x.2.ptag == s'.ptagOf s'.cur))
    ∧ (fenceBusy s'.myCore (v.toNat % 16) = true → fenceFault s'.myCore (v.toNat % 16) = none →
        exec (.ceQfence t) s = .next (s'.wait (.fence (v.toNat % 16))))
    ∧ ∀ q off, s'.reach (valWord v).toNat 64 64 accLoad = .ok [(.sp q off, 64)] →
        s'.writePending (spKey q off) 64 = false →
        let w3 := leNat ((s'.spRead q off 64).drop 24 |>.take 8)
        (w3 % 256 ≠ 1 → exec (.ceCkwait t) s = .next (s'.result .ce 0 1 (natVal w3)))
        ∧ (w3 % 256 = 1 → exec (.ceCkwait t) s = .next (s'.wait (.peek (.sp q off) 64 s'.bnd.slot (valWord v).toNat)))))
  ∧ (∀ (s : State) (k : Nat) (e : QEntry) (rest : List QEntry), (s.core k).cpq = e :: rest → e.op = 4 ∨ e.op = 0x0B →
    (e.fault = none → s.entryBusy e.id = false → e.boundPa = none → 0 < e.total → e.misaligned = none → e.total ≤ e.prog →
      exec (.copyEntryDone k) s = .next (s.popCpy k e))
    ∧ (∀ va, e.fault = none → s.entryBusy e.id = false → e.boundPa = none → 0 < e.total → e.misaligned = some va →
      exec (.copyEntryDone k) s = .next (s.updCpq k e.id fun x => { x with sent := false, fault := some {
        cause := 0x0B, d := [BitVec.ofNat 64 e.cid, BitVec.ofNat 64 e.prog, BitVec.ofNat 64 va, 6] } }))
    ∧ (e.fault = none → s.entryBusy e.id = false → e.misaligned = none → e.prog < e.total → k < 160 →
      e.srcAt e.prog + 16 ≤ 768 * 1024 → e.dstAt e.prog + 16 ≤ 768 * 1024 →
      poisoned (s.core (s.logical k)).spPoison (e.srcAt e.prog) 16 = false →
      ∃ x, exec (.copyEntryDone k) s = .next x ∧ x.hbm = s.hbm
        ∧ (∀ a, SMap.get 0 (x.core (s.logical k)).sp a
            = if e.dstAt e.prog ≤ a ∧ a < e.dstAt e.prog + 16 then SMap.get 0 (s.core (s.logical k)).sp (e.srcAt e.prog + (a - e.dstAt e.prog))
              else SMap.get 0 (s.core (s.logical k)).sp a)
        ∧ (x.core k).cpq = ((s.core k).cpq.map fun c => if c.id = e.id then { c with prog := c.prog + 16, aux := [] } else c)
        ∧ ∀ i, x.cx k i = s.cx k i)
    ∧ (∀ key, e.fault = none → e.boundPa = some key → e.total ≤ e.prog → e.sent = false → s.bindOut k key = false → key < 2 ^ 52 →
      ∃ (x : State) (w : Txn), exec (.boundCopyDone k) s = .next x ∧ x.wire = s.wire ++ [(0, w)] ∧ w.ty = tyAtomic ∧ w.subop = 16
        ∧ w.dst = llcEp s.pkg.pkgId key ∧ w.addr = key ∧ w.payload = leBytes 8 (2 ^ 64 - 2 ^ 52)
        ∧ (x.core k).cpq = (s.core k).cpq.map fun c => if c.id = e.id then { c with sent := true } else c)
    ∧ ∀ key t, e.fault = some t → e.boundPa = some key → e.sent = false → s.bindOut k key = false → key + 8 < 2 ^ 52 →
      ∃ (x : State) (w f : Txn), exec (.boundCopyFault k) s = .next x ∧ x.wire = s.wire ++ [(0, w), (0, f)]
        ∧ w.ty = tyStore ∧ w.addr = key + 8 ∧ w.payload = leBytes 8 ((t.d.getD 0 0).toNat % 2 ^ 16
            + (t.d.getD 1 0).toNat % 2 ^ 32 * 2 ^ 16 + (t.d.getD 3 0).toNat % 2 ^ 16 * 2 ^ 48)
        ∧ f.ty = tyAtomic ∧ f.subop = 16 ∧ f.addr = key ∧ f.payload = leBytes 8 (2 ^ 60))

/-! ### Circular buffers -/

/-- waitf, waite, padv, cadv and cstat complete on a pipe of their group, in their role (R364, R365): waitf, once enough slots are filled,
makes an acquire at cluster scope and gives the consumer's address of the slot at HEAD at latency 2; waite, once enough are free, gives the
producer's address of the slot at TAIL; padv and cadv, once earlier accesses have performed, move TAIL or HEAD by at most the free or filled
slots; cstat gives the counts. -/
def Obligations.CircularBuffers : Prop :=
  ∀ (t : Tr) (s s' : State) (v : Val) (h : Nat) (p : Pipe), Reads s t false false v s' → Names s' t v h p →
    let n := filledOf p
    let free := p.slots - n
    (bitOf h 12 = true → cbN s' ≤ n →
      exec (.cbWaitf t) s = .next ((s'.acquired s'.cur 1).result .cb 0 2 (natVal (p.off + p.head.toNat % p.slots * p.size * 16))))
    ∧ (bitOf h 12 = false → cbN s' ≤ free →
      exec (.cbWaite t) s = .next (s'.result .cb 0 2
        (natVal (2 ^ 24 + 2 ^ 20 * (p.cons % 8) + p.off + p.tail.toNat % p.slots * p.size * 16))))
    ∧ (s'.acqPending = false → s'.unsettled s'.cur s'.curCx 1 0xFFFF = false →
        s'.me.fenced.all (fun f => !bitOf 0xFFFF f.stream) = true →
      (bitOf h 12 = false → let k := min ((s'.opB .cb).toNat % 512) free
        exec (.cbPadv t) s = .next ((s'.updPipe s'.cur (h % 2 ^ 12) fun p => { p with tail := p.tail + BitVec.ofNat 32 k }).result
          .cb 0 2 (natVal k)))
      ∧ (bitOf h 12 = true → let k := min ((s'.opB .cb).toNat % 512) n
        exec (.cbCadv t) s = .next ((s'.updPipe s'.cur (h % 2 ^ 12) fun p => { p with head := p.head + BitVec.ofNat 32 k }).result
          .cb 0 2 (natVal k))))
    ∧ exec (.cbCstat t) s = .next (s'.result .cb 0 2
        (natVal (n % 512 + free % 512 * 2 ^ 16 + (if bitOf h 12 then p.head.toNat else p.tail.toNat) * 2 ^ 32)))

end

namespace Sys2Proof.Claims

open Sys2Proof.Machine

/-! ### Queue and synchronisation unit -/

/-- The new value of an atomic (R41, R372): operation, bits, old value, operand, compare value; none for the codes that are reserved at the
width: 13 to 15, and the FP32 minimum, maximum and sum at 64 bits. -/
def intAtomic (op w old a c : Nat) : Option Nat :=
  let si := fun (x : Nat) => if 2 ^ (w - 1) ≤ x then (x : Int) - 2 ^ w else x
  match op with
  | 0 => some ((old + a) % 2 ^ w)
  | 1 => some (if si a < si old then a else old)
  | 2 => some (if si a > si old then a else old)
  | 3 => some (min old a)
  | 4 => some (max old a)
  | 7 => some (old &&& a)
  | 8 => some (old ||| a)
  | 9 => some (old ^^^ a)
  | 10 => some a
  | 11 => some (if old = c then a else old)
  | 5 => if w = 32 then some (toF32 (XR.min (f32 old) (f32 a))) else none
  | 6 => if w = 32 then some (toF32 (XR.max (f32 old) (f32 a))) else none
  | 12 => if w = 32 then some (toF32 ((f32 old).add (f32 a))) else none
  | _ => none

/-- A result of the unit is there for a join: bypass register `b` of qu awaits nothing and holds `v`. -/
def QuGot (x : State) (b : Nat) (v : Val) : Prop :=
  ∃ q : QRes, (x.joinsAt x.cur x.curCx 15 b).getLast? = some q ∧ q.done = true ∧ q.val = v ∧ q.fault = none

/-- The bytes of scratchpad `q` after a store of `bs` at an offset, and every other memory as before. -/
def SpHolds (s x : State) (q off : Nat) (bs : List Byte) : Prop :=
  (∀ a, SMap.get 0 (x.core q).sp a
    = if off ≤ a ∧ a < off + bs.length then bs.getD (a - off) 0 else SMap.get 0 (s.core q).sp a)
  ∧ (∀ k, k ≠ q → (x.core k).sp = (s.core k).sp)

/-- Nothing that a release of the context covers is out, and none of it was refused (R167, R168). -/
def Released (s : State) (scope : Nat) : Prop :=
  s.unsettled s.cur s.curCx scope 0xFFFF = false ∧ s.me.fenced.all (fun f => !bitOf 0xFFFF f.stream) = true

/-! ### System unit -/

/-- An entry joins the context's sys queue, and sys.b0 awaits its result (R382). -/
def sysIn (s : State) (op : Nat) (a b c : Val) : State :=
  ((counted s).updMe fun x => { x with sysq := x.sysq ++ [{ id := s.nextId, op := op, a := a, b := b, c := c, ctx := s.curCx }] }).expect
    s.cur s.curCx 16 0 s.nextId s.lendNow
/-- What a package-scope release does once its accesses have performed: dirty lines of the partition are written back (R167). -/
def flushed (s : State) : State := s.writeBack (dieOf s.cur) fun x => x.2.ptag == s.ptagOf s.cur

/-- csrw, csrs and csrc (R383). -/
def csrRow : Instr → Option (Tr × Nat × (Word → Word → Word))
  | .sysCsrw t => some (t, 5, fun _ b => b)
  | .sysCsrs t => some (t, 6, fun old b => old ||| b)
  | .sysCsrc t => some (t, 7, fun old b => old &&& ~~~b)
  | _ => none

/-- The head of the sys queue of context `i` of core `k` can act: its partition is not fenced and nothing of it is out. -/
def SysHead (s : State) (k i : Nat) (e : QEntry) (rest : List QEntry) : Prop :=
  (s.cx k i).sysq = e :: rest ∧ (s.part (s.ptagOf k)).fenced = false
  ∧ (s.reqs.all fun r => !(r.unit == 16 && r.op == 1 && r.key == some e.id)) = true

end Sys2Proof.Claims

section

open Sys2Proof Sys2Proof.Machine Sys2Proof.Claims

/-! ### Queues, atomics, tasks, barriers -/

/-- amo, amoacq, amorel and red on a word of the own scratchpad complete: the word takes the new value, b0 gives the old one and b1 OK; red
gives nothing (R41, R372). amoacq leaves the first-level caches empty from cluster scope on, amorel performs once nothing that its release
covers is out (R168). A code that names no operation gives MALFORMED, which red keeps for FENCE, and nothing is written. -/
def Obligations.AtomicsInScratchpad : Prop :=
  ∀ (t : Tr) (s s' : State) (v : Val), Reads s t false false v s' → Free s' →
    let d := (s'.opD .qu).toNat % 32
    let n := if d < 16 then 4 else 8
    let va := (s'.opB .qu).toNat
    let q := s'.logical s'.cur
    let old := leNat (s'.spRead q va n)
    let sc := (s'.opE .qu).toNat / 16 % 8
    Own s' va n → va % n = 0 → poisoned (s'.core q).spPoison va n = false →
    (∀ new, intAtomic (d % 16) (8 * n) old (v.toNat % 2 ^ (8 * n)) ((s'.opC .qu).toNat % 2 ^ (8 * n)) = some new →
      (∃ x, exec (.quAmo t) s = .next x ∧ SpHolds s' x q va (leBytes n new) ∧ x.hbm = s'.hbm ∧ QuGot x 0 (natVal old) ∧ QuGot x 1 0)
      ∧ (∃ x, exec (.quRed t) s = .next x ∧ SpHolds s' x q va (leBytes n new) ∧ x.hbm = s'.hbm ∧ x.reqs = s'.reqs)
      ∧ (sc < 6 → ∃ x, exec (.quAmoacq t) s = .next x ∧ SpHolds s' x q va (leBytes n new) ∧ x.hbm = s'.hbm
          ∧ QuGot x 0 (natVal old) ∧ QuGot x 1 0 ∧ (1 ≤ sc → (x.core x.cur).l1 = {} ∧ (x.core x.cur).icache = {}))
      ∧ (sc < 6 → Released s' sc → ∃ x, exec (.quAmorel t) s = .next x ∧ SpHolds s' x q va (leBytes n new)
          ∧ QuGot x 0 (natVal old) ∧ QuGot x 1 0))
    ∧ (intAtomic (d % 16) (8 * n) old (v.toNat % 2 ^ (8 * n)) ((s'.opC .qu).toNat % 2 ^ (8 * n)) = none →
      (∃ x, exec (.quAmo t) s = .next x ∧ (∀ k, (x.core k).sp = (s'.core k).sp) ∧ x.hbm = s'.hbm ∧ QuGot x 1 10)
      ∧ ∃ x, exec (.quRed t) s = .next x ∧ (∀ k, (x.core k).sp = (s'.core k).sp) ∧ x.hbm = s'.hbm
          ∧ x.me.fenced = s'.me.fenced ++ [⟨10, va, (s'.opE .qu).toNat % 16⟩])
    ∧ (6 ≤ sc → exec (.quAmoacq t) s = .next (s'.raise { cause := 2, d := [11, 0, 0] }))

/-- push and pop of an object in a scratchpad window complete by sending a PUSH or a POP to the object's home, with the type, class and
element size of its header, and the element's low bytes (R44, R370); qwait holds its bundle until enough elements, or free places where
its mode asks for them, are counted (R371). -/
def Obligations.ObjectTriggers : Prop :=
  (∀ (t : Tr) (s s' : State) (v : Val) (q off : Nat), Reads s t false false v s' → Free s' →
    let hdr := leNat ((s'.spRead q off 8).take 24)
    s'.writePending (spKey q off) 8 = false →
    (s'.reach (s'.opB .qu).toNat 64 64 accAtomic = .ok [(.sp q off, 64)] →
      ∃ (x : State) (w : Txn), exec (.quPush t) s = .next x ∧ x.wire = s'.wire ++ [(0, w)] ∧ w.ty = tyPush
        ∧ w.dst = ⟨s'.pkg.pkgId, q / 40, q % 40⟩ ∧ w.addr = off ∧ w.otype = hdr % 4 ∧ w.oclass = hdr / 4 % 16 ∧ w.subop = hdr / 64 % 8
        ∧ w.payload = leBytes (2 ^ (hdr / 64 % 8)) (if s'.curCx = 1 ∨ s'.curCx = 2 then v.toNat % 2 ^ 64 else v.toNat)
        ∧ w.stream = (s'.opE .qu).toNat % 16)
    ∧ (s'.reach (valWord v).toNat 64 64 accAtomic = .ok [(.sp q off, 64)] →
      ∃ (x : State) (w : Txn), exec (.quPop t) s = .next x ∧ x.wire = s'.wire ++ [(0, w)] ∧ w.ty = tyPop
        ∧ w.dst = ⟨s'.pkg.pkgId, q / 40, q % 40⟩ ∧ w.addr = off ∧ w.otype = hdr % 4 ∧ w.oclass = hdr / 4 % 16 ∧ w.subop = hdr / 64 % 8
        ∧ w.payload = [] ∧ w.stream = (s'.opE .qu).toNat % 16))
  ∧ ∀ (t : Tr) (s s' : State) (v : Val) (q off : Nat), Reads s t false false v s' → Free s' →
    s'.writePending (spKey q off) 24 = false → s'.spOk (s'.ptagOf s'.cur) q = true → poisoned (s'.core q).spPoison off 24 = false →
    s'.reach (valWord v).toNat 64 64 accLoad = .ok [(.sp q off, 64)] →
    let word := fun j => leNat (s'.spRead q (off + 4 * j) 4)
    let n := (s'.opC .qu).toNat % 2 ^ 32
    let l := (s'.opB .qu).toNat % 2 ^ 32
    let ok := decide (n ≤ word 5) || ((s'.opC .qu).getLsbD 32 && decide (n ≤ word 2 - word 5))
    let limit : TrapInfo := { cause := 9, slot := s'.bnd.slot, d := [valWord v, BitVec.ofNat 64 (word 4), BitVec.ofNat 64 (word 4 + word 5), BitVec.ofNat 64 l] }
    exec (.quQwait t) s = .next { s' with bnd := { s'.bnd with waits := s'.bnd.waits ++ [(ok, l, limit)] } }

/-- talloc and tdec on a continuation record in the own scratchpad, and puth, complete: talloc writes the eight words of the record, with the
dependence counter and the state it makes (R102, R373); tdec takes its count from a waiting record, which becomes ready at 0, and gives the
counter (R374); puth sends the bytes and the handler's address to the core of a scratchpad (R375). -/
def Obligations.TaskTriggers : Prop :=
  (∀ (t : Tr) (s s' : State) (v : Val), Reads s t false false v s' → Free s' →
    let va := (valWord v).toNat
    let arg := (s'.opD .qu).toNat
    let q := s'.logical s'.cur
    let c := (s'.opC .qu).toNat
    Own s' va 64 → va % 64 = 0 → Own s' arg 32 → s'.writePending (spKey q arg) 32 = false →
    poisoned (s'.core q).spPoison arg 32 = false → s'.myCore.point = none → c % 2 ^ 32 ≠ 0 →
    ∃ x, exec (.quTalloc t) s = .next x ∧ QuGot x 1 0 ∧ x.hbm = s'.hbm ∧ SpHolds s' x q va
      (leBytes 8 ((s'.opB .qu).toNat / 16 % 2 ^ 48) ++ leBytes 8 0 ++ leBytes 8 (c % 2 ^ 32 + 2 ^ 36 + c / 2 ^ 32 % 256 * 2 ^ 40)
        ++ leBytes 8 0 ++ s'.spRead q arg 32))
  ∧ (∀ (t : Tr) (s s' : State) (v : Val), Reads s t false false v s' → Free s' →
    let va := (valWord v).toNat
    let q := s'.logical s'.cur
    let n := if (s'.opB .qu).toNat % 2 ^ 32 = 0 then 1 else (s'.opB .qu).toNat % 2 ^ 32
    let w := leNat (s'.spRead q (va + 16) 8)
    Own s' va 64 → va % 64 = 0 → poisoned (s'.core q).spPoison va 64 = false → s'.writePending (spKey q va) 64 = false →
    w / 2 ^ 36 % 16 = 1 → w % 2 ^ 32 ≠ 0 →
    ∃ x, exec (.quTdec t) s = .next x ∧ QuGot x 0 (natVal (w % 2 ^ 32 - n)) ∧ QuGot x 1 0
      ∧ SpHolds s' x q (va + 16) (leBytes 8 (w - min n (w % 2 ^ 32) + (if w % 2 ^ 32 ≤ n then 2 ^ 36 else 0))))
  ∧ ∀ (t : Tr) (s s' : State) (v : Val) (q off : Nat), Reads s t false false v s' → Free s' →
    let len := (s'.opD .qu).toNat % 4096
    let src := (s'.opC .qu).toNat
    len % 16 = 0 → 16 ≤ len → len ≤ 2032 → src % 16 = 0 → src + len ≤ 768 * 1024 →
    poisoned (s'.core (s'.logical s'.cur)).spPoison src len = false →
    s'.reach (s'.opB .qu).toNat 1 1 accStore = .ok [(.sp q off, 1)] →
    ∃ (x : State) (w : Txn), exec (.quPuth t) s = .next x ∧ x.wire = s'.wire ++ [(0, w)] ∧ w.ty = tyPuth
      ∧ w.dst = ⟨s'.pkg.pkgId, q / 40, q % 40⟩ ∧ w.addr = off ∧ w.subop = (s'.opD .qu).toNat / 2 ^ 16 % 4
      ∧ w.payload = s'.spRead (s'.logical s'.cur) src len ++ leBytes 8 (valWord v).toNat

/-- The barrier triggers and mwait complete on words of the own scratchpad (R376 to R378): bari writes a fresh word 0 with its COUNT, and word
1; bara and barx add an arrival, or begin the next phase when it is the last, and bara gives the phase it arrived in; barw gives a phase
that differs from its own, and mwait a word that differs, each after an acquire; a phase that has not changed holds a barw, or raises the
BARFAULT that its word 1 records if the context has not seen it (R379); a word that has not changed leaves a monitor for mwait. -/
def Obligations.BarrierTriggers : Prop :=
  ∀ (t : Tr) (s s' : State) (v : Val), Reads s t false false v s' → Free s' →
    let va := (valWord v).toNat
    let q := s'.logical s'.cur
    let sc := (s'.opE .qu).toNat / 16 % 8
    let n := (s'.opB .qu).toNat % 65536
    let w0 := leNat (s'.spRead q va 8)
    let phase := w0 % 2 ^ 20
    let count := w0 / 2 ^ 20 % 2 ^ 16
    let arr := w0 / 2 ^ 36 % 2 ^ 16
    let l := (s'.opC .qu).toNat % 2 ^ 32
    Own s' va 16 → va % 16 = 0 → sc < 6 → poisoned (s'.core q).spPoison va 16 = false →
    s'.writePending (spKey q va) 16 = false →
    let w1 := leNat (s'.spRead q (va + 8) 8)
    (n ≠ 0 → Released s' sc → ∃ x, exec (.quBari t) s = .next x ∧ QuGot x 1 0 ∧ SpHolds s' x q va (leBytes 8 (n * 2 ^ 20) ++ leBytes 8 0))
    ∧ (n = 0 → ∃ x, exec (.quBari t) s = .next x ∧ QuGot x 1 10 ∧ ∀ k, (x.core k).sp = (s'.core k).sp)
    ∧ (Released s' sc → let next := if arr + 1 = count ∧ w0 / 2 ^ 52 % 256 = 0 then count * 2 ^ 20 + (phase + 1) % 2 ^ 20 else (w0 + 2 ^ 36) % 2 ^ 64
        (∃ x, exec (.quBara t) s = .next x ∧ SpHolds s' x q va (leBytes 8 next) ∧ QuGot x 0 (natVal phase) ∧ QuGot x 1 0)
        ∧ ∃ x, exec (.quBarx t) s = .next x ∧ SpHolds s' x q va (leBytes 8 next)
            ∧ (∃ r ∈ x.reqs, r.core = s'.cur ∧ r.ctx = s'.curCx ∧ r.op = 0x11 ∧ r.phase = phase + 1 ∧ r.acq = some sc))
    ∧ (phase ≠ (s'.opB .qu).toNat % 2 ^ 20 → ∃ x, exec (.quBarw t) s = .next x ∧ QuGot x 0 (natVal phase)
        ∧ (1 ≤ sc → (x.core x.cur).l1 = {} ∧ (x.core x.cur).icache = {}) ∧ x.bnd.waits = s'.bnd.waits)
    ∧ (phase = (s'.opB .qu).toNat % 2 ^ 20 → (w0.testBit 60 = false ∨ s'.me.barSeen.contains (BitVec.ofNat 64 w1) = true) →
        let limit : TrapInfo := { cause := 9, slot := s'.bnd.slot, d := [valWord v, BitVec.ofNat 64 arr, BitVec.ofNat 64 count, BitVec.ofNat 64 l] }
        exec (.quBarw t) s = .next { s' with bnd := { s'.bnd with waits := s'.bnd.waits ++ [(false, l, limit)] } })
    ∧ (phase = (s'.opB .qu).toNat % 2 ^ 20 → w0.testBit 60 = true → s'.me.barSeen.contains (BitVec.ofNat 64 w1) = false →
        exec (.quBarw t) s = .next (s'.raise { cause := 0x0A, d := [BitVec.ofNat 64 va, BitVec.ofNat 64 (w1 % 2 ^ 16),
          BitVec.ofNat 64 (w1 / 2 ^ 16 % 2 ^ 32), BitVec.ofNat 64 (w1 / 2 ^ 56 % 256 * 256 + w1 / 2 ^ 48 % 256)] }))
    ∧ (BitVec.ofNat 64 w0 ≠ s'.opB .qu → ∃ x, exec (.quMwait t) s = .next x ∧ QuGot x 0 (natVal w0) ∧ QuGot x 1 1
        ∧ (1 ≤ sc → (x.core x.cur).l1 = {} ∧ (x.core x.cur).icache = {}))
    ∧ (BitVec.ofNat 64 w0 = s'.opB .qu → ∃ (x : State) (m : Monitor), exec (.quMwait t) s = .next x
        ∧ (x.die (dieOf s'.cur)).monitors = (s'.die (dieOf s'.cur)).monitors ++ [m] ∧ m.core = s'.cur ∧ m.ctx = s'.curCx ∧ m.tgt = .sp q va
        ∧ m.limit = (if s'.opC .qu = 0 then none else some (s'.pkg.ticks + (s'.opC .qu).toNat)) ∧ m.woken = false)

/-! ### The system unit -/

/-- csrr, frd, trap, tret, hret and retire (R382 to R390): with nothing of the context pending csrr and frd give their register at latency 2;
trap raises SWT; tret, hret and retire end their context with the bundle, in the context each belongs to, hret and retire once what they wait
for has performed: the drain at package scope, which leaves no clean line in the L2 (R387), and the queues and the release of R108, at the
scope of the point's launch; else retire waits. Elsewhere they raise PERM with D1 = 5. -/
def Obligations.SysTriggersAtOnce : Prop :=
  ∀ (t : Tr) (s s' : State) (v : Val), Reads s t false false v s' →
    let num := v.toNat % 4096
    let perm : TrapInfo := { cause := 5, d := [0, 5] }
    (s'.me.sysq = [] → num ≠ 1 → exec (.sysCsrr t) s
      = .next (s'.result .sys 0 2 (wordVal (s'.csrVal s'.cur s'.curCx num (s'.csrPart s'.cur (v.toNat % 65536))))))
    ∧ (s'.me.sysq = [] → num = 1 → exec (.sysCsrr t) s
      = .next (s'.result .sys 0 2 (wordVal (s'.me.rqpos - BitVec.ofNat 64 (s'.popsBelow s'.bnd.words s'.bnd.slot)))))
    ∧ (s'.me.sysq = [] → exec (.sysFrd t) s = .next (s'.result .sys 0 2 (wordVal (match v.toNat % 4 with
      | 0 => BitVec.ofNat 64 s'.pkg.ticks
      | 1 => BitVec.ofNat 64 s'.pkg.fctl
      | 2 => (if s'.curCx = 0 then (s'.myCore.point.map fun p => BitVec.ofNat 64 p.frame).getD 0 else 0)
      | _ => (if s'.curCx = 0 then (s'.myCore.point.map fun p => BitVec.ofNat 64 (p.l.lid + p.kidx * 2 ^ 16)).getD 0 else 0)))))
    ∧ exec (.sysTrap t) s = .next (s'.raise { cause := 0x11, d := [BitVec.ofNat 64 (v.toNat % 256), s'.opB .sys] })
    ∧ (s'.curCx = 3 → exec (.sysTret t) s = .next { s' with bnd := { s'.bnd with ended := 2 } })
    ∧ (s'.curCx ≠ 3 → exec (.sysTret t) s = .next (s'.raise perm))
    ∧ (s'.curCx = 1 ∨ s'.curCx = 2 → s'.me.sysq = [] → Released s' 3 →
        exec (.sysHret t) s = .next { (flushed s').evictAll (dieOf s'.cur) with bnd := { s'.bnd with ended := 3 } })
    ∧ (s'.curCx ≠ 1 → s'.curCx ≠ 2 → exec (.sysHret t) s = .next (s'.raise perm))
    ∧ (s'.curCx = 0 → s'.cur < 160 → s'.endFault = none → let sc := s'.endScope s'.cur
        (s'.myCore.queuesEmpty = true → s'.endWaits s'.cur sc = false → s'.me.fenced.all (fun f => !bitOf 0xFFFF f.stream) = true →
          (sc < 3 → exec (.sysRetire t) s = .next { s' with bnd := { s'.bnd with ended := 1 } })
          ∧ (3 ≤ sc → s'.remoteDirty (dieOf s'.cur) (s'.ptagOf s'.cur) = [] →
              exec (.sysRetire t) s = .next { flushed s' with bnd := { s'.bnd with ended := 1 } }))
        ∧ (s'.myCore.queuesEmpty = false ∨ s'.endWaits s'.cur sc = true → exec (.sysRetire t) s = .next (s'.wait (.fence 31))))
    ∧ (s'.curCx ≠ 0 ∨ 160 ≤ s'.cur → exec (.sysRetire t) s = .next (s'.raise perm))

/-- The other sys triggers complete by entering the context's queue of eight (R382), where context, core, privilege and alignment allow it:
csrw, csrs, csrc (R383), launch and launchi after a release at package scope (R388), hinst (R391), tlbi and tlbun (R392), cinv and cwb
(R393), slotld (R394), csw (R395), irq (R396) and dbg (R397). A privileged one elsewhere raises PERM with D1 = 5, one whose address is not
aligned raises ALIGN, and one that finds the queue full waits. -/
def Obligations.SysTriggersEnter : Prop :=
  (∀ (t : Tr) (s s' : State) (v : Val), Reads s t false false v s' → 8 ≤ s'.me.sysq.length →
    exec (.sysTlbi t) s = .next (s'.wait (.full 16)) ∧ exec (.sysTlbun t) s = .next (s'.wait (.full 16))
    ∧ exec (.sysIrq t) s = .next (s'.wait (.full 16)))
  ∧ ∀ (t : Tr) (s s' : State) (v : Val), Reads s t false false v s' → s'.me.sysq.length < 8 → s'.acqPending = false →
    let a := (valWord v).toNat
    let b := wordVal (s'.opB .sys)
    let c := wordVal (s'.opC .sys)
    let perm : TrapInfo := { cause := 5, d := [0, 5] }
    let align := fun (n : Nat) => ({ cause := 6, d := [BitVec.ofNat 64 a, BitVec.ofNat 64 n] } : TrapInfo)
    let num := v.toNat % 4096
    (∀ i op f, csrRow i = some (t, op, f) →
      (s'.privileged s'.cur = true ∨ csrPrivileged num = false →
        exec i s = .next (sysIn s' op (natVal (num + s'.csrPart s'.cur (v.toNat % 65536) % 16 * 4096)) b 0))
      ∧ (s'.privileged s'.cur = false → csrPrivileged num = true → exec i s = .next (s'.raise perm)))
    ∧ (a % 64 = 0 → Released s' 3 → exec (.sysLaunch t) s = .next (sysIn (flushed s') 0x0B v 0 0)
        ∧ ((s'.opB .sys).toNat % 8 = 0 → exec (.sysLaunchi t) s = .next (sysIn (flushed s') 0x0C v b 0)))
    ∧ (a % 64 ≠ 0 → exec (.sysLaunch t) s = .next (s'.raise (align 128)) ∧ exec (.sysLaunchi t) s = .next (s'.raise (align 128)))
    ∧ (a % 64 = 0 → (s'.opB .sys).toNat % 8 ≠ 0 → exec (.sysLaunchi t) s = .next (s'.raise { cause := 6, d := [s'.opB .sys, 8] }))
    ∧ (s'.curCx = 0 → a % 64 ≠ 0 → exec (.sysHinst t) s = .next (s'.raise (align 64)))
    ∧ (s'.privileged s'.cur = true → a % 16 ≠ 0 → exec (.sysSlotld t) s = .next (s'.raise (align 16)))
    ∧ (s'.curCx = 0 → s'.cur < 160 → a % 16 ≠ 0 → exec (.sysCsw t) s = .next (s'.raise (align 16)))
    ∧ (s'.curCx = 0 → a % 64 = 0 → exec (.sysHinst t) s = .next (sysIn s' 0x0F v 0 0))
    ∧ (s'.curCx ≠ 0 → exec (.sysHinst t) s = .next (s'.raise perm))
    ∧ exec (.sysTlbi t) s = .next (sysIn s' 0x10 v b 0) ∧ exec (.sysTlbun t) s = .next (sysIn s' 0x11 v b 0)
    ∧ (s'.cur < 160 → exec (.sysCinv t) s = .next (sysIn s' 0x12 v 0 0))
    ∧ (160 ≤ s'.cur → exec (.sysCinv t) s = .next (s'.raise perm))
    ∧ exec (.sysCwb t) s = .next (sysIn s' 0x13 v b c)
    ∧ (s'.privileged s'.cur = true → a % 16 = 0 → exec (.sysSlotld t) s = .next (sysIn s' 0x14 v 0 0))
    ∧ (s'.privileged s'.cur = false → exec (.sysSlotld t) s = .next (s'.raise perm))
    ∧ (s'.curCx = 0 → s'.cur < 160 → a % 16 = 0 → exec (.sysCsw t) s = .next (sysIn s' 0x15 v b c))
    ∧ (s'.curCx ≠ 0 ∨ 160 ≤ s'.cur → exec (.sysCsw t) s = .next (s'.raise perm))
    ∧ exec (.sysIrq t) s = .next (sysIn s' 0x16 v 0 0)
    ∧ (v.toNat % 16 ≠ 1 → exec (.sysDbg t) s = .next (sysIn s' 0x17 v b 0))
    ∧ (v.toNat % 16 = 1 → exec (.sysDbg t) s
        = .next { sysIn s' 0x17 v b 0 with bnd := { (sysIn s' 0x17 v b 0).bnd with halt := true } })

/-- SYS_ENTRY_COMPLETE completes: the entry of a csrw, csrs or csrc writes its register under the layout of R121, R194 and R384 and gives the
old value; a debug value is logged; a cinv empties the caches its bits name; the entry leaves the queue (R382, R383, R385, R393, R397). -/
def Obligations.SysEntriesComplete : Prop :=
  ∀ (s : State) (k i : Nat) (e : QEntry) (rest : List QEntry), SysHead s k i e rest → rest.all (fun r => r.id != e.id) = true →
    let a := (valWord e.a).toNat
    let num := a % 4096
    let p := a / 4096
    let old := s.csrVal k i num p
    (∀ (ins : Instr) t f, csrRow ins = some (t, e.op, f) →
      let n := (f old (valWord e.b)).toNat
      ∃ x, exec (.sysEntryComplete k i) s = .next x ∧ (x.cx k i).sysq = rest
        ∧ x.joinsAt k i 16 0 = (s.joinsAt k i 16 0).map (fun r =>
            if r.id = e.id then { r with done := true, val := wordVal old, fault := none } else r)
        ∧ (num = 0x000 → (x.cx k i).rqkey.toNat = n ∧ (x.cx k i).rqbuf = 0)
        ∧ (num = 0x001 → (x.cx k i).rqpos.toNat = n ∧ (x.cx k i).rqbuf = 0)
        ∧ (0x010 ≤ num ∧ num < 0x014 → SMap.get 0 (x.core k).bpa (num - 0x010) = BitVec.ofNat 64 n)
        ∧ (0x014 ≤ num ∧ num < 0x018 → SMap.get 0 (x.core k).bpc (num - 0x014) = BitVec.ofNat 64 (n % 2 ^ 37))
        ∧ (num = 0x020 → k < 160 → (x.cluster (clusterOf k)).clhnd.toNat = n % 256)
        ∧ (num = 0x021 → (x.core k).bpoolA.toNat = n % 2 ^ 57) ∧ (num = 0x022 → (x.core k).bpoolN.toNat = n % 2 ^ 16)
        ∧ (num = 0x030 → (x.part p).rngseed.toNat = n)
        ∧ (num = 0x031 → (x.part p).drainth = n % 2 ^ 20 ∧ (x.part p).ageq = n / 2 ^ 20 % 2 ^ 16 ∧ (x.part p).dlen = n.testBit 36)
        ∧ (num = 0x032 → (x.part p).wdlim = n % 2 ^ 40)
        ∧ (num = 0x033 → (x.part p).frzn = n % 256 ∧ (x.part p).frzbase = n / 2 ^ 21 % 2 ^ 36 * 2 ^ 21)
        ∧ (num = 0x040 → x.pkg.nextTickNs = if 100 ≤ n % 2 ^ 20 ∧ n % 2 ^ 20 ≤ 1000000 then some (n % 2 ^ 20) else s.pkg.nextTickNs)
        ∧ x.hbm = s.hbm ∧ x.wire = s.wire ∧ ∀ q, (x.core q).sp = (s.core q).sp)
    ∧ (e.op = 0x17 → a % 16 = 0 → ∃ x, exec (.sysEntryComplete k i) s = .next x ∧ (x.cx k i).sysq = rest
        ∧ x.smcLog = s.smcLog ++ [.debug k (a / 2 ^ 8 % 256) (valWord e.b)])
    ∧ (e.op = 0x12 → ∃ x, exec (.sysEntryComplete k i) s = .next x ∧ (x.cx k i).sysq = rest
        ∧ (x.core k).l1 = (if a.testBit 0 then {} else (s.core k).l1) ∧ (x.core k).icache = (if a.testBit 1 then {} else (s.core k).icache))

/-! ### Traps -/

/-- Taking a trap in context 0, 1 or 2 with a handler installed and context 3 idle (R179, R184 to R186): the context freezes with
its registers; the frame holds cause, slot, context, PC, VCC, counts, random state, D0 to D7 and the s, k and a registers; context
3 runs at the handler's entry, with the frame's address, the cause and the core with its context in arg0 to arg2, and with s, k, a
and g registers of 0 but for g0. A trap that finds context 3 busy waits for it, one that finds no handler on a compute core parks,
which the sideband log reports, and one in context 3 itself fences the partition and marks its machine check (R179, R189, R191).
Where a cb trigger does not complete (R364, R365): too few filled slots hold a waitf, and too few free ones a waite, with their
limit and QTIMEOUT; a handle of the other role, one that names no pipe of the group, and a source that is no cb register raise
ILLREG of class 3. -/
def Obligations.TrapEntry : Prop :=
  (∀ (s : State) (k i pa : Nat) (t : TrapInfo) (h : Handler), i < 3 → SMap.find s.segs k = none → s.handler k t.cause = some h →
    (s.cx k 3).run = .idle → s.pinnedPa k (frameVa k h) = some pa → (s.core k).wcb = [] →
    let c := s.cx k i
    let x := s.takeTrap k i t
    let c3 := x.cx k 3
    let w := fun off n => leNat (SMap.run 0 x.hbm (pa + off) n)
    (x.cx k i).run = .trapped
    ∧ x.cx k i = { c with run := .trapped, pause := .none, xok := [], fenced := (x.cx k i).fenced, barSeen := (x.cx k i).barSeen,
                          joins := (x.cx k i).joins }
    ∧ c3.run = .running ∧ c3.pause = .none ∧ c3.pc = h.entry / 16 ∧ c3.upc = 0 ∧ c3.flights = []
    ∧ (∀ j, c3.getS j = 0) ∧ (∀ j, c3.getK j = 0) ∧ (∀ j, c3.getA j = 0) ∧ (∀ j, c3.getG j = decide (j.val = 0))
    ∧ c3.argv 0 = BitVec.ofNat 64 (frameVa k h) ∧ c3.argv 1 = BitVec.ofNat 64 t.cause
    ∧ c3.argv 2 = BitVec.ofNat 64 ((if k < 160 then k % 40 else 40) * 256 + i)
    ∧ c3.frame = frameVa k h ∧ c3.trapCtx = i ∧ c3.trapCause = t.cause ∧ c3.sysq = (s.cx k 3).sysq
    ∧ c3.rqkey = (s.part (s.ptagOf k)).rngseed ∧ c3.rqpos = BitVec.ofNat 64 (7 * 2 ^ 56)
    ∧ w 0 4 = (t.cause + t.slot * 2 ^ 8 + i * 2 ^ 10 + c.listed.length * 2 ^ 24) % 2 ^ 32
    ∧ w 8 8 = (c.pc + c.upc * 2 ^ 48) % 2 ^ 64 ∧ w 16 8 = c.vcc % 2 ^ 64 ∧ w 24 4 = c.repLeft % 2 ^ 32 ∧ w 28 4 = c.repDone % 2 ^ 32
    ∧ w 32 8 = c.rqkey.toNat ∧ w 40 8 = c.rqpos.toNat ∧ w 56 8 = c.wd % 2 ^ 64
    ∧ (∀ n, n < 8 → w (128 + 8 * n) 8 = (t.d.getD n 0).toNat)
    ∧ (∀ j : Fin 64, w (0x100 + 8 * j.val) 8 = (c.getS j).toNat) ∧ (∀ j : Fin 16, w (0x300 + 8 * j.val) 8 = (c.getK j).toNat)
    ∧ (∀ j : Fin 16, w (0x380 + 8 * j.val) 8 = (c.getA j).toNat))
  ∧ (∀ (s : State) (k i : Nat) (t : TrapInfo), SMap.find s.segs k = none →
    (∀ h, i < 3 → s.handler k t.cause = some h → (s.cx k 3).run ≠ .idle → ((s.takeTrap k i t).cx k i).run = .trapPending t
      ∧ (s.takeTrap k i t).cx k 3 = s.cx k 3)
    ∧ (i < 3 → k < 160 → s.handler k t.cause = none → ((s.takeTrap k i t).cx k i).run = .parked t
      ∧ .trap (s.ptagOf k) k i t.cause ∈ (s.takeTrap k i t).smcLog)
    ∧ ((s.takeTrap k 3 t).cx k 3).run = .frozen ∧ ((s.takeTrap k 3 t).part (s.ptagOf k)).mchk = true
    ∧ ((s.takeTrap k 3 t).part (s.ptagOf k)).fenced = true)
  ∧ (∀ (t : Tr) (s s' : State) (v : Val), Reads s t false false v s' →
    let h := v.toNat % 2 ^ 32
    let idx := cbIndex t.src
    let ill : Host.Outcome State Fault Refusal := .next (s'.raise { cause := 3, d := [BitVec.ofNat 64 (idx % 256 + 3 * 256)] })
    (∀ p, Names s' t v h p →
      let l := (s'.opB .cb).toNat % 2 ^ 32
      let limit : TrapInfo :=
        { cause := 9, slot := s'.bnd.slot, d := [BitVec.ofNat 64 idx, p.head.setWidth 64, p.tail.setWidth 64, BitVec.ofNat 64 l] }
      let held : State := { s' with bnd := { s'.bnd with waits := s'.bnd.waits ++ [(false, l, limit)] } }
      (bitOf h 12 = true → filledOf p < cbN s' → exec (.cbWaitf t) s = .next held)
      ∧ (bitOf h 12 = false → p.slots - filledOf p < cbN s' → exec (.cbWaite t) s = .next held))
    ∧ (bitOf h 12 = false → exec (.cbWaitf t) s = ill ∧ exec (.cbCadv t) s = ill)
    ∧ (bitOf h 12 = true → exec (.cbWaite t) s = ill ∧ exec (.cbPadv t) s = ill)
    ∧ ((∀ c, t.src ≠ .small (.cb c)) ∨ s'.pipeOf h = none →
        exec (.cbWaitf t) s = ill ∧ exec (.cbWaite t) s = ill ∧ exec (.cbPadv t) s = ill ∧ exec (.cbCadv t) s = ill
        ∧ exec (.cbCstat t) s = ill))

/-- The return from a trap (R187): the context takes its s, k, a and g registers, random state and counts of a repeat from the frame as the handler left it, and goes on
at its bundle, or waits while another member of its group is stopped; with RMODE SKIP that bundle acts as if every guard were false, after a
BRK a RETRY meets no breakpoint, after a WATCHDOG the count of cycles starts again; context 3 is idle. With RMODE END the context makes its
end. The reserved RMODE 3 is a machine check. -/
def Obligations.TrapReturn : Prop :=
  ∀ (s : State) (k pa : Nat), let c3 := s.cx k 3
    let i := c3.trapCtx
    let c := s.cx k i
    let w := fun off n => s.frameWord k pa off n
    let x := s.trapReturn k
    i < 3 → s.pinnedPa k c3.frame = some pa → (∀ j t, j < 3 → (s.cx k j).run ≠ .trapPending t) →
    (w 0 4 / 2 ^ 16 % 4 ≤ 1 →
      (x.cx k i).run = .running ∧ (x.cx k i).pause = (if i = 0 ∧ s.groupStopped k = true then .group else .none) ∧ (x.cx k i).hold = none
      ∧ (x.cx k i).wd = (if c3.trapCause = 0x0C then 0 else w 56 8) ∧ (x.cx k i).pc = c.pc ∧ (x.cx k i).upc = c.upc ∧ (x.cx k i).vcc = c.vcc
      ∧ (x.cx k i).skip = (if w 0 4 / 2 ^ 16 % 4 = 1 then true else c.skip)
      ∧ (x.cx k i).noBrk = (if w 0 4 / 2 ^ 16 % 4 = 1 then c.noBrk else c3.trapCause == 0x0D)
      ∧ (∀ j : Fin 64, (x.cx k i).getS j = if j.val = 0 then 0 else BitVec.ofNat 64 (w (0x100 + 8 * j.val) 8))
      ∧ (∀ j : Fin 16, (x.cx k i).getK j = BitVec.ofNat 64 (w (0x300 + 8 * j.val) 8))
      ∧ (∀ j : Fin 16, (x.cx k i).getA j = BitVec.ofNat 64 (w (0x380 + 8 * j.val) 8))
      ∧ (∀ j : Fin 8, (x.cx k i).getG j = if j.val = 0 then true else (w 0x460 1).testBit j.val)
      ∧ (x.cx k i).rqkey = BitVec.ofNat 64 (w 32 8) ∧ (x.cx k i).rqpos = BitVec.ofNat 64 (w 40 8)
      ∧ (x.cx k i).repLeft = w 24 4 ∧ (x.cx k i).repDone = w 28 4
      ∧ (x.cx k 3).run = .idle)
    ∧ (w 0 4 / 2 ^ 16 % 4 = 2 → k < 160 → (x.cx k i).run = .frozen ∧ (x.cx k i).pause = .ending ∧ (x.cx k i).flights = []
        ∧ (x.cx k 3).run = .idle)
    ∧ (w 0 4 / 2 ^ 16 % 4 = 3 → (x.part (s.ptagOf k)).mchk = true ∧ (x.part (s.ptagOf k)).fenced = true)

end

namespace Sys2Proof.Claims

open Sys2Proof.Machine

/-! ### Transactions -/

/-- A request meets its agent: no router holds an operation of its triple, its first router admits it, this package is its target, no
earlier request of its triple failed the end-to-end check, its own check holds, its partition takes it, an attention request comes from
the own domain, and data that are known bad are a store's, a push's or a puth's (R36 to R38, R46, R50, R87). -/
def Arrives (s : State) (t : Txn) : Prop :=
  s.holds t = false ∧ Txn.admissible t = true ∧ t.dst.pkg = s.pkg.pkgId ∧ SMap.find s.crcWait (Txn.triple t) = none
  ∧ Txn.crcOk t = true ∧ (s.foreign t = false ∧ s.resent t = false ∨ s.closed t.ptag = false)
  ∧ (t.dom = none ∨ t.ty ≠ tyAttreq ∧ t.ty ≠ tyPartial) ∧ (t.poison = false ∨ takesPoison t.ty = true)

/-- A byte of HBM at the LLC, and of a scratchpad. -/
def hbmAt (s : State) (a : Nat) : Byte := SMap.get 0 s.hbm a
def spAt (s : State) (k a : Nat) : Byte := SMap.get 0 (s.core k).sp a
/-- What an address holds after `bs` is stored at `base`, where it held `old`. -/
def wrote (base : Nat) (bs : List Byte) (a : Nat) (old : Byte) : Byte :=
  if base ≤ a ∧ a < base + bs.length then bs.getD (a - base) 0 else old
/-- No die's L2 holds a dirty byte in the lines of `n` bytes. -/
def Undirty (s : State) (a n : Nat) : Prop := ∀ d, d < 4 → ∀ x ∈ (s.die d).l2, x.1 / 128 < a / 128 ∨ (a + n) / 128 < x.1 / 128
/-- The core or the cache die that performs `n` bytes at the request's address, with the checks of R39 and R147. -/
def AtCore (s : State) (t : Txn) (k n : Nat) : Prop := s.agentOf t = .sp k ∧ s.ptagOf k = t.ptag ∧ t.addr + n ≤ spSize
def AtLlc (s : State) (t : Txn) (n : Nat) : Prop :=
  ∃ md, s.agentOf t = .llc md ∧ bits t.addr 38 36 = md ∧ s.ownerOk t.ptag t.addr = true ∧ s.ownerOk t.ptag (t.addr + (n - 1)) = true

/-- The new word of an atomic after each of its constituents in order (R41, R43). -/
def atomicAll (t : Txn) (n old : Nat) : Option Nat :=
  (constsOf t).foldl (fun v x => v.bind fun v => intAtomic (t.subop % 16) (8 * n) v (x.operand.toNat % 2 ^ (8 * n))
    (leNat ((t.payload.drop n).take n))) (some old)

end Sys2Proof.Claims

section

open Sys2Proof Sys2Proof.Machine Sys2Proof.Claims

/-! ### Requests at their targets -/

/-- LOAD completes at its target with one RESP that carries the bytes: a scratchpad, the LLC, an L2, a register window, whose
registers that clear on a read do so; host memory is asked, and an L2 that lacks REMOTE bytes asks their home (R155). Marked units
answer POISON, bytes of another partition PERM, a range past a scratchpad MALFORMED (R36, R39, R142, R147, R152, R156, R211). The
RESP goes back with the STREAM, SEQ and TAG of the request. A LOAD at an L2 fills its line, and the L1 of a core that may keep it
(R154). STORE completes at its target: the addressed bytes take the payload, every other byte of the memory keeps its value, and a
RESP with OK answers; units stored with known bad data are marked; a register window takes the value under its registers' access
codes, and host memory is sent it (R36, R39, R147, R152, R156, R211). -/
def Obligations.LoadsAndStoresArrive : Prop :=
  (∀ (s : State) (t : Txn), t.ty = tyLoad → Arrives s t → t.subop ≤ 11 → t.payload = [] → t.constituents = [] →
    let n := 2 ^ t.subop
    let u := s.unwire t
    let p := s.hostPart t
    (∀ k, AtCore s t k n → exec (.loadArrive t) s
      = .next (u.answer t (if poisoned (s.core k).spPoison t.addr n then stPoison else stOk) (s.spRead k t.addr n)))
    ∧ (AtLlc s t n → Undirty s t.addr n → ∃ x : State, exec (.loadArrive t) s
        = .next (x.answer t (if poisoned s.hbmPoison t.addr n then stPoison else stOk) (s.hbmRead t.addr n))
        ∧ x.hbm = s.hbm ∧ x.wire = u.wire ∧ x.reqs = s.reqs ∧ ∀ k, (x.core k).sp = (s.core k).sp)
    ∧ (AtLlc s t n → ∃ x : State, exec (.loadArrive t) s
        = .next (x.answer t (if poisoned s.hbmPoison t.addr n then stPoison else stOk) (x.hbmRead t.addr n))
        ∧ ∀ a, hbmAt x a = hbmAt s a ∨ ∃ d b, (a, b) ∈ (s.die d).l2 ∧ hbmAt x a = b.val)
    ∧ (∀ d, s.agentOf t = .l2 d →
        (t.addr < 2 ^ 52 ∧ s.hbmOk t t.addr n = true ∨ 2 ^ 52 ≤ t.addr ∧ ∀ j, j < n → s.l2Held d (t.addr + j) ≠ none) →
        ∃ x : State, exec (.loadArrive t) s = .next x
          ∧ x.wire = (u.answer t (if poisoned s.hbmPoison t.addr n then stPoison else stOk) (s.viewRead d t.addr n)).wire
          ∧ x.hbm = s.hbm ∧ x.reqs = s.reqs ∧ (∀ k, (x.core k).sp = (s.core k).sp)
          ∧ (t.addr < 2 ^ 52 → ∀ j, j < n → (x.die d).clean.has (t.addr + j) = true)
          ∧ ∀ r, s.reqOf t = some r → r.fill = 2 → ∀ j, j < n → (x.core r.core).l1.has (t.addr + j) = true)
    ∧ (∀ d, s.agentOf t = .l2 d → 2 ^ 52 ≤ t.addr → (∃ j, j < n ∧ s.l2Held d (t.addr + j) = none) → s.remoteIn d t.addr n = [] →
        s.backsOn d t.addr n = false → ∃ (x : State) (w : Txn) (r : Req), exec (.loadArrive t) s = .next x ∧ x.wire = u.wire ++ [(0, w)]
          ∧ w.ty = tyLoad ∧ w.src = s.l2Ep d ∧ w.dst = llcEp (keyPkg t.addr) (keyPa t.addr) ∧ w.addr = keyPa t.addr ∧ w.subop = t.subop
          ∧ w.ptag = t.ptag ∧ x.reqs = s.reqs ++ [r] ∧ r.unit = 25 ∧ r.key = (s.reqOf t).map (·.tag) ∧ r.loc = t.addr ∧ x.hbm = s.hbm)
    ∧ (s.agentOf t = .host → s.pkg.linkUp = true → s.hostPass p t.addr n = true →
      exec (.loadArrive t) s = .next (u.tell (.hostRead p (t.addr % 2 ^ 52) n t.tag)))
    ∧ (s.agentOf t = .host → s.pkg.linkUp = true → s.hostPass p t.addr n = false → exec (.loadArrive t) s
      = .next ((u.updPart p fun p => { p with filtdrop := satInc p.filtdrop }).answer t stPoison))
    ∧ (s.agentOf t = .host → s.pkg.linkUp = false → exec (.loadArrive t) s = .next (u.answer t stPoison))
    ∧ (s.agentOf t = .mmio → t.priv = true → (u.mmioRead t.addr n).length = n
        ∧ exec (.loadArrive t) s = .next ((u.mmioClear t.addr n).answer t stOk (u.mmioRead t.addr n)))
    ∧ (s.agentOf t = .mmio → t.priv = false → exec (.loadArrive t) s = .next (u.answer t stPerm))
    ∧ (∀ md, s.agentOf t = .llc md → ¬ AtLlc s t n → exec (.loadArrive t) s = .next (u.answer t stPerm))
    ∧ (∀ d, s.agentOf t = .l2 d → t.addr < 2 ^ 52 → s.hbmOk t t.addr n = false → exec (.loadArrive t) s = .next (u.answer t stPerm))
    ∧ (s.agentOf t = .none → exec (.loadArrive t) s = .next (u.answer t stMalformed))
    ∧ (∀ k, s.agentOf t = .sp k → s.ptagOf k ≠ t.ptag → exec (.loadArrive t) s = .next (u.answer t stPerm))
    ∧ (∀ k, s.agentOf t = .sp k → s.ptagOf k = t.ptag → spSize < t.addr + n → exec (.loadArrive t) s = .next (u.answer t stMalformed))
    ∧ ∀ st bs, let r := respTo t st bs 0
        r.src = t.dst ∧ r.dst = t.src ∧ r.stream = t.stream ∧ r.seq = t.seq ∧ r.tag = t.tag ∧ r.payload = bs ∧ r.status = st
        ∧ r.ty = tyResp ∧ r.subop = t.ty ∧ Txn.crcOk r = true)
  ∧ (∀ (s : State) (t : Txn), t.ty = tyStore → Arrives s t → t.subop ≤ 1 → t.payload ≠ [] →
    let n := t.payload.length
    let u := s.unwire t
    (∀ k, AtCore s t k n → ∃ x : State, exec (.storeArrive t) s = .next (x.answer t stOk) ∧ SpFrame u x k
        ∧ (∀ a, spAt x k a = wrote t.addr t.payload a (spAt s k a))
        ∧ (t.poison = true → ∀ a, t.addr ≤ a → a < t.addr + n → poisoned (x.core k).spPoison a 1 = true))
    ∧ (AtLlc s t n → Undirty s t.addr n → ∃ x : State, exec (.storeArrive t) s = .next (x.answer t stOk)
        ∧ (∀ a, hbmAt x a = wrote t.addr t.payload a (hbmAt s a)) ∧ (∀ k, (x.core k).sp = (s.core k).sp)
        ∧ (t.poison = true → ∀ a, t.addr ≤ a → a < t.addr + n → poisoned x.hbmPoison a 1 = true))
    ∧ (AtLlc s t n → ∃ x : State, exec (.storeArrive t) s = .next (x.answer t stOk)
        ∧ (∀ a, t.addr ≤ a → a < t.addr + n → hbmAt x a = t.payload.getD (a - t.addr) 0) ∧ (∀ k, (x.core k).sp = (s.core k).sp)
        ∧ ∀ a, ¬ (t.addr ≤ a ∧ a < t.addr + n) → hbmAt x a = hbmAt s a ∨ ∃ d b, (a, b) ∈ (s.die d).l2 ∧ hbmAt x a = b.val)
    ∧ (∀ d, s.agentOf t = .l2 d → 2 ^ 52 ≤ t.addr ∨ s.hbmOk t t.addr n = true → ∃ x : State, exec (.storeArrive t) s = .next (x.answer t stOk)
        ∧ x.hbm = s.hbm ∧ (∀ k, (x.core k).sp = (s.core k).sp)
        ∧ ∀ a, x.viewByte d a = wrote t.addr t.payload a (s.viewByte d a))
    ∧ (s.agentOf t = .host → exec (.storeArrive t) s = .next ((u.hostWrite (s.hostPart t) t.addr t.payload false).answer t stOk))
    ∧ (s.agentOf t = .mmio → t.priv = true → exec (.storeArrive t) s = .next ((u.mmioWrite t.addr t.payload).answer t stOk))
    ∧ (s.agentOf t = .mmio → t.priv = false → exec (.storeArrive t) s = .next (u.answer t stPerm))
    ∧ (∀ md, s.agentOf t = .llc md → ¬ AtLlc s t n → exec (.storeArrive t) s = .next (u.answer t stPerm))
    ∧ (∀ d, s.agentOf t = .l2 d → t.addr < 2 ^ 52 → s.hbmOk t t.addr n = false → exec (.storeArrive t) s = .next (u.answer t stPerm))
    ∧ (s.agentOf t = .none → exec (.storeArrive t) s = .next (u.answer t stMalformed))
    ∧ (∀ k, s.agentOf t = .sp k → s.ptagOf k ≠ t.ptag → exec (.storeArrive t) s = .next (u.answer t stPerm))
    ∧ (∀ k, s.agentOf t = .sp k → s.ptagOf k = t.ptag → spSize < t.addr + n → exec (.storeArrive t) s = .next (u.answer t stMalformed)))

/-- ATOMIC completes at its home: its constituents perform on the word in order with nothing between them, one RESP carries the old word where
the operation returns one, and a reserved code answers MALFORMED (R41, R43, R211). At a router that may combine, it takes the place of an
earlier atomic on the same word, with both operations' constituents in order (R42). -/
def Obligations.AtomicsArrive : Prop :=
  (∀ (s : State) (t : Txn), t.ty = tyAtomic → Arrives s t →
    let n := if t.subop.testBit 4 then 8 else 4
    let u := s.unwire t
    let ret := fun old => if t.subop.testBit 5 then [] else leBytes n old
    t.subop < 64 → t.payload ≠ [] → t.payload.length ≤ 16 →
    (∀ k new, let old := leNat (s.spRead k t.addr n)
      AtCore s t k n → atomicAll t n old = some new → poisoned (s.core k).spPoison t.addr n = false →
      ∃ x : State, exec (.atomicArrive none t) s = .next (x.answer t stOk (ret old)) ∧ SpFrame u x k
        ∧ ∀ a, spAt x k a = wrote t.addr (leBytes n new) a (spAt s k a))
    ∧ (∀ new, let old := leNat (s.hbmRead t.addr n)
      AtLlc s t n → Undirty s t.addr n → atomicAll t n old = some new → poisoned s.hbmPoison t.addr n = false →
      ∃ x : State, exec (.atomicArrive none t) s = .next (x.answer t stOk (ret old)) ∧ (∀ k, (x.core k).sp = (s.core k).sp)
        ∧ ∀ a, hbmAt x a = wrote t.addr (leBytes n new) a (hbmAt s a))
    ∧ (∀ k, AtCore s t k n → t.subop % 16 ≤ 12 → (t.subop.testBit 4 = true → t.subop % 16 ∉ [5, 6, 12]) →
      poisoned (s.core k).spPoison t.addr n = true → exec (.atomicArrive none t) s = .next (u.answer t stPoison))
    ∧ (∀ k, s.agentOf t = .sp k → (13 ≤ t.subop % 16 ∨ t.subop.testBit 4 = true ∧ t.subop % 16 ∈ [5, 6, 12]) →
      exec (.atomicArrive none t) s = .next (u.answer t stMalformed)))
  ∧ ∀ (s : State) (t : Txn) (a : Nat × Txn) (r n : Nat), t.ty = tyAtomic → s.placeOnWire t = some n →
    s.earlier r (n, t) none s.wire = some a → (s.router r).comben = true →
    s.onCircuit t = false → s.onCircuit a.2 = false → s.holds t = false →
    (a.2.subop.testBit 5 = true ∨ (s.router r).records a.2 < 16) →
    ∃ (x : State) (c : Txn), exec (.atomicArrive (some r) t) s = .next x
      ∧ c.src = a.2.src ∧ c.dst = a.2.dst ∧ c.addr = a.2.addr ∧ c.seq = a.2.seq ∧ c.subop = a.2.subop
      ∧ c.constituents = constsOf a.2 ++ constsOf t ∧ Txn.crcOk c = true
      ∧ x.wire = takeWire t (replaceWire a [(indexIn r (s.routeOf a.2) + 1, c)] s.wire)
      ∧ (0, c, c.constituents) ∈ (x.router r).combine ∧ x.hbm = s.hbm ∧ x.cores = s.cores

end

namespace Sys2Proof.Claims

open Sys2Proof.Machine

/-! ### Responses and attention requests -/

/-- A response reaches its source's package, within the own domain, and passes the check (R36 to R38, R50). -/
def Returns (s : State) (t : Txn) : Prop :=
  s.holds t = false ∧ Txn.admissible t = true ∧ t.dst.pkg = s.pkg.pkgId ∧ t.dom = none ∧ Txn.crcOk t = true

/-- The one request that has no answer is sent again (R38), the wire before it being `l`. -/
def sentAgain (s : State) (o : Outst) (l : List (Nat × Txn)) : State :=
  { s with outst := [{ o with resends := o.resends + 1 }], wire := takeWire o.txn l ++ [(0, o.txn)] }

/-- The FSC register as R32 lays it out. -/
def fscWord (r : Router) : Nat :=
  (if r.actBank then 1 else 0) + (if r.swapTick.isSome then 2 else 0) + (if r.comben then 4 else 0) + (if r.pairen then 8 else 0)
    + (if r.degraded then 16 else 0) + min 0xFFFF r.drops * 2 ^ 16

/-- No die's L2 holds a dirty byte. -/
def NoDirty (s : State) : Prop := ∀ d, d < 4 → (s.die d).l2 = []
/-- The address of the first byte of the image that a request's payload names. -/
def imageAt (t : Txn) : Nat := leNat ((t.payload.drop 8).take 8)
/-- An attention request of a sub-operation whose SEQID's replica is here, under its own PTAG (R39, R60). -/
def HasReplica (s : State) (t : Txn) (sub : Nat) (r : Pmt) : Prop :=
  t.ty = tyAttreq ∧ t.subop = sub ∧ s.replica t.dst (leNat (t.payload.take 4)) = some r ∧ t.ptag = pmtPtag r.image

end Sys2Proof.Claims

section

open Sys2Proof Sys2Proof.Machine Sys2Proof.Claims

/-- PUSH and POP complete at the object's home as its header says (R368, R370): a push stores its element after the last and
counts it, or finds the object FULL; a pop gives the oldest element of a FIFO or the newest of a LIFO or bag, or finds it EMPTY.
At a router that pairs, the oldest held opposite operation answers both, another is held for its window, one that comes from
another router's hold or finds 32 held is forwarded, as is one that the router does not pair, and one whose window ends goes on
(R45 to R47). PUTH completes at its core: with fewer than four activations queued it stores the payload and queues an activation
whose answer comes later; with four it answers REFUSED; CLHND chooses the core of the cluster with the most room, a protected pair
by its even core (R130, R205). -/
def Obligations.ObjectsAndPuthArrive : Prop :=
  ((∀ (s : State) (t : Txn) (k : Nat), Arrives s t → s.agentOf t = .sp k → s.ptagOf k = t.ptag →
    let w := fun j => leNat (s.spRead k (t.addr + 4 * j) 4)
    let hdr := w 0
    let size := 2 ^ (hdr / 64 % 8)
    let cap := w 2
    let head := w 4
    let count := w 5
    let u := s.unwire t
    let at_ := fun i => t.addr + 64 + i * size
    t.addr + 64 + cap * size ≤ spSize → poisoned (s.core k).spPoison t.addr 64 = false → 3 ≤ t.subop → t.subop ≤ 6 →
    Txn.len t = (if t.ty = tyPush then (2 ^ t.subop + 15) / 16 else 0) → 1 ≤ hdr % 4 → 3 ≤ hdr / 64 % 8 → hdr / 64 % 8 ≤ 6 → 0 < cap → t.otype = hdr % 4 → t.oclass = hdr / 4 % 16 →
    (t.ty = tyPush → count < cap → ∃ x : State, exec (.pushArrive none t) s = .next (x.answer t stOk) ∧ SpFrame u x k
      ∧ ∀ a, spAt x k a = wrote (t.addr + 20) (leBytes 4 (count + 1)) a
          (wrote (at_ (if hdr % 4 = 1 then (head + count) % cap else count)) ((t.payload ++ List.replicate size 0).take size) a (spAt s k a)))
    ∧ (t.ty = tyPush → count = cap → exec (.pushArrive none t) s = .next (u.answer t stFull))
    ∧ (t.ty = tyPop → count = 0 → exec (.popArrive none t) s = .next (u.answer t stEmpty))
    ∧ (t.ty = tyPop → 0 < count → count ≤ cap → head < cap →
      let from_ := at_ (if hdr % 4 = 1 then head else count - 1)
      poisoned (s.core k).spPoison from_ size = false →
      ∃ x : State, exec (.popArrive none t) s = .next (x.answer t stOk (s.spRead k from_ size)) ∧ SpFrame u x k
      ∧ ∀ a, spAt x k a = wrote (t.addr + 20) (leBytes 4 (count - 1)) a
          (if hdr % 4 = 1 then wrote (t.addr + 16) (leBytes 4 ((head + 1) % cap)) a (spAt s k a) else spAt s k a)))
  ∧ (∀ (s : State) (t : Txn) (k : Nat), Arrives s t → s.agentOf t = .sp k → s.ptagOf k = t.ptag → t.addr + 64 ≤ spSize →
    poisoned (s.core k).spPoison t.addr 64 = false →
    (leNat (s.spRead k t.addr 4) % 4 = 0 ∨ t.otype ≠ leNat (s.spRead k t.addr 4) % 4) →
    (t.ty = tyPush → exec (.pushArrive none t) s = .next ((s.unwire t).answer t stObjtype))
    ∧ (t.ty = tyPop → exec (.popArrive none t) s = .next ((s.unwire t).answer t stObjtype)))
  ∧ (∀ (s : State) (t : Txn) (r : Nat), t.ty = tyPush ∨ t.ty = tyPop → s.holds t = false → t.otype = 2 ∨ t.otype = 3 →
    (s.router r).pairen = true → (s.router r).window t.oclass ≠ 0 → r ∈ s.routeOf t → Txn.admissible t = true →
    let ex := exec (if t.ty = tyPush then .pushArrive (some r) t else .popArrive (some r) t) s
    (∀ h, (s.router r).held.find? (opposite t) = some h →
      let y := (s.unwire t).updRouter r fun y => { y with held := y.held.erase h }
      (t.ty = tyPush → ex = .next ((y.answer t stOk).answer h.1 (if t.poison then stPoison else stOk) t.payload))
      ∧ (t.ty = tyPop → ex = .next ((y.answer h.1 stOk).answer t (if h.1.poison then stPoison else stOk) h.1.payload)))
    ∧ ((s.router r).held.find? (opposite t) = none → t.held = false → (s.router r).held.length < 32 →
      ex = .next ((s.unwire t).updRouter r fun y =>
        { y with held := y.held ++ [({ t with held := true }, (s.router r).window t.oclass)] }))
    ∧ ((s.router r).held.find? (opposite t) = none → t.held = true ∨ 32 ≤ (s.router r).held.length → ex = .next (s.passRouter r t)))
  ∧ (∀ (s : State) (t : Txn) (r : Nat), t.ty = tyPush ∨ t.ty = tyPop → s.holds t = false → r ∈ s.routeOf t → Txn.admissible t = true →
    ((t.otype ≠ 2 ∧ t.otype ≠ 3) ∨ (s.router r).pairen = false ∨ (s.router r).window t.oclass = 0) →
    exec (if t.ty = tyPush then .pushArrive (some r) t else .popArrive (some r) t) s = .next (s.passRouter r t))
  ∧ ∀ (s : State) (r : Nat) (h : Txn × Nat), (s.router r).held = [h] →
    ∃ x : State, exec (.pairingWindowExpire r) s = .next x ∧ x.wire = (indexIn r (s.routeOf h.1) + 1, h.1) :: s.wire ∧ (x.router r).held = [] ∧ x.hbm = s.hbm ∧ x.cores = s.cores)
  ∧ ((∀ (s : State) (t : Txn) (q : Nat), Arrives s t → t.ty = tyPuth → s.agentOf t = .sp q →
    let k := s.handlerCore q
    let n := (t.payload.length - 1) / 16 * 16
    let act : Activation := { txn := t, handler := BitVec.ofNat 64 (leNat ((t.payload.drop n).take 8)),
                              addr := BitVec.ofNat 64 t.addr, len := n, hint := t.subop }
    t.subop < 3 → 8 ≤ t.payload.length → s.ptagOf k = t.ptag →
    ((s.core k).acts.length < 4 → t.addr + n ≤ spSize → ∃ x : State, exec (.puthArrive t) s = .next x ∧ x.wire = takeWire t s.wire
        ∧ x.hbm = s.hbm ∧ (∀ j, j ≠ k → (x.core j).sp = (s.core j).sp)
        ∧ (x.core k).acts = (s.core k).acts ++ [act]
        ∧ ∀ a, spAt x k a = wrote t.addr (t.payload.take n) a (spAt s k a))
    ∧ (4 ≤ (s.core k).acts.length → exec (.puthArrive t) s = .next ((s.unwire t).answer t stRefused)))
  ∧ ∀ (s : State) (q : Nat), let m := (s.cluster (clusterOf q)).clhnd.toNat
    (m = 0 ∨ m.testBit (q % 8) = true → s.handlerCore q = q)
    ∧ (m.testBit (q % 8) = false → (∃ j, j < 8 ∧ m.testBit j = true) →
        (∃ j, j < 8 ∧ m.testBit j = true ∧ s.handlerCore q = s.logical (8 * (q / 8) + j))
        ∧ ∀ j, j < 8 → m.testBit j = true →
            4 - (s.core (s.logical (8 * (q / 8) + j))).acts.length ≤ 4 - (s.core (s.handlerCore q)).acts.length))

/-- RESP completes at the source of its request: a queued load takes the bytes and is done, a failed check or 100 us without a response has
the request sent again up to three times and then its data delivered with POISON set; a response that nothing waits for or that fails the
check is discarded (R36, R38). -/
def Obligations.ResponsesArrive : Prop :=
  (∀ (s : State) (t : Txn) (o : Outst) (r : Req) (key : Nat) (q : QRes), Returns s t → t.ty = tyResp → t.constituents = [] →
    s.outst.find? (fun o => answers o t) = some o → t.status = stOk → o.txn.ty = tyLoad → s.reqs = [r] → r.tag = o.uid → r.unit = 8 → r.key = some key →
    r.acq = none → r.off = 0 → r.arg.toNat = r.size → r.sign = false → s.joinsAt r.core r.ctx 8 r.b = [q] → q.id = key → q.val = 0 →
    q.fault = none → r.ctx < 4 →
    ∃ x : State, exec (.respArrive none t) s = .next x ∧ x.reqs = []
      ∧ x.joinsAt r.core r.ctx 8 r.b = [{ q with done := true, val := natVal (leNat (t.payload.take r.size)) }]
      ∧ x.outst = s.outst.filter (fun y => y.uid != o.uid) ∧ x.hbm = s.hbm ∧ ∀ k, (x.core k).sp = (s.core k).sp)
  ∧ (∀ (s : State) (t : Txn), Returns s t → t.ty = tyResp → t.constituents = [] → s.outst.find? (fun o => answers o t) = none →
    exec (.respArrive none t) s = .next (s.unwire t))
  ∧ (∀ (s : State) (t : Txn) (a : Option Nat), s.holds t = false → Txn.admissible t = true → t.dst.pkg = s.pkg.pkgId → t.dom = none → t.ty = tyResp →
    Txn.crcOk t = false → exec (.respArrive a t) s = .next (s.unwire t))
  ∧ (∀ (s : State) (o : Outst), s.outst = [o] → o.resends < 3 →
    exec (.responseTimeout 0) s = .next (sentAgain s o s.wire)
    ∧ ∀ t, Returns s t → t.ty = tyResp → t.constituents = [] → t.status = stCrcerr → answers o t = true →
        exec (.respArrive none t) s = .next (sentAgain s o (takeWire t s.wire)))
  ∧ ∀ (s : State) (o : Outst), s.outst = [o] → s.reqs = [] → 3 ≤ o.resends → exec (.responseTimeout 0) s
      = .next { s with outst := [], wire := takeWire o.txn s.wire ++ [(0, Txn.withCrc { o.txn with poison := true })] }

/-- SLOTCTL completes at a router for a privileged source: the entry it carries enters the inactive bank and the swap is armed; at the named
tick the banks swap. FSC reads its fields and clears DROPS. A replay drops nothing; at a frame boundary a failing lane is replaced by the
spare, and with the spare used the port runs at half rate (R12, R14, R24, R31, R32, R76). The layout of SLOTCTL's payload is the model's (log 32). -/
def Obligations.RoutersAndPorts : Prop :=
  (∀ (s : State) (t : Txn) (j e tick : Nat), Arrives s t → t.ty = tySlotctl →
    j < 256 → e < 2 ^ 192 → (∀ p, p < 32 → e / 2 ^ (6 * p) % 64 < 0x20 ∨ 0x3E ≤ e / 2 ^ (6 * p) % 64) → tick < 2 ^ 64 →
    t.payload = leBytes 8 j ++ leBytes 32 e ++ leBytes 8 tick → t.subop = 3 →
    let r := t.dst.die
    let off := if (s.router r).actBank then 0 else 256
    (t.priv = true → ∃ x : State, exec (.slotctl t) s = .next (x.answer t stOk)
      ∧ (x.router r).swapTick = some tick ∧ (x.router r).actBank = (s.router r).actBank
      ∧ (∀ n, SMap.get slotDefault (x.router r).slots n
          = if n = off + j then BitVec.ofNat 256 e else SMap.get slotDefault (s.router r).slots n)
      ∧ ∀ q, q ≠ r → x.router q = s.router q)
    ∧ (t.priv = false → exec (.slotctl t) s = .next ((s.unwire t).answer t stPerm)))
  ∧ ∀ (s : State) (r port : Nat),
    (∀ n, (s.router r).swapTick = some n → n ≤ s.pkg.ticks →
      exec (.slotBankSwap r) s = .next (s.updRouter r fun x => { x with actBank := !x.actBank, swapTick := none }))
    ∧ (∀ n, (s.router r).swapTick = some n → s.pkg.ticks < n → exec (.slotBankSwap r) s = .next s)
    ∧ exec (.fscDropsRead r) s
      = .next ((s.tell (.completion stOk (leBytes 8 (fscWord (s.router r))))).updRouter r fun x => { x with drops := 0 })
    ∧ (∃ x : State, exec (.linkReplay port) s = .next x ∧ (x.port port).replays = (s.port port).replays + 1
        ∧ x.smcLog = s.smcLog ++ [.lane port 0] ∧ x.wire = s.wire ∧ x.routers = s.routers
        ∧ ((x.port port).swap = (s.port port).swap ∨ (s.port port).swap = none ∧ ∃ l, l < 8 ∧ (x.port port).swap = some l))
    ∧ (∀ l, s.pkg.swapReady = true → (s.port port).swap = some l → (s.port port).lane = none → ∃ x : State,
        exec (.liveLaneSwap port) s = .next x ∧ (x.port port).lane = some l ∧ (x.port port).swap = none
        ∧ (x.port port).half = (s.port port).half ∧ x.routers = s.routers ∧ x.wire = s.wire)
    ∧ (s.pkg.swapReady = true → (s.port port).swap ≠ none → (s.port port).lane ≠ none →
        exec (.liveLaneSwap port) s = exec (.portHalfRate port) s)
    ∧ (s.pkg.swapReady = false ∨ (s.port port).swap = none → exec (.liveLaneSwap port) s = .next s)
    ∧ (∃ x : State, exec (.portHalfRate port) s = .next x ∧ (x.port port).half = true ∧ (x.router (if port < 9 then 12 else 13)).degraded = true
        ∧ x.wire = s.wire)
    ∧ ∃ x : State, exec (.shevisLinkLoss port) s = .next x ∧ (x.port port).up = false ∧ x.smcLog = s.smcLog ++ [.lane port 3] ∧ x.wire = s.wire

/-- APPEND completes at the holder: with its page present and no buddy the position's record is written and OK answered; with a
buddy the record goes on as a MIRROR and the answer waits; MIRROR writes the record it carries (R58, R72). RINGBLK writes a record
at a physical address that its PTAG owns (R60, R350). Every other byte of HBM keeps its value. PMTSET completes by fetching the
image from the sender's package in six LOADs, PMTREAD by writing the committed image there in six STOREs, each with its answer
held; a commit notice, a PMTSET with image address 0, commits the image that the coordinator's replica holds and answers its
generation, as PMTREAD does for the image that it wrote (R54, R60, R422). The pieces' sizes are the model's (log 33). -/
def Obligations.AppendsAndMapsArrive : Prop :=
  ((∀ (s : State) (t : Txn) (r : Pmt) (va lvl leaf : Nat) (st : Stripe), s.ckpts = [] → Arrives s t → isNma t.dst = true → HasReplica s t 2 r →
    t.gen = pmtGen r.image → s.appendWaits t false = false → s.appendPlace t r.image false = some (va, st) →
    s.nmaLeaf (stackOf t.dst) t.ptag va = some (lvl, leaf) → s.ownPage (stackOf t.dst) t.ptag lvl leaf = true →
    let bs := appendRecord t r.image
    let pa := pteAddr leaf + va % 65536
    (st.bstate = 0 → ∃ x : State, exec (.append t) s = .next (x.answer t stOk) ∧ (∀ a, hbmAt x a = wrote pa bs a (hbmAt s a)) ∧ x.wire = takeWire t s.wire)
    ∧ (st.bstate ≠ 0 → ∃ (x : State) (o : Outst), exec (.append t) s = .next x ∧ (∀ a, hbmAt x a = wrote pa bs a (hbmAt s a))
        ∧ x.outst = s.outst ++ [o] ∧ o.txn.ty = tyAttreq ∧ o.txn.subop = 3 ∧ o.txn.dst = nmaEp st.bpkg st.bmd ∧ o.txn.gen = t.gen
        ∧ o.txn.payload = t.payload.take 12 ++ leBytes 4 0 ++ bs))
  ∧ (∀ (s : State) (t : Txn) (r : Pmt) (va lvl leaf : Nat) (st : Stripe), s.ckpts = [] → Arrives s t → isNma t.dst = true → HasReplica s t 3 r →
    t.gen = pmtGen r.image → s.appendWaits t true = false → s.appendPlace t r.image true = some (va, st) →
    s.nmaLeaf (stackOf t.dst) t.ptag va = some (lvl, leaf) → s.ownPage (stackOf t.dst) t.ptag lvl leaf = true →
    ∃ x : State, exec (.mirror t) s = .next (x.answer t stOk)
      ∧ (∀ a, hbmAt x a = wrote (pteAddr leaf + va % 65536) ((t.payload.drop 16).take 1024) a (hbmAt s a)))
  ∧ ∀ (s : State) (t : Txn) (r : Pmt), Arrives s t → 4 ≤ t.dst.die → t.dst.die < 12 → t.dst.ep < 5 → HasReplica s t 6 r → Txn.len t = 65 →
    (s.ownerOk t.ptag t.addr = true → ∃ x : State, exec (.ringblk t) s = .next (x.answer t stOk)
      ∧ (∀ a, hbmAt x a = wrote t.addr ((t.payload.drop 16).take 1024) a (hbmAt s a)))
    ∧ (s.ownerOk t.ptag t.addr = false → exec (.ringblk t) s = .next ((s.unwire t).answer t stPerm)))
  ∧ ((∀ (s : State) (t : Txn), Arrives s t → isNma t.dst = true ∨ isMerge t.dst = true → t.ty = tyAttreq → t.subop = 5 → Txn.len t = 1 →
    imageAt t ≠ 0 → ∃ (x : State) (f : Fetch), exec (.pmtset t) s = .next x ∧ x.fetches = s.fetches ++ [f] ∧ f.txn = t ∧ f.left = 6
      ∧ x.pmts = s.pmts ∧ x.hbm = s.hbm
      ∧ x.outst.map (fun o => (o.txn.ty, o.txn.dst.pkg, o.txn.addr, 2 ^ o.txn.subop)) = s.outst.map (fun o => (o.txn.ty, o.txn.dst.pkg, o.txn.addr, 2 ^ o.txn.subop))
          ++ [(0, 2048), (2048, 2048), (4096, 2048), (6144, 2048), (8192, 512), (8704, 64)].map fun p => (tyLoad, t.src.pkg, imageAt t + p.1, p.2))
  ∧ (∀ (s : State) (t : Txn) (r : Pmt) (img : List Byte), Arrives s t → isNma t.dst = true ∨ isMerge t.dst = true → HasReplica s t 4 r →
    r.committed = some img → Txn.len t = 1 →
    ∃ (x : State) (f : Fetch), exec (.pmtread t) s = .next x ∧ x.fetches = s.fetches ++ [f] ∧ f.txn = { t with gen := pmtGen img } ∧ f.left = 6
      ∧ x.hbm = s.hbm
      ∧ x.outst.map (fun o => (o.txn.ty, o.txn.dst.pkg, o.txn.addr, o.txn.payload)) = s.outst.map (fun o => (o.txn.ty, o.txn.dst.pkg, o.txn.addr, o.txn.payload))
          ++ [(0, 2048), (2048, 2048), (4096, 2048), (6144, 2048), (8192, 512), (8704, 64)].map fun p =>
            (tyStore, t.src.pkg, imageAt t + p.1, (img.drop p.1).take p.2))
  ∧ ∀ (s : State) (t : Txn) (r : Pmt), Arrives s t → isMerge t.dst = true → HasReplica s t 5 r → Txn.len t = 1 → imageAt t = 0 →
    s.isCoord t.dst r.image = true → t.priv = true ∨ t.src.pkg = pmtCoord r.image ∨ t.src.pkg = pmtDeputy r.image →
    leNat ((t.payload.drop 4).take 4) = pmtGen r.image →
    ∃ x : State, exec (.pmtCommitNotice t) s = .next (x.answer t stOk [] (pmtGen r.image))
      ∧ (∀ e n, x.replica e n = if pmtKey e n = pmtKey t.dst (leNat (t.payload.take 4)) then some { r with committed := some r.image }
          else s.replica e n)
      ∧ x.hbm = s.hbm)

/-- QUERY completes at the holder of a stripe: with every page of the range present it answers OK and then sends the partial of
the stripe's positions to the stripe's parent in the tree, or to the reply endpoint (R60, R63, R64). A foreign generation is
answered STALE, an unknown SEQID MALFORMED (R55, R60), and a query outside its arena MALFORMED with an INVAL partial after it
(R58, R61). PARTIAL completes at a merge unit: the first child of a node waits in a buffer, the second meets it and the merge of
left and right goes on (R49, R69); a record under another generation is answered STALE and its requester told (R70). At the
requester the record ends the query with its TAG and generation, and others are discarded (R70). -/
def Obligations.QueriesAndPartialsArrive : Prop :=
  ((∀ (s : State) (t : Txn) (r : Pmt) (st : Stripe) (j : Nat) (pa : Nat → Nat), Arrives s t → isNma t.dst = true → s.nmaHeld t = false →
    HasReplica s t 1 r → t.gen = pmtGen r.image → s.queryBad t r.image = false → NoDirty s →
    s.heldStripes t.dst r.image = [(st, j)] → st.lost = false →
    let img := r.image
    let a := max st.first (payNat t 8 4)
    let b := min st.last (payNat t 12 4)
    let p0 := (a - st.base) / 64
    let pages := if a < b then (List.range ((b - 1 - st.base) / 64 + 1 - p0)).map (p0 + ·) else []
    let va := fun pg => arenaVa (s.arena (stackOf t.dst) (pmtPtag img)) (st.hslot + payNat t 4 2) (64 * pg)
    let ps := pages.flatMap fun pg => s.pagePositions img st.base pg a b (pa pg)
    (∀ pg ∈ pages, s.pagePa (stackOf t.dst) (pmtPtag img) (va pg) = some (pa pg)) → (ps.all fun p => !p.keyBad && !p.valBad) = true →
    ∃ x : State, exec (.query t) s = .next (x.emit t.dst img (.stripe j)
        (computePartial ((List.range (pmtD img)).map fun c => payNat t (32 + 2 * c) 2) (payNat t 16 4) (pmtD img) (pmtKvfmt img) ps false)
        (payNat t 20 4) t.tag t.gen t.stream)
      ∧ { x with xlc := s.xlc } = (s.unwire t).answer t stOk [] (pmtGen img))
  ∧ (∀ (s : State) (t : Txn) (r : Pmt) (st : Stripe) (j : Nat), Arrives s t → isNma t.dst = true → s.nmaHeld t = false →
    HasReplica s t 1 r → t.gen = pmtGen r.image → s.queryBad t r.image = true → s.heldStripes t.dst r.image = [(st, j)] → st.lost = false →
    exec (.query t) s = .next (((s.unwire t).answer t stMalformed).emit t.dst r.image (.stripe j) (PRec.mkInval (pmtD r.image) false)
      (payNat t 20 4) t.tag t.gen t.stream))
  ∧ (∀ (s : State) (t : Txn) (r : Pmt), Arrives s t → isNma t.dst = true → s.nmaHeld t = false → HasReplica s t 1 r →
    t.gen ≠ pmtGen r.image → exec (.query t) s = .next ((s.unwire t).answer t stStale [] (pmtGen r.image)))
  ∧ (∀ (s : State) (t : Txn), Arrives s t → isNma t.dst = true → s.nmaHeld t = false → t.ty = tyAttreq → t.subop = 1 →
    s.replica t.dst (leNat (t.payload.take 4)) = none → exec (.query t) s = .next ((s.unwire t).answer t stMalformed))
  ∧ ∀ (s : State) (src : Ep) (img : List Byte) (el : Elem) (r : PRec) (reply tag gen stream : Nat),
    let par := (pmtTree (pmtN img)).2.find? fun p => p.1 == el
    let ep := match par with | some p => pmtNode img p.2.1 | none => replyEp reply
    ∃ w, w.ty = tyPartial ∧ w.src = src ∧ w.dst = ep ∧ w.ptag = pmtPtag img ∧ w.gen = gen ∧ w.tag = tag % 65536
      ∧ w.subop = (match par with | some p => p.2.1 | none => 0xFF)
      ∧ w.payload = PRec.bytes { r with side := (match par with | some p => p.2.2 | none => false) }
      ∧ (s.emit src img el r reply tag gen stream).wire = s.wire ++ [(0, w)])
  ∧ ((∀ (s : State) (t : Txn) (r : Pmt), Arrives s t → t.ty = tyPartial → isMerge t.dst = true → recordLen t = true → s.mergeFull t = false →
    s.replica t.dst (t.addr / 2 ^ 20 % 2 ^ 32) = some r → t.ptag = pmtPtag r.image →
    let b := bufOf t
    (t.gen = pmtGen r.image → t.subop + 1 < pmtN r.image → pmtNode r.image t.subop = t.dst →
      childDead r.image t.subop true = false → childDead r.image t.subop false = false →
      ((s.mergeBufs t.dst).find? (sameNode b) = none →
        exec (.partialArrive t) s = .next (((s.unwire t).setMergeBufs t.dst (s.mergeBufs t.dst ++ [b])).answer t stOk))
      ∧ ∀ o, (s.mergeBufs t.dst).find? (sameNode b) = some o → o.side ≠ b.side →
        let me := PRec.ofBytes t.payload
        let other := PRec.ofBytes o.record
        exec (.partialArrive t) s
          = .next ((((s.unwire t).setMergeBufs t.dst ((s.mergeBufs t.dst).filter fun x => !sameNode b x)).answer t stOk).emit t.dst r.image
              (.node t.subop) (if b.side = 0 then mergeRec me other else mergeRec other me) b.reply t.tag t.gen t.stream))
    ∧ (t.gen ≠ pmtGen r.image → ∃ x : State, exec (.partialArrive t) s = .next x ∧ x.hbm = s.hbm ∧ x.merges = s.merges
        ∧ ∃ o, x.outst = s.outst ++ [o] ∧ o.txn.ty = tyPartial ∧ o.txn.subop = 0xFF ∧ o.txn.dst = replyEp (t.addr % 2 ^ 20)))
  ∧ ∀ (s : State) (t : Txn) (k : Nat), Arrives s t → t.ty = tyPartial → t.subop = 0xFF → coreOfEp t.dst = some k →
    ∃ x : State, exec (.partialToReply t) s = .next x ∧ x.hbm = s.hbm
      ∧ (x.core k).tags = (s.core k).tags.map (fun y =>
          if y.tag = t.tag ∧ y.gen = t.gen ∧ y.done = false then { y with done := true, record := t.payload } else y)
      ∧ { x.core k with tags := (s.core k).tags } = s.core k ∧ ∀ q, q ≠ k → x.core q = s.core q)

end

namespace Sys2Proof.Claims

open Sys2Proof.Machine

/-! ### What happens in a context -/

/-- A context that waits or is about to issue takes a trap: nothing waits for it any more, and the trap is taken (R180). -/
def trapped (s : State) (k i : Nat) (t : TrapInfo) : State :=
  { (((s.as k i).updMe fun c => { c with pause := .none, hold := none }).updMe fun c => { c with raiseNow := true }).takeTrap k i t with bnd := {} }
/-- The state with context `i` of core `k` no longer waiting. -/
def woken (s : State) (k i : Nat) : State := s.updCx k i fun c => { c with pause := .none }
/-- The two results of a wait are expected in b0 and b1 of qu, and nothing else is. -/
def Expects (s : State) (k i id : Nat) (q0 q1 : QRes) : Prop :=
  i < 4 ∧ s.joinsAt k i 15 0 = [q0] ∧ s.joinsAt k i 15 1 = [q1] ∧ q0.id = id ∧ q1.id = id
/-- They are there, with their values. -/
def Got (x : State) (k i : Nat) (q0 q1 : QRes) (v0 v1 : Nat) : Prop :=
  x.joinsAt k i 15 0 = [{ q0 with done := true, val := natVal v0, fault := none }]
  ∧ x.joinsAt k i 15 1 = [{ q1 with done := true, val := natVal v1, fault := none }]

end Sys2Proof.Claims

section

open Sys2Proof Sys2Proof.Machine Sys2Proof.Claims

/-! ### Contexts -/

/-- What a paused context waits for comes (R125, R133, R135, R139, R148, R167): late data enters its flight, or its bypass
register where it is due; a join whose results are done goes on; a walk loads its translation or notes its fault; a drain with
nothing left ends, and before sends out what waits in the write-combining buffer and the L2; a vector fills the random buffer; the
members of a group that all stand at their rendezvous issue at the largest of their counts. The bounds of a context (R192, R201,
R353): at the watchdog limit WATCHDOG is raised with the count and the limit, at the limit of a holding wait its QTIMEOUT; context
0 of a stream core has no watchdog; the 513th bundle of a segment commits it and opens the next. An empty bundle ends like any
other (R258). -/
def Obligations.WaitsAndBoundsEnd : Prop :=
  ((∀ (s : State) (k i : Nat) (f : Flight), i < 4 → (s.cx k i).flights = [f] → f.late = true → f.unit ≠ 16 → f.src = none → (s.cx k i).wrote = [] →
    (∀ key, f.tag = some key → s.waiting key = false) → (s.cx k i).pause = (if f.remain = 0 then .late else .none) →
    (f.remain ≠ 0 → ∃ x : State, exec (.lateResultArrival k i) s = .next x ∧ (x.cx k i).flights = [{ f with late := false }]
      ∧ (x.cx k i).pause = .none)
    ∧ (f.remain = 0 → ∀ b, f.byp = some b → b < 4 → f.lend = 0xFF → f.fault = none →
      ∃ x : State, exec (.lateResultArrival k i) s = .next x ∧ (x.cx k i).flights = [] ∧ x.bypAt k i f.unit b = f.val ∧ (x.cx k i).pause = .none))
  ∧ (∀ (s : State) (k i key : Nat), (s.cx k i).pause = .join key → (∀ q ∈ s.joinsAt k i (key / 4) (key % 4), q.done = true) →
    exec (.joinResultReady k i) s = .next (woken s k i))
  ∧ (∀ (s : State) (k i va acc slot : Nat), i < 4 → (s.cx k i).pause = .xlate va acc slot →
    (∀ lvl ea leaf, s.walk (s.ptagOf k) va = .ok (lvl, ea, leaf) → ∃ (x : State) (rest : List Tlb), exec (.translationComplete k i) s = .next x
      ∧ (x.cx k i).pause = .none
      ∧ (x.cluster (clusterOf k)).tlb = { ptag := s.ptagOf k, base := va / pageSize lvl * pageSize lvl, size := pageSize lvl, leaf := leaf, pinned := false } :: rest)
    ∧ (∀ e, s.walk (s.ptagOf k) va = .error e → ∃ x : State, exec (.translationComplete k i) s = .next x
      ∧ (x.cx k i).pause = .none ∧ va / 65536 ∈ (x.cx k i).xok ∧ x.clusters = s.clusters))
  ∧ (∀ (s : State) (k i scope mask : Nat), (s.cx k i).pause = .drain scope mask →
    (s.unsettled k i scope mask = false → exec (.drainComplete k i) s = .next (woken s k i))
    ∧ (s.unsettled k i scope mask = true → exec (.drainComplete k i) s = .next (s.pushOut k scope)))
  ∧ (∀ (s : State) (k i need : Nat), i < 4 → (s.cx k i).pause = .rnd need →
    ∃ x : State, exec (.randomVectorAvailable k i) s = .next x ∧ (x.cx k i).rqbuf = min 4 ((s.cx k i).rqbuf + 1)
      ∧ ((x.cx k i).pause = .none ↔ min need 4 ≤ min 4 ((s.cx k i).rqbuf + 1)))
  ∧ ∀ (s : State) (k : Nat), (s.core k).point.isSome = true → k ∈ s.gangCores k →
    (∀ q ∈ s.gangCores k, (s.cx q 0).pause = .rdv ∧ (s.cx q 0).run = .running) →
    ∃ (x : State) (v : Nat), exec (.rendezvousComplete k) s = .next x ∧ (∀ q ∈ s.gangCores k, (s.cx q 0).vcc ≤ v)
      ∧ (v = 0 ∨ ∃ q ∈ s.gangCores k, (s.cx q 0).vcc = v)
      ∧ (∀ q ∈ s.gangCores k, x.cx q 0 = { s.cx q 0 with vcc := v, pause := .none, rdvPass := true, desync := false })
      ∧ ∀ q, q ∉ s.gangCores k → x.cx q 0 = s.cx q 0)
  ∧ ((∀ (s : State) (k i : Nat), (s.cx k i).run = .running → (s.cx k i).pause = .none →
    let l := (s.part (s.ptagOf k)).wdlim
    (l ≠ 0 → l ≤ (s.cx k i).wd → (160 ≤ k → i ≠ 0) → exec (.watchdogExpire k i) s
      = .next (trapped s k i { cause := 0x0C, d := [BitVec.ofNat 64 (s.cx k i).wd, BitVec.ofNat 64 l] }))
    ∧ (l = 0 ∨ (s.cx k i).wd < l ∨ 160 ≤ k ∧ i = 0 → exec (.watchdogExpire k i) s = .next s))
  ∧ (∀ (s : State) (k i : Nat) (t : TrapInfo), (s.cx k i).pause = .limit t → t.cause ≠ 0x0E →
    exec (.holdingWaitTimeout k i) s = .next (trapped s k i t))
  ∧ (∀ (s : State) (k : Nat) (g : Seg), SMap.find s.segs k = some g → 512 ≤ g.bundles → g.stores = [] →
    ∃ (x : State) (h : Seg), exec (.segmentBundleLimit k) s = .next x ∧ SMap.find x.segs k = some h ∧ h.bundles = 0 ∧ h.stores = []
      ∧ h.ctx = g.ctx ∧ h.entry = s.cx k g.ctx ∧ x.hbm = s.hbm ∧ x.cores = s.cores)
  ∧ ∀ s : State, s.bnd.live = true → exec .emptyBundle s = .next s.finishBundle)

/-- A queued activation starts in its context where context 0 is idle or stands at a suspension point (R130, R131): its entry, the
payload's address and length and the sender's place in arg0 to arg2, the random counter of R138, every register 0. A monitored
wait on a scratchpad word ends with the word in b0 and the reason in b1, after an acquire of its scope, or of system scope where
the host has written the line (R177, R376): 0 when its line has been written, 2 when its tick limit has passed, 3 when it polls
and the poll is taken; else it goes on. On memory of another package the word is asked for. -/
def Obligations.ActivationsAndMonitors : Prop :=
  (∀ (s : State) (k : Nat) (a : Activation), s.actMayStart k = true → (s.core k).acts.find? (fun a => a.running.isNone) = some a → a.hint < 3 →
    let i := if a.hint = 0 then (if (s.core k).cx1.run = .idle then 1 else 2) else a.hint
    ∃ x : State, exec (.handlerActivationStart k) s = .next x
      ∧ (x.cx k i).run = .running ∧ (x.cx k i).pause = .none ∧ (x.cx k i).pc = a.handler.toNat / 16 ∧ (x.cx k i).upc = 0
      ∧ (x.cx k i).argv 0 = a.addr ∧ (x.cx k i).argv 1 = BitVec.ofNat 64 a.len
      ∧ (x.cx k i).argv 2 = BitVec.ofNat 64 (a.txn.src.pkg * 2 ^ 16 + a.txn.src.die * 2 ^ 8 + a.txn.src.ep)
      ∧ (x.cx k i).rqkey = (s.part (s.ptagOf k)).rngseed ∧ (x.cx k i).rqpos = BitVec.ofNat 64 ((4 + i) * 2 ^ 56)
      ∧ (∀ j, (x.cx k i).getS j = 0) ∧ (∀ j, (x.cx k i).getA j = 0) ∧ (∀ j, j < 4 → j ≠ i → x.cx k j = s.cx k j)
      ∧ (x.core k).acts = (s.core k).acts.map (fun (y : Activation) => if y = a then { y with running := some i } else y)
      ∧ x.hbm = s.hbm ∧ ∀ q, q ≠ k → x.core q = s.core q)
  ∧ (∀ (s : State) (k i : Nat) (m : Monitor) (q0 q1 : QRes), s.monitorOf k i = some m → Expects s k i m.id q0 q1 →
    (∀ q off, m.tgt = .sp q off → q < 416 → off + 8 ≤ spSize → poisoned (s.core q).spPoison off 8 = false →
      let w := leNat (s.spRead q off 8)
      let ended := fun (x : State) (why : Nat) => Got x k i q0 q1 w why
        ∧ (1 ≤ m.scope ∨ m.host = true → (x.core k).l1 = {} ∧ (x.core k).icache = {})
        ∧ (∀ n ∈ (x.die (dieOf k)).monitors, n.id ≠ m.id) ∧ x.hbm = s.hbm
      (m.woken = true → ∃ x : State, exec (.mwaitWake k i) s = .next x ∧ ended x 0)
      ∧ (m.woken = false → exec (.mwaitWake k i) s = .next s)
      ∧ (∀ l, m.limit = some l → l ≤ s.pkg.ticks → ∃ x : State, exec (.mwaitTimeout k i) s = .next x ∧ ended x 2)
      ∧ (∀ l, m.limit = some l → s.pkg.ticks < l → exec (.mwaitTimeout k i) s = .next s)
      ∧ (m.polling = true → ∃ x : State, exec (.mwaitPoll k i) s = .next x ∧ (x = s ∨ ended x 3)))
    ∧ (∀ pkg pa ma, m.tgt = .remote pkg pa ma → pkg < 256 → pa < 2 ^ 52 → m.polling = true → s.polling k i 0x42 = false →
      ∃ (x : State) (o : Outst), exec (.mwaitPoll k i) s = .next x ∧ x.outst = s.outst ++ [o] ∧ o.txn.ty = tyLoad ∧ o.txn.subop = 3
        ∧ o.txn.dst = llcEp pkg pa ∧ o.txn.addr = pa ∧ x.cores = s.cores ∧ x.hbm = s.hbm))

/-- Errors of memories and latches (R210, Table 3): a corrected one is counted and logged and changes nothing else; an uncorrectable one marks
its unit of memory, drops a clean line, raises UE with its structure in the context that consumes it, or is a machine check. A signature
mismatch of a pair rewinds its segment once, and the second is a machine check (R206 to R208). -/
def Obligations.ErrorsHandled : Prop :=
  (∀ (s : State) (k i n off pa : Nat),
    let hard := fun site => exec (.softError { site := site, single := false }) s
    let soft := fun site => exec (.softError { site := site, single := true }) s
    let counted := fun n => .next ((s.updCore k fun c => { c with corrected := c.corrected + 1 }).log (.corrected n k))
    ((s.core k).corrected < 16 →
      soft (.scratchpad k off) = counted 1 ∧ soft (.regFile k i) = counted 2 ∧ soft (.accum k n) = counted 3 ∧ soft (.segStore k) = counted 10)
    ∧ soft (.hbm pa) = .next (s.log (.corrected 7 (pa / 2 ^ 36 % 8)))
    ∧ ((s.part (s.ptagOf k)).prot = false → hard (.scratchpad k off) = .next (s.updCore k fun c => { c with spPoison := off / 16 :: c.spPoison }))
    ∧ hard (.hbm pa) = .next { s with hbmPoison := pa / 16 :: s.hbmPoison }
    ∧ hard (.l1 k pa) = .next (s.updCore k fun c => { c with l1 := c.l1.drop pa, icache := c.icache.drop pa })
    ∧ ((∀ x ∈ (s.die n).l2, x.1 / 128 ≠ pa / 128) → hard (.l2 n pa) = .next (s.evictLine n pa))
    ∧ ((∃ x ∈ (s.die n).l2, x.1 / 128 = pa / 128) → ∃ x : State, hard (.l2 n pa) = .next x ∧ poisoned x.hbmPoison (pa / 128 * 128) 128 = true
        ∧ (∀ j, j < 8 → pa / 128 * 8 + j ∈ x.hbmPoison) ∧ { x with hbmPoison := s.hbmPoison } = s)
    ∧ hard (.accum k n) = .next (s.updCore k fun c => { c with accPoison := n :: c.accPoison })
    ∧ ((s.part (s.ptagOf k)).prot = false → SMap.find s.segs k = none → (s.cx k i).run = .running →
      hard (.regFile k i) = .next (trapped s k i { cause := 0x0E, d := [0, 1, 2, 0] })
      ∧ hard (.latch k i) = .next (trapped s k i { cause := 0x0E, d := [0, 3, 9, 0] }))
    ∧ ∃ x : State, hard (.segStore k) = .next x ∧ (x.part (s.ptagOf k)).mchk = true ∧ (x.part (s.ptagOf k)).fenced = true)
  ∧ ∀ (s : State) (c : Nat), let k := s.logical c
    let p := s.ptagOf k
    ((s.part p).prot = false → exec (.pairSignatureMismatch c) s = .next s)
    ∧ ((s.part p).prot = true → ∀ g, SMap.find s.segs k = some g → g.retry = false →
      ∃ w, exec (.pairSignatureMismatch c) s = .next ((s.log (.signature k (s.core k).sigv w)).rewindSeg k))
    ∧ ((s.part p).prot = true → ∀ g, SMap.find s.segs k = some g → g.retry = true →
      ∃ x : State, exec (.pairSignatureMismatch c) s = .next x ∧ (x.part p).mchk = true ∧ (x.part p).fenced = true)
    ∧ ((s.part p).prot = true → SMap.find s.segs k = none → (s.core k).sig = false →
      ∃ w, exec (.pairSignatureMismatch c) s = .next ((s.log (.signature k (s.core k).sigv w)).updCore k fun c => { c with sig := true }))

/-- The checkpoint engine copies one chunk in a step: its 64 KiB leave for the buddy's region in 32 STOREs, in order, and the chunk counts as
copied; a checkpoint whose commit record has been answered ends with CKSTAT 2 and the count of its chunks (R213 to R216). -/
def Obligations.CheckpointsCopy : Prop :=
  ∀ (s : State) (n : Nat) (c : Ckpt), s.ckpts[n]? = some c → c.failed = false →
    (∀ page pa, s.nextChunk c = some page → s.chunkPa c.ptag page = some pa → NoDirty s →
      ∃ (x : State) (os : List Outst), exec (.checkpointEngineCopy n) s = .next x ∧ x.outst = s.outst ++ os ∧ os.length = 32
        ∧ (os.all fun o => o.txn.ty == tyStore && o.txn.dst.pkg == c.bpkg) = true ∧ os.flatMap (·.txn.payload) = s.hbmRead pa 65536
        ∧ (∃ d ∈ x.ckpts, d.id = c.id ∧ page ∈ d.copied) ∧ ∀ k, (x.core k).sp = (s.core k).sp)
    ∧ (s.nextChunk c = none → c.sending = 0 → c.committing = true → ∀ pa ma leaf size, NoDirty s →
      s.xlWalk c.ptag (c.ckdVa + 24) accStore = .ok (.hbm pa ma) leaf size → s.ownerOk c.ptag pa = true → c.copied.length < 2 ^ 32 →
      ∃ x : State, exec (.checkpointEngineCopy n) s = .next x ∧ (∀ d ∈ x.ckpts, d.id ≠ c.id)
        ∧ ∀ a, hbmAt x a = wrote pa (leBytes 8 (2 + c.copied.length * 2 ^ 32)) a (hbmAt s a))

end

namespace Sys2Proof.Claims

open Sys2Proof.Machine

/-! ### Launches and points -/

/-- `n` bytes at a virtual address of a partition lie in scratchpad `q` from an offset on, and may be written. -/
def ToSp (s : State) (ptag va n q off : Nat) : Prop :=
  va % 65536 + n ≤ 65536 ∧ ∀ j, j < n → ∃ leaf size, s.xlWalk ptag (va + j) accStore = .ok (.sp q (off + j)) leaf size
/-- The only core of its group. -/
def Alone (s : State) (k : Nat) : Prop := s.gangCores k = [k]

end Sys2Proof.Claims

section

open Sys2Proof Sys2Proof.Machine Sys2Proof.Claims

/-! ### The scheduler -/

/-- A launch is released at its tick (R109); a point fires only with every dependence met, with a frame of its own, on a cluster
of its set, as a continuation record at the tail of its class (R100, R102, R106); a launch whose points are complete writes its
completion record (R117, R118). The frame counter goes on by one at each tick period unless a launch holds it (R109, R112, R121):
a deadline that arrives before its launch has retired stops it, no tick passing it, or is logged as a slip where deadlines do not
apply; a launch of a partition in reset causes neither (R88); with every holder retired the counter resumes at the next value. -/
def Obligations.LaunchesAndFrameCounter : Prop :=
  ((∀ (s : State) (l : LKey) (x : Launch), s.anyLaunch l = some x → s.launch l = some x → x.timed = true →
    (x.release ≤ s.pkg.ticks → ∃ t : State, exec (.launchRelease l) s = .next t ∧ t.launch l = some { x with released := true } ∧ t.hbm = s.hbm)
    ∧ (s.pkg.ticks < x.release → exec (.launchRelease l) s = .next s))
  ∧ (∀ (s : State) (l : LKey) (x : Launch) (o f : Nat) (cs : List Nat), s.fireable l = some (x, o, f, cs) →
    x.fired.contains o = false ∧ s.isDone l x o = false ∧ (∀ j, j < x.ndep → s.depMet l x (x.coords o) j = true)
    ∧ (∀ y ∈ x.frames, y.1 ≠ f) ∧ f < x.nframe ∧ (∀ c ∈ cs, bitOf x.clset c = true)
    ∧ ∀ cl, cs = [cl] → x.nkern = 1 → (s.cluster cl).ready.length < 256 →
      ∃ (t : State) (y : Launch) (r : Ready), exec (.pointFire l) s = .next t
        ∧ t.launch l = some y ∧ y.fired = x.fired ++ [o] ∧ y.frames = x.frames ++ [(f, o)]
        ∧ (t.cluster cl).ready = (s.cluster cl).ready ++ [r] ∧ r.cls = x.tokens / 4 ∧ r.since = s.pkg.ticks
        ∧ r.cr.pc = x.entry 0 ∧ (r.cr.x, r.cr.y, r.cr.z) = x.coords o ∧ r.cr.lid = l.lid ∧ r.cr.prio = x.tokens ∧ r.cr.gang = 0
        ∧ r.cr.frame = x.area + x.froff + 64 * x.framesz * f ∧ r.cr.args = (x.words.drop 10).take 4 ∧ r.cr.state = 2
        ∧ t.hbm = s.hbm ∧ t.cores = s.cores)
  ∧ (∀ (s : State) (l : LKey), s.fireable l = none → exec (.pointFire l) s = .next s)
  ∧ ∀ (s : State) (l : LKey) (x : Launch) (q off : Nat), s.launch l = some x → s.anyLaunch l = some x → s.mayRetire l = true → x.bad = none →
    s.ckpts = [] → (s.die l.die).pending = [] → (∀ y ∈ (s.die l.die).launches, y.2.pred = some l → y.2.countVa = none) →
    ToSp s l.ptag x.compaddr 64 q off → s.spOk l.ptag q = true →
    let words := [x.lid + (if x.nfault = 0 then 0 else 2) * 2 ^ 16 + 2 ^ 63, x.done, x.nfault + x.ndrop * 2 ^ 32, x.fcause + x.fpoint * 2 ^ 16,
                  x.nslip + x.npreempt * 2 ^ 32, x.firstTick.getD 0, s.pkg.ticks, 0]
    ∃ t : State, exec (.launchRetire l) s = .next t ∧ t.launch l = none ∧ t.hbm = s.hbm
      ∧ (∀ a, spAt t q a = wrote off (words.flatMap (leBytes 8)) a (spAt s q a)) ∧ ∀ k, k ≠ q → (t.core k).sp = (s.core k).sp)
  ∧ ((∀ s : State,
    ((s.deadlines).pkg.stoppers = [] → ∃ t : State, exec .frameTick s = .next t ∧ t.pkg.ticks = s.pkg.ticks + 1 ∧ t.pkg.nextTickNs = none
      ∧ t.pkg.tickNs = (s.pkg.nextTickNs.getD s.pkg.tickNs) ∧ t.hbm = s.hbm ∧ t.cores = s.cores)
    ∧ ((s.deadlines).pkg.stoppers ≠ [] → ∃ t : State, exec .frameTick s = .next t ∧ t.pkg.ticks = s.pkg.ticks ∧ t.hbm = s.hbm ∧ t.cores = s.cores)
    ∧ (s.pkg.stoppers ≠ [] → (s.deadlines).pkg.stoppers ≠ [])
    ∧ (∀ (l : LKey) (x : Launch), l.die < 4 → s.anyLaunch l = some x → x.hasdl = true → x.dlDone = false → x.deadline ≤ s.pkg.ticks →
        s.deadlinesApply l.ptag = true → (s.part l.ptag).state ≠ 2 → (s.deadlines).pkg.stoppers ≠ [])
    ∧ (s.pkg.stoppers ≠ [] → (∀ y ∈ s.pkg.stoppers, y.retired = true) →
        ∃ t : State, exec .frameCounterResume s = .next t ∧ t.pkg.ticks = s.pkg.ticks + 1 ∧ t.pkg.stoppers = [])
    ∧ (∀ y ∈ s.pkg.stoppers, y.retired = false → exec .frameCounterResume s = .next s))
  ∧ ∀ (s : State) (l : LKey) (x : Launch), s.anyLaunch l = some x → x.hasdl = true → x.dlDone = false →
    (x.deadline ≤ s.pkg.ticks → (s.part l.ptag).state ≠ 2 → s.deadlinesApply l.ptag = true → ∃ t : State, exec (.deadlineArrival l) s = .next t
      ∧ t.pkg.stoppers = s.pkg.stoppers ++ [{ l := l, deadline := x.deadline }] ∧ t.pkg.ticks = s.pkg.ticks)
    ∧ (x.deadline ≤ s.pkg.ticks → (s.part l.ptag).state = 2 → ∃ t : State, exec (.deadlineArrival l) s = .next t
      ∧ t.pkg = s.pkg ∧ t.smcLog = s.smcLog)
    ∧ (x.deadline ≤ s.pkg.ticks → (s.part l.ptag).state ≠ 2 → s.deadlinesApply l.ptag = false → ∃ t : State, exec (.deadlineArrival l) s = .next t
      ∧ t.pkg = s.pkg ∧ t.smcLog = s.smcLog ++ [.slip l.ptag l.lid x.deadline 0])
    ∧ (s.pkg.ticks < x.deadline → exec (.deadlineArrival l) s = .next s))

/-- An idle core takes the head of the highest class of its cluster's queue and starts it with the values of R137 and R138 (R104): its PC, its
arguments, the random key and counter of its point. Entries that have waited AGEQ ticks move up one class; a hold that has lasted 50 us
ends with one failure more, until there are four (R104, R111). -/
def Obligations.CoresTakeWork : Prop :=
  (∀ (s : State) (k : Nat) (r : Ready), s.coreFree k = true → (∀ y ∈ (s.cluster (clusterOf k)).ready, y.cls ≤ r.cls) → r.cls ≤ 3 →
    (s.cluster (clusterOf k)).ready.find? (fun y => y.cls == r.cls) = some r →
    s.runs r.cr.ptag = true → r.cr.gang = 0 → (s.cluster (clusterOf k)).hold = none → (s.cluster (clusterOf k)).overflow = [] → r.cr.flags < 3 →
    let c := r.cr
    ∃ (x : State) (p : Point), exec (.readyQueueDispatch k) s = .next x
      ∧ (x.cluster (clusterOf k)).ready = (s.cluster (clusterOf k)).ready.erase r
      ∧ (x.core k).point = some p ∧ p.l = ⟨c.die, c.ptag, c.lid⟩ ∧ (p.x, p.y, p.z) = (c.x, c.y, c.z) ∧ p.kidx = c.flags ∧ p.frame = c.frame
      ∧ (x.cx k 0).run = .running ∧ (x.cx k 0).pause = .none ∧ (x.cx k 0).pc = c.pc ∧ (x.cx k 0).upc = c.upc ∧ (x.cx k 0).vcc = 0
      ∧ (∀ j, j < 4 → (x.cx k 0).argv j = c.args.getD j 0) ∧ (∀ j, (x.cx k 0).getS j = 0) ∧ (∀ j, (x.cx k 0).getA j = 0)
      ∧ (∀ j, (x.core k).getV j = 0)
      ∧ (x.cx k 0).rqkey = ((s.part c.ptag).rngseed ^^^ BitVec.ofNat 64 (c.lid * 2 ^ 48) ^^^ BitVec.ofNat 64 (c.x * 2 ^ 32)
          ^^^ BitVec.ofNat 64 (c.y * 2 ^ 16) ^^^ BitVec.ofNat 64 c.z)
      ∧ (x.cx k 0).rqpos = BitVec.ofNat 64 (c.flags * 2 ^ 56)
      ∧ x.hbm = s.hbm ∧ ∀ q, (x.core q).sp = (s.core q).sp)
  ∧ (∀ (s : State) (k : Nat), s.coreFree k = false → exec (.readyQueueDispatch k) s = .next s)
  ∧ (∀ (s : State) (cl : Nat),
    let aged := fun (r : Ready) => decide ((s.part r.cr.ptag).ageq ≠ 0 ∧ r.cls < 3 ∧ r.since + (s.part r.cr.ptag).ageq ≤ s.pkg.ticks)
    ∃ x : State, exec (.readyQueueAging cl) s = .next x
      ∧ (x.cluster cl).ready = (s.cluster cl).ready.filter (fun r => !aged r)
          ++ ((s.cluster cl).ready.filter aged).map (fun (r : Ready) => { r with cls := r.cls + 1, since := s.pkg.ticks })
      ∧ x.cores = s.cores ∧ x.hbm = s.hbm)
  ∧ ∀ (s : State) (cl : Nat) (h : Hold), (s.cluster cl).hold = some h →
    (h.failures < 4 → ∃ x : State, exec (.gangHoldExpire cl) s = .next x ∧ (x.cluster cl).hold = none
      ∧ (x.cluster cl).ready = (s.cluster cl).ready.filter (fun r => !h.isFor r)
          ++ ((s.cluster cl).ready.filter h.isFor).map (fun (r : Ready) => { r with fails := r.fails + 1 }))
    ∧ (4 ≤ h.failures → exec (.gangHoldExpire cl) s = .next s)

/-- Pre-emption (R114 to R116): by the token counts, the remaining time and the victim's PCLASS a victim drains, is asked to suspend, or is
killed, but for parked points (R189); one whose running points are gone is saved; a point that does not suspend in time is to be frozen; a
saved launch that is taken back from its record has its CRs in the ready queues again, and one whose record fails its check ends (R107). -/
def Obligations.Preemption : Prop :=
  (∀ (s : State) (n v : Launch) (ptag : Nat), let soon := match v.remaining with | some r => decide (r ≤ (s.part ptag).drainth) | none => false
    s.preemptAction n v ptag = if n.tokens ≤ v.tokens then 0 else if soon then 1 else if v.pclass = 1 then 2 else if v.pclass = 2 then 3 else 1)
  ∧ (∀ (s : State) (l vk : LKey) (n v : Launch), s.preemptDue l = true → s.saveDue l = false → s.launch l = some n →
    s.victim n.clset = some (vk, v) → s.launch vk = some v → (s.die vk.die).pending = [] →
    (s.preemptAction n v vk.ptag = 1 → ∃ (x : State) (w : Launch), exec (.preemption l) s = .next x ∧ x.launch vk = some w ∧ l ∈ w.drainFor
      ∧ x.cores = s.cores ∧ x.hbm = s.hbm)
    ∧ (s.preemptAction n v vk.ptag = 2 → ∃ (x : State) (w : Launch), exec (.preemption l) s = .next x ∧ x.launch vk = some w
      ∧ w.preempting = true ∧ w.preemptBy = some l
      ∧ (∀ k ∈ s.coresOf vk, (s.core k).parkedPoint = false → (x.core k).suspReq = true) ∧ x.hbm = s.hbm)
    ∧ (s.preemptAction n v vk.ptag = 3 → ∃ (x : State) (w : Launch), exec (.preemption l) s = .next x ∧ x.launch vk = some w ∧ w.saved = true
      ∧ ∀ k ∈ s.coresOf vk, (s.core k).parkedPoint = false → (x.core k).point = none ∧ (x.cx k 0).run = .idle))
  ∧ (∀ (s : State) (l : LKey), s.saveDue l = true → (s.die l.die).pending = [] → ∃ (x : State) (w : Launch), exec (.preemption l) s = .next x ∧ x.launch l = some w
      ∧ w.saved = true ∧ w.preempting = false)
  ∧ (∀ (s : State) (k : Nat), (s.core k).suspReq = true → (s.core k).point.isSome = true → (s.cx k 0).pause ≠ .suspending →
    ∃ x : State, exec (.suspendTimeout k) s = .next x ∧ (∀ q ∈ s.gangCores k, (x.core q).freezeReq = true) ∧ x.hbm = s.hbm)
  ∧ ∀ (s : State) (l : LKey) (x : Launch), s.takeBackDue l = true → s.launch l = some x → (s.die l.die).pending = [] →
    (∀ c, s.recordOk l x = true → x.evicted = false → (s.readFrontier l x).crs = [c] → c.wait = 0 → c.reserved = false → c.aff < 20 →
      (s.cluster c.aff).ready.length < 256 →
      ∃ (t : State) (y : Launch), exec (.launchTakeBack l) s = .next t ∧ t.launch l = some y ∧ y.saved = false ∧ y.crs = []
        ∧ (∀ d, s.sysWord l.die l.ptag (x.area + 16) = some d → y.done = d)
        ∧ (t.cluster c.aff).ready = (s.cluster c.aff).ready ++ [{ cr := { c with state := 2 }, cls := c.prio / 4, since := s.pkg.ticks }])
    ∧ (s.recordOk l x = false → ∃ t : State, exec (.launchTakeBack l) s = .next t ∧ t.launch l = none
        ∧ .launch l.ptag l.lid 2 ∈ t.smcLog)

/-- A point alone in its group suspends at its suspension point with its block of R196 at its frame, its CR in the next entry of its launch's
list where the list has room (log 81), its core free and a SUSPENDED record in its class; it is frozen with its image in a slot of the freeze area and a FROZEN record of its core; and a frozen record that is restored
has its s and v registers, scratchpad and counts from the image (R196 to R198). -/
def Obligations.SuspendAndRestore : Prop :=
  (∀ (s : State) (k q off q' off' : Nat) (p : Point) (l : Launch), (s.core k).point = some p → Alone s k → s.suspendDue k = true →
    s.suspFault k = none → s.launch p.l = some l → l.preempting = false → s.ckpts = [] → s.spOk p.l.ptag q = true → s.spOk p.l.ptag q' = true →
    ToSp s p.l.ptag p.frame 64 q off → ToSp s p.l.ptag (l.area + 2112 + 8 * l.nrow + 64 * l.crs.length) 64 q' off' →
    (q ≠ q' ∨ off + 64 ≤ off' ∨ off' + 64 ≤ off) → (s.cluster (clusterOf k)).ready.length < 256 →
    let c := s.cx k 0
    let guards := ((List.range 8).map fun j => if c.getG (finOf 8 j) then 2 ^ j else 0).sum
    let block := leBytes 8 c.rqkey.toNat ++ leBytes 8 c.rqpos.toNat ++ leBytes 8 guards ++ leBytes 8 c.vcc ++ leBytes 32 0
    let entry := (s.crOf k p c.pc c.upc 4).toWords.flatMap (leBytes 8)
    ∃ (x : State) (r : Ready), exec (.suspendAtSuspensionPoint k) s = .next x
      ∧ (∀ j, j < 64 → spAt x q (off + j) = block.getD j 0)
      ∧ (l.crs.length < l.nframe → ∀ j, j < 64 → spAt x q' (off' + j) = entry.getD j 0)
      ∧ (∀ m a, ¬ (m = q ∧ off ≤ a ∧ a < off + 64) → ¬ (l.crs.length < l.nframe ∧ m = q' ∧ off' ≤ a ∧ a < off' + 64) → spAt x m a = spAt s m a)
      ∧ (x.core k).point = none ∧ (x.cx k 0).run = .idle
      ∧ (x.cluster (clusterOf k)).ready = (s.cluster (clusterOf k)).ready ++ [r] ∧ r.cr.pc = c.pc ∧ r.cr.upc = c.upc ∧ r.cr.flags = p.kidx + 4
      ∧ r.cr.frame = p.frame ∧ (r.cr.x, r.cr.y, r.cr.z) = (p.x, p.y, p.z) ∧ r.cr.gang = p.gang ∧ x.hbm = s.hbm)
  ∧ (∀ (s : State) (k slot va : Nat) (p : Point) (l : Launch), (s.core k).point = some p → Alone s k → s.freezeDue k = true →
    SMap.find s.segs k = none → s.heldFault k = false → s.freezeSlot p.l.ptag = some (slot, va) → s.sysWritable p.l.ptag va 0x160000 = true →
    s.launch p.l = some l → l.preempting = true →
    ∃ (x : State) (w : Launch) (c : Cr), exec (.freezeSave k) s = .next x ∧ (x.core k).point = none ∧ (x.cx k 0).run = .idle
      ∧ (x.part p.l.ptag).frzUsed = slot :: (s.part p.l.ptag).frzUsed ∧ x.launch p.l = some w ∧ w.crs = l.crs ++ [c]
      ∧ c.flags = p.kidx + 8 ∧ c.image = va ∧ c.pc = va / 65536 ∧ c.home = some k ∧ c.frame = p.frame)
  ∧ ∀ (s : State) (k : Nat) (c : Cr) (img : List Byte), s.restoreGroup k = some [(k, c, img)] →
    let w := fun off n => leNat ((img.drop off).take n)
    ∃ (x : State) (p : Point), exec (.frozenRestore k) s = .next x ∧ (x.core k).point = some p ∧ p.l = ⟨c.die, c.ptag, c.lid⟩ ∧ p.frame = c.frame
      ∧ (x.core k).restore = none ∧ (x.cx k 0).run = .running ∧ (x.cx k 0).pause = .none ∧ (x.cx k 0).pc = w 8 8 % 2 ^ 48
      ∧ (x.cx k 0).vcc = w 16 8 ∧ (x.cx k 0).wd = w 56 8 ∧ (∀ j, j < 4 → (x.cx k 0).argv j = c.args.getD j 0)
      ∧ (∀ j, (x.core k).getV j = BitVec.ofNat 1024 (w (0x4000 + 128 * j.val) 128))
      ∧ (∀ a, a < spSize → spAt x k a = img.getD (0xA0000 + a) 0) ∧ x.hbm = s.hbm
      ∧ (∀ pa ma leaf size, s.translateNow k c.ptag c.image accLoad = .ok (.hbm pa ma) leaf size →
          ∀ j : Fin 64, (x.cx k 0).getS j = if j.val = 0 then 0 else BitVec.ofNat 64 (s.frameWord k pa (0x100 + 8 * j.val) 8))
      ∧ ∀ q, q ≠ k → x.core q = s.core q

end

namespace Sys2Proof.Claims

open Sys2Proof.Machine

/-! ### Functions and the package -/

/-- A field of a partition descriptor's words, as R82 lays them out. -/
def descMask (w0 : Word) : BitVec 20 := BitVec.ofNat 20 w0.toNat
/-- The clusters that a descriptor names belong to no other enabled partition. -/
def NoClash (s : State) (p : Nat) (w0 : Word) : Prop :=
  ∀ q, q < 16 → q ≠ p → (s.part q).en = true → (s.part q).clmask &&& descMask w0 = 0
/-- A device register's write changes nothing but the routers, or but a partition. -/
def OnlyRouter (s x : State) (r : Nat) : Prop := { x with routers := s.routers } = s ∧ ∀ q, q ≠ r → x.router q = s.router q
def OnlyPart (s x : State) (p : Nat) : Prop := { x with parts := s.parts } = s ∧ ∀ q, q ≠ p → x.part q = s.part q

/-- A die runs at the lowest clock that heat, current and the cap ask for (R19). -/
def LowestAsked (x : State) (d : Nat) : Prop :=
  (x.die d).mhz = min (asked x.pkg.heat d) (min (asked x.pkg.current d) (capClock x.pkg.capWatts d))
/-- The spare cores of a core's die that are taken (R12). -/
def sparesTaken (s : State) (k : Nat) : Nat := (s.pkg.spareCores.filter fun x => x.1 / 40 == k / 40).length
/-- Nothing stands in the way of a host access: none waits, and no write of the host to another package is on its way (R85). -/
def HostFree (s : State) : Prop := s.hostq = [] ∧ s.posted = false

end Sys2Proof.Claims

section

open Sys2Proof Sys2Proof.Machine Sys2Proof.Claims

/-! ### Command streams -/

/-- A stream table entry that is set makes its stream eligible, one that is cleared stops it, and one set again lets it begin anew (R83); a
stream with work takes a free slot and starts at HEAD (R84, R113); a parked stream takes a new TAIL, or stops with SSTAT where TAIL breaks a
rule (R84); a stopped one, or one whose quantum has passed while another waits, gives its slot up at a bundle boundary with its contexts kept,
and is to leave at the next one where it stands at none (R113). -/
def Obligations.StreamsRun : Prop :=
  (∀ (s : State) (p j : Nat) (v : Word), j < 64 →
    (v.getLsbD 0 = true → s.strm p j = none → ∃ x : State, exec (.streamTableWrite p j v) s = .next x
      ∧ x.strm p j = some { part := p, j := j, scb := v.toNat / 2 ^ 6 % 2 ^ 51 * 64 } ∧ SMap.get 0 (x.part p).streams j = v)
    ∧ (v.getLsbD 0 = false → ∀ t, s.strm p j = some t → ∃ x : State, exec (.streamTableWrite p j v) s = .next x
      ∧ x.strm p j = some { t with stopped := true } ∧ SMap.get 0 (x.part p).streams j = v)
    ∧ (v.getLsbD 0 = true → ∀ t, s.strm p j = some t → t.stopped = true → t.slot = none → ∃ x : State, exec (.streamTableWrite p j v) s = .next x
      ∧ x.strm p j = some { t with scb := v.toNat / 2 ^ 6 % 2 ^ 51 * 64, stopped := false, parked := false, loaded := false, sstat := 0 }))
  ∧ (∀ (s : State) (p j n h e b z : Nat) (t : Strm), s.nextWaiting (j % 4) p = some t → t.j = j → t.part = p → s.freeSlot (j % 4) p = some n →
    s.headOf t = some h → s.tailOf t = some e → s.sysWord (j % 4) t.ptag t.scb = some b → s.sysWord (j % 4) t.ptag (t.scb + 8) = some z →
    e % 16 = 0 → h ≤ e → e ≤ h + z →
    ∃ (x : State) (u : Strm), exec (.streamMap p j) s = .next x ∧ x.strm p j = some u ∧ u.slot = some n ∧ u.head = h ∧ u.tail = e
      ∧ u.parked = decide (h = e) ∧ (t.loaded = false ∨ ((s.cx t.key 0).upc = 0 ∧ (s.cx t.key 0).repLeft = 0) → (x.cx t.key 0).pc = (b + h % z) / 16)
      ∧ (t.loaded = false → (x.cx t.key 0).run = .running ∧ (∀ r, (x.cx t.key 0).getS r = 0) ∧ (x.cx t.key 0).rqkey = (s.part t.ptag).rngseed)
      ∧ (t.loaded = true → ∀ i, i < 4 → (x.cx t.key i).s = (s.cx t.key i).s ∧ (x.cx t.key i).run = (s.cx t.key i).run)
      ∧ x.hbm = s.hbm)
  ∧ (∀ (s : State) (p j n e : Nat) (t : Strm), s.strm p j = some t → t.slot = some n → t.parked = true → t.stopped = false → s.tailOf t = some e →
    (e % 16 = 0 → t.head ≤ e → e ≤ t.head + t.size → ∃ x : State, exec (.streamTailWake p j) s = .next x
      ∧ x.strm p j = some { t with tail := e, parked := decide (t.head = e) } ∧ x.hbm = s.hbm)
    ∧ (∀ code, code = (if e % 16 ≠ 0 then 1 else if e < t.head then 2 else if t.head + t.size < e then 3 else 0) → code ≠ 0 →
      ∃ x : State, exec (.streamTailWake p j) s = .next x ∧ x.strm p j = some { t with stopped := true, parked := false, sstat := code }))
  ∧ ∀ (s : State) (p j n : Nat) (t : Strm), s.strm p j = some t → t.slot = some n → t.due = false →
    (s.crowded t = true ∨ t.stopped = true ∨ t.leaving = true → s.streamQuiet t.key = true →
      ∃ x : State, exec (.streamQuantumUnmap p j) s = .next x
        ∧ x.strm p j = some { t with slot := none, parked := false, leaving := false } ∧ x.core t.key = s.core t.key ∧ x.hbm = s.hbm)
    ∧ (s.crowded t = true ∨ t.stopped = true ∨ t.leaving = true → s.streamQuiet t.key = false →
      ∃ x : State, exec (.streamQuantumUnmap p j) s = .next x ∧ x.strm p j = some { t with leaving := true } ∧ x.cores = s.cores ∧ x.hbm = s.hbm)
    ∧ (s.crowded t = false → t.stopped = false → t.leaving = false → exec (.streamQuantumUnmap p j) s = .next s)

/-! ### Partitions -/

/-- A function-level reset fences the partition and freezes its cores at once, whoever asks for it; with its requests answered or
abandoned its cores are scrubbed, its launches go, and it waits in quarantine where it stays enabled; then it runs again (R87 to
R89, R94). A descriptor that is enabled takes its fields, unless its clusters belong to another enabled partition, and then ERR
alone is set (R82); one that is disabled is reset. HLDROP and FILTDROP clear as they are read (R82). A page's owner byte is
written within the partition's HBM quota, and past it ERR is set (R147). -/
def Obligations.Partitions : Prop :=
  ((∀ (s : State) (p : Nat), (s.part p).state ≠ 2 →
    ∃ x : State, exec (.functionLevelReset p) s = .next x ∧ exec (.smcPartitionReset p) s = .next x
      ∧ (x.part p).state = 2 ∧ (x.part p).fenced = true ∧ (x.part p).en = (s.part p).en ∧ (∀ q, q ≠ p → x.part q = s.part q)
      ∧ (∀ k, k < 160 → s.inPart p k = true → ∀ i, i < 4 → (x.cx k i).run = if (s.cx k i).run = .idle then .idle else .frozen)
      ∧ (∀ k, k < 160 → s.inPart p k = false → x.core k = s.core k) ∧ (∀ r, ∀ h ∈ (x.router r).held, h.1.ptag ≠ p) ∧ x.hbm = s.hbm)
  ∧ (∀ s : State, exec .hotReset s = exec .pfFlr s ∧ ∃ x : State, exec .pfFlr s = .next x ∧ x.pkg.pfReset = true ∧ x.hbm = s.hbm
      ∧ ∀ p, p < 16 → p < s.pkg.numVfs ∨ (p = 0 ∧ s.pkg.numVfs = 0) → (x.part p).state = 2)
  ∧ (∀ (s : State) (p : Nat), (s.part p).state = 2 → (∀ c ∈ s.ckpts, c.ptag ≠ p) → ∃ x : State, exec (.flrDrainAbandon p) s = .next x
      ∧ x.outst = s.outst.filter (fun o => o.txn.ptag != p) ∧ x.cores = s.cores ∧ x.hbm = s.hbm)
  ∧ (∀ (s : State) (p : Nat), (s.part p).state = 2 → (∀ o ∈ s.outst, o.txn.ptag ≠ p) → (∀ c ∈ s.ckpts, c.ptag ≠ p) → s.llc = [] →
    (∀ d, d < 4 → (s.die d).pending = []) →
    ∃ x : State, exec (.flrComplete p) s = .next x ∧ (x.part p).state = (if (s.part p).resetKeepEn then 3 else 0)
      ∧ (x.part p).en = (s.part p).resetKeepEn ∧ (x.part p).fenced = false ∧ (x.part p).mchk = false ∧ (x.part p).stopFire = false
      ∧ (∀ k, k < 160 → (s.part p).clmask.getLsbD (clusterOf k) = true → (∀ a, spAt x k a = 0)
          ∧ ∀ i, i < 4 → (x.cx k i).run = .idle ∧ ∀ j, (x.cx k i).getS j = 0)
      ∧ (∀ k, k < 160 → (s.part p).clmask.getLsbD (clusterOf k) = false → x.core k = s.core k)
      ∧ (∀ d lid, lid < 65536 → x.launch ⟨d, p, lid⟩ = none) ∧ x.hbm = s.hbm)
  ∧ (∀ (s : State) (p : Nat), (s.part p).state = 2 → (∃ o ∈ s.outst, o.txn.ptag = p) → exec (.flrComplete p) s = .next s)
  ∧ ∀ (s : State) (p : Nat), (s.part p).state = 3 → ∃ x : State, exec (.quarantineEnd p) s = .next x ∧ (x.part p).state = 1 ∧ OnlyPart s x p)
  ∧ ((∀ (s : State) (p : Nat) (w0 w1 : Word), p < 16 → (s.part p).en = false → (s.part p).state ≠ 2 →
    (NoClash s p w0 → ∃ x : State, exec (.partitionEnable p w0 w1) s = .next x ∧ OnlyPart s x p
      ∧ (x.part p).en = true ∧ (x.part p).clmask = descMask w0 ∧ (x.part p).prot = w0.getLsbD 20 ∧ (x.part p).hbmgb = w0.toNat / 2 ^ 32 % 2 ^ 10
      ∧ (x.part p).nslots = min 64 (w0.toNat / 2 ^ 48 % 2 ^ 7) ∧ (x.part p).root = w1.toNat / 2 ^ 12 % 2 ^ 40
      ∧ (x.part p).state = (if (s.part p).enWait then 3 else 1) ∧ (x.part p).err = ((s.part p).err && !w0.getLsbD 25))
    ∧ (¬ NoClash s p w0 → exec (.partitionEnable p w0 w1) s = .next (s.updPart p fun y => { y with err := true })))
  ∧ (∀ (s : State) (p : Nat), (s.part p).en = true → (s.part p).state ≠ 2 → ∃ x : State, exec (.partitionDisable p) s = .next x
      ∧ (x.part p).en = false ∧ (x.part p).state = 2 ∧ (x.part p).fenced = true)
  ∧ (∀ (s : State) (p : Nat), (s.part p).en = false → exec (.partitionDisable p) s = .next s)
  ∧ (∀ (s : State) (p : Nat) (f : Bool), exec (.partitionDropCountRead p f) s
      = .next ((s.tell (.completion stOk (leBytes 4 (if f then (s.part p).filtdrop else (s.part p).hldrop)))).updPart p fun y =>
          if f then { y with filtdrop := 0 } else { y with hldrop := 0 }))
  ∧ ∀ (s : State) (page : Nat) (v : Byte), page < 2 ^ 23 →
    let p := v.toNat % 16
    let old := SMap.get 0 s.owner page
    let owned := (s.owner.filter fun (x : Nat × Byte) => x.2.toNat % 32 == 16 + p).length
    ((v.getLsbD 4 = false ∨ old = v &&& 0x1F ∨ owned < (s.part p).hbmgb * 16384) →
      ∃ x : State, exec (.pageOwnerWrite page v) s = .next x ∧ { x with owner := s.owner } = s
        ∧ ∀ n, SMap.get 0 x.owner n = if n = page then v &&& 0x1F else SMap.get 0 s.owner n)
    ∧ (v.getLsbD 4 = true → old ≠ v &&& 0x1F → (s.part p).hbmgb * 16384 ≤ owned →
      exec (.pageOwnerWrite page v) s = .next (s.updPart p fun y => { y with err := true })))

/-! ### The package -/

/-- A package reset leaves no core state, memory, partition or transaction, and the package in bring-up (R15, R91, R94); a trip holds it there
until the SMC resets it, which it does once every sensor reads below 90 C, a free value (R17; log 95). That PKGID is kept is the model's choice
(log 94). The service stages follow one another, and configuration requests are answered by them (R93). A lost link is
noted and stops firing at the next tick; a trained one does not resume by itself; RESUME does (R90 to R92). -/
def Obligations.ResetsAndStages : Prop :=
  (∀ s : State,
    (s.pkg.trip = true → s.cool = false → exec .smcPackageReset s = .next s)
    ∧ (s.pkg.trip = false ∨ s.cool = true → ∃ x : State, exec .smcPackageReset s = .next x ∧ x.cores = [] ∧ x.hbm = [] ∧ x.parts = [] ∧ x.dies = [] ∧ x.wire = [] ∧ x.outst = []
      ∧ x.pkg.svc = 0 ∧ x.pkg.ticks = 0 ∧ x.pkg.trip = false ∧ x.pkg.numVfs = 0 ∧ x.pkg.pkgId = s.pkg.pkgId)
    ∧ (s.pkg.trip = false → exec .conventionalReset s = exec .smcPackageReset s)
    ∧ (s.pkg.trip = true → exec .conventionalReset s = .next s)
    ∧ (∃ x : State, exec .thermalTrip s = .next x ∧ x.cores = [] ∧ x.hbm = [] ∧ x.parts = [] ∧ x.pkg.trip = true ∧ x.pkg.svc = 0)
    ∧ ∀ rail, ∃ x : State, exec (.railVoltageShutdown rail) s = .next x ∧ x.cores = [] ∧ x.pkg.trip = true ∧ x.pkg.railDown = rail :: s.pkg.railDown)
  ∧ (∀ s : State,
    (s.pkg.svc = 0 → s.pkg.trip = false → exec .reducedServiceReached s = .next { s with pkg := { s.pkg with svc := 1 } })
    ∧ (s.pkg.svc = 1 → exec .devstateGofull s = .next { s with pkg := { s.pkg with svc := 3 } })
    ∧ (s.pkg.svc ≠ 1 → exec .devstateGofull s = .next s)
    ∧ (s.pkg.svc = 3 → ∃ x : State, exec .fullServiceReached s = .next x ∧ x.pkg = { s.pkg with svc := 2 } ∧ x.cores = s.cores ∧ x.parts = s.parts
        ∧ x.hbm = s.hbm ∧ ∀ n, { x.port n with flight := (s.port n).flight } = s.port n)
    ∧ (∀ n, s.pkg.svc = 0 → exec (.configurationRequest (.setNumVfs n)) s = .next (s.tell (.cfg 1 0)))
    ∧ (∀ n, s.pkg.svc ≠ 0 → n ≤ 16 → s.pkg.vfEnable = false → exec (.configurationRequest (.setNumVfs n)) s
        = .next ({ s with pkg := { s.pkg with numVfs := n } }.tell (.cfg 0 0)))
    ∧ (∀ on, s.pkg.svc ≠ 0 → exec (.configurationRequest (.setVfEnable on)) s = .next ({ s with pkg := { s.pkg with vfEnable := on } }.tell (.cfg 0 0)))
    ∧ (∀ n, s.pkg.svc ≠ 2 → exec (.configurationRequest (.readVf n)) s = .next (s.tell (.cfg 1 0)))
    ∧ (s.pkg.svc ≠ 0 → exec (.configurationRequest .readTotalVfs) s = .next (s.tell (.cfg 0 16))
        ∧ exec (.configurationRequest .readVfStride) s = .next (s.tell (.cfg 0 1))
        ∧ (∀ c, exec (.configurationRequest (.readCap c)) s
            = .next (s.tell (.cfg 0 (if c = .pageRequest ∨ c = .intx ∨ c = .msi then 0 else 1)))))
    ∧ (∀ p lg, s.pkg.svc = 2 → 30 ≤ lg → lg ≤ 39 → exec (.configurationRequest (.setBar2 p lg)) s
        = .next ((s.updPart p fun x => { x with bar2Lg := lg }).tell (.cfg 0 0)))
    ∧ (∀ fn page, s.pkg.svc ≠ 0 → ∃ x : State, exec (.configurationRequest (.atsInvalidate fn page)) s = .next (x.tell (.cfg 0 0))
        ∧ { x with atc := s.atc } = s ∧ ∀ e, e ∈ x.atc ↔ e ∈ s.atc ∧ e ≠ (fn, page)))
  ∧ ∀ s : State,
    (∃ x : State, exec .linkLoss s = .next x ∧ x.pkg.linkUp = false ∧ x.pkg.linkLoss = true ∧ x.pkg.stopNext = true ∧ x.parts = s.parts ∧ x.cores = s.cores)
    ∧ (∃ x : State, exec .linkRetrain s = .next x ∧ x.pkg.linkUp = true ∧ x.pkg.linkLoss = s.pkg.linkLoss ∧ x.parts = s.parts)
    ∧ exec .linklossClear s = .next { s with pkg := { s.pkg with linkLoss := false } }
    ∧ ∃ x : State, exec .devstateResume s = .next x ∧ { x with parts := s.parts } = s
        ∧ ∀ p, x.quiesced p = false ∧ (x.part p).stopFire = false ∧ (x.part p).en = (s.part p).en

/-- A write of a device register takes effect field by field (R5, R32, R33, R57, R79, R92, R95): the enables of FSC and its write-1-to-clear bit,
the pairing windows without reserved bits, the arena words without reserved bits, descriptors, stream and MSI-X table entries, filters, masks
and bases; read-only registers ignore it; an offset at which no register stands is a fault of the model. -/
def Obligations.RegisterWrites : Prop :=
  ∀ (s : State) (v : Word) (r p n md : Nat),
    (∃ x : State, exec (.registerWrite (.fsc r) v) s = .next x ∧ OnlyRouter s x r ∧ (x.router r).comben = v.getLsbD 2
      ∧ (x.router r).pairen = v.getLsbD 3 ∧ (x.router r).degraded = (if v.getLsbD 4 then false else (s.router r).degraded)
      ∧ (x.router r).slots = (s.router r).slots ∧ (x.router r).drops = (s.router r).drops)
    ∧ (∃ x : State, exec (.registerWrite (.pwinLo r) v) s = .next x ∧ OnlyRouter s x r ∧ (x.router r).pwinHi = (s.router r).pwinHi
      ∧ ∀ c, c < 8 → (x.router r).pwinLo.toNat / 2 ^ (8 * c) % 2 ^ 8 = v.toNat / 2 ^ (8 * c) % 2 ^ 6)
    ∧ (∃ x : State, exec (.registerWrite (.pwinHi r) v) s = .next x ∧ OnlyRouter s x r ∧ (x.router r).pwinLo = (s.router r).pwinLo
      ∧ ∀ c, c < 8 → (x.router r).pwinHi.toNat / 2 ^ (8 * c) % 2 ^ 8 = v.toNat / 2 ^ (8 * c) % 2 ^ 6)
    ∧ (p < 16 → ∃ x : State, exec (.registerWrite (.arena md p 0) v) s = .next x ∧ { x with arenas := s.arenas } = s
      ∧ arenaBase (x.arena md p) = v.toNat / 2 ^ 16 % 2 ^ 41 * 65536 ∧ arenaEn (x.arena md p) = v.getLsbD 63
      ∧ x.arena md p / 2 ^ 64 = s.arena md p / 2 ^ 64 ∧ ∀ a q, q < 16 → (a, q) ≠ (md, p) → x.arena a q = s.arena a q)
    ∧ (p < 16 → ∃ x : State, exec (.registerWrite (.arena md p 1) v) s = .next x ∧ { x with arenas := s.arenas } = s
      ∧ arenaSlotpg (x.arena md p) = v.toNat % 2 ^ 24 ∧ arenaNslot (x.arena md p) = v.toNat / 2 ^ 24 % 2 ^ 24
      ∧ x.arena md p % 2 ^ 64 = s.arena md p % 2 ^ 64 ∧ x.arena md p / 2 ^ 128 = s.arena md p / 2 ^ 128)
    ∧ exec (.registerWrite (.partDesc p 2) v) s = .next s
    ∧ ((s.part p).en = false → (s.part p).nslots ≤ 64 → (s.part p).hbmgb < 2 ^ 10 → ∃ x : State, exec (.registerWrite (.partDesc p 1) v) s = .next x
        ∧ x.part p = { s.part p with root := v.toNat / 2 ^ 12 % 2 ^ 40 } ∧ OnlyPart s x p)
    ∧ exec (.registerWrite (.msixPend p) v) s = .next s ∧ exec (.registerWrite (.statusLog p n) v) s = .next s
    ∧ exec (.registerWrite (.streamEntry p n) v) s = exec (.streamTableWrite p n v) s
    ∧ (n < 64 → ∃ x : State, exec (.registerWrite (.msixEntry p n 0) v) s = .next x ∧ OnlyPart s x p
        ∧ SMap.get (0, 0) (x.part p).msixTab n = (v, (SMap.get (0, 0) (s.part p).msixTab n).2) ∧ (x.part p).msixMask = (s.part p).msixMask)
    ∧ (n < 64 → ∃ x : State, exec (.registerWrite (.msixEntry p n 1) v) s = .next x
        ∧ SMap.get (0, 0) (x.part p).msixTab n = ((SMap.get (0, 0) (s.part p).msixTab n).1, v)
        ∧ (x.part p).msixMask.getLsbD n = v.getLsbD 32)
    ∧ (v.getLsbD 2 = true → v.getLsbD 3 = false → v.getLsbD 4 = false → exec (.registerWrite .devstate v) s = exec .linklossClear s)
    ∧ (v.getLsbD 2 = false → v.getLsbD 3 = true → v.getLsbD 4 = false → exec (.registerWrite .devstate v) s = exec .devstateResume s)
    ∧ (v.getLsbD 2 = false → v.getLsbD 3 = false → v.getLsbD 4 = true → exec (.registerWrite .devstate v) s = exec .devstateGofull s)
    ∧ (n < 64 → ∃ x : State, exec (.registerWrite (.hostFilter r n 0) v) s = .next x ∧ { x with filters := s.filters } = s
      ∧ SMap.get (0, 0) x.filters (r * 64 + n) = (v, (SMap.get (0, 0) s.filters (r * 64 + n)).2))
    ∧ (n < 64 → ∃ x : State, exec (.registerWrite (.hostFilter r n 1) v) s = .next x ∧ { x with filters := s.filters } = s
      ∧ SMap.get (0, 0) x.filters (r * 64 + n) = ((SMap.get (0, 0) s.filters (r * 64 + n)).1, v))
    ∧ (∃ x : State, exec (.registerWrite (.msixMask p) v) s = .next x ∧ (x.part p).msixMask = v ∧ x.cores = s.cores
      ∧ ((s.part p).msixPend = 0 → OnlyPart s x p))
    ∧ (∃ x : State, exec (.registerWrite (.bar2Base p) v) s = .next x ∧ (x.part p).bar2 = v ∧ OnlyPart s x p)
    ∧ exec (.registerWrite (.unlisted n) v) s = .fault (.unlistedRegister n)

/-- The sideband controller and its engines (R12 to R14, R17 to R19, R94): heat and the current limit ask a die for a clock 100 MHz slower
within bounds, the power cap for its own (log 95), and the lowest asked applies; spares wait for a frame boundary, where a core's takes its
place with nothing of the core changed, or for a partition reset, as after 1,000 ticks; firmware waits for the next package reset; logs, sensors, a core's
state and those of routers and schedulers are told as they are; a parked group acts on RMODE. -/
def Obligations.ServiceActions : Prop :=
  (∀ (s : State) (d rail : Nat),
    (∃ x : State, exec (.thermalThrottle d) s = .next x ∧ asked x.pkg.heat d = max 900 (asked s.pkg.heat d - 100) ∧ LowestAsked x d
      ∧ (∀ q, q ≠ d → x.die q = s.die q ∧ asked x.pkg.heat q = asked s.pkg.heat q) ∧ x.cores = s.cores ∧ x.hbm = s.hbm)
    ∧ (∃ x : State, exec (.thermalClockRaise d) s = .next x ∧ asked x.pkg.heat d = min 1800 (asked s.pkg.heat d + 100) ∧ LowestAsked x d
      ∧ (∀ q, q ≠ d → x.die q = s.die q ∧ asked x.pkg.heat q = asked s.pkg.heat q) ∧ x.cores = s.cores ∧ x.hbm = s.hbm)
    ∧ (∃ x : State, exec (.railCurrentLimit rail) s = .next x
      ∧ (∀ q ∈ railDies rail, asked x.pkg.current q = max 900 (asked s.pkg.current q - 100) ∧ LowestAsked x q)
      ∧ (∀ q, q ∉ railDies rail → x.die q = s.die q ∧ asked x.pkg.current q = asked s.pkg.current q) ∧ x.cores = s.cores ∧ x.hbm = s.hbm))
  ∧ (∀ (s : State) (watts k image : Nat) (ok : Bool),
    (1400 ≤ watts → watts ≤ 2800 → ∃ x : State, exec (.smcPowerCap watts) s = .next x ∧ x.pkg = { s.pkg with capWatts := watts }
      ∧ (∀ d, d < 14 → LowestAsked x d) ∧ x.cores = s.cores ∧ x.hbm = s.hbm)
    ∧ (watts < 1400 ∨ 2800 < watts → exec (.smcPowerCap watts) s = .next s)
    ∧ exec (.smcFirmwareUpdate image ok) s = .next { s with pkg := { s.pkg with newImages := s.pkg.newImages ++ [(image, ok)] } }
    ∧ exec .smcReadLogs s = .next (s.tell (.logs s.smcLog)) ∧ exec (.smcDumpState k) s
        = .next (((s.tell (.dump k (s.core k))).tell (.dumpRouters s.routers)).tell (.dumpSched s.clusters s.dies))
    ∧ ∃ ws, exec .smcReadSensors s = .next (s.tell (.smc ws)) ∧ ∀ p, p < 16 → ws[1 + 2 * p]? = some (s.part p).hldrop ∧ ws[2 + 2 * p]? = some (s.part p).filtdrop)
  ∧ (∀ (s : State) (ways bank : Nat × Nat) (st port : Nat),
    exec (.smcSpareControl (.llcWay ways.1 ways.2)) s = .next { s with pkg := { s.pkg with pendingSpares := s.pkg.pendingSpares ++ [.llcWay ways.1 ways.2] } }
    ∧ exec (.smcSpareControl (.hbmRow bank.1 bank.2)) s = .next { s with pkg := { s.pkg with pendingSpares := s.pkg.pendingSpares ++ [.hbmRow bank.1 bank.2] } }
    ∧ exec (.smcSpareControl (.hbmChannel st)) s = .next { s with pkg := { s.pkg with pendingSpares := s.pkg.pendingSpares ++ [.hbmChannel st] } }
    ∧ ∃ x : State, exec (.smcSpareControl (.lane port)) s = .next x ∧ (x.port port).swap.isSome = true ∧ (x.port port).lane = (s.port port).lane
        ∧ { x with ports := s.ports } = s)
  ∧ (∀ (s : State) (k : Nat),
    (sparesTaken s k + (s.pkg.swapPending.filter fun (x : Nat × Nat) => x.1 / 40 == k / 40).length < 2 →
      exec (.smcSpareControl (.core k)) s = .next { s with pkg := { s.pkg with swapPending := s.pkg.swapPending ++ [(k, 0)] } })
    ∧ (2 ≤ sparesTaken s k + (s.pkg.swapPending.filter fun (x : Nat × Nat) => x.1 / 40 == k / 40).length →
      exec (.smcSpareControl (.core k)) s = .next { s with pkg := { s.pkg with pendingSpares := s.pkg.pendingSpares ++ [.core k] } })
    ∧ (s.pkg.swapReady = true → (∃ n, n ≤ 1000 ∧ (k, n) ∈ s.pkg.swapPending) → s.swappable k = true → sparesTaken s k < 2 →
        ∃ x : State, exec (.liveCoreSwap k) s = .next x ∧ x.cores = s.cores ∧ x.hbm = s.hbm
          ∧ x.pkg.spareCores = s.pkg.spareCores ++ [(k, sparesTaken s k)] ∧ (∀ n, (k, n) ∉ x.pkg.swapPending))
    ∧ (s.swappable k = false → exec (.liveCoreSwap k) s = .next s)
    ∧ (s.pkg.swapReady = false → exec (.liveCoreSwap k) s = .next s)
    ∧ ((∃ n, (k, n) ∈ s.pkg.swapPending ∧ 1000 < n) → ∃ x : State, exec (.coreSwapAbandon k) s = .next x ∧ (∀ n, (k, n) ∉ x.pkg.swapPending)
        ∧ x.pkg.pendingSpares = s.pkg.pendingSpares ++ [.core k] ∧ x.cores = s.cores)
    ∧ ((∀ n, (k, n) ∈ s.pkg.swapPending → n ≤ 1000) → exec (.coreSwapAbandon k) s = .next s))
  ∧ ∀ (s : State) (k i : Nat) (t : TrapInfo), k < 160 → i < 4 → (s.cx k i).run = .parked t →
    (t.cause ≠ 0x0A → t.cause ≠ 0x0B → ∃ x : State, exec (.smcDebugResume k i 0) s = .next x ∧ (x.cx k i).run = .running
      ∧ (x.cx k i).pause = (if i = 0 ∧ s.groupStopped k = true then .group else .none) ∧ (x.cx k i).hold = none
      ∧ (x.cx k i).pc = (s.cx k i).pc ∧ ∀ j, (x.cx k i).getS j = (s.cx k i).getS j)
    ∧ (∃ x : State, exec (.smcDebugResume k i 1) s = .next x ∧ (x.cx k i).run = .running ∧ (x.cx k i).skip = true ∧ (x.cx k i).pc = (s.cx k i).pc)
    ∧ (∀ u : State, (u.cx k i).run = .halted → ∃ x : State, exec (.smcDebugResume k i 0) u = .next x ∧ (x.cx k i).run = .running ∧ (x.cx k i).pc = (u.cx k i).pc)
    ∧ ∃ x : State, exec (.smcDebugResume k i 3) s = .next x ∧ (x.part (s.ptagOf k)).mchk = true ∧ (x.part (s.ptagOf k)).fenced = true

/-- A host access through BAR2 completes on the function's own pages (R80): a write performs in order at its targets, a read is told with the bytes; a
function that is disabled or closed answers PERM; an access that its page tables refuse is an Unsupported Request, and is logged; one
beyond the BAR is one too; one that comes behind writes that have not performed waits its turn (R85). -/
def Obligations.HostAccesses : Prop :=
  ∀ (s : State) (p off n q o : Nat) (bs : List Byte),
    let va := (s.part p).bar2.toNat + off
    let write := exec (.bar2Access { part := p, off := off, write := some bs, len := 0 }) s
    let read := exec (.bar2Access { part := p, off := off, write := none, len := n }) s
    let fits := HostFree s ∧ s.fnServes p = true ∧ off + n ≤ 2 ^ (s.part p).bar2Lg ∧ off + bs.length ≤ 2 ^ (s.part p).bar2Lg
    let open_ := (s.part p).en = true ∧ s.closed p = false ∧ fits
    (open_ → s.ckpts = [] → bs ≠ [] → s.bar2Targets p va bs.length accStore = some [(va, bs.length, .sp q o)] →
      ∃ x : State, write = .next x ∧ SpFrame s { x with xlc := s.xlc } q ∧ ∀ a, spAt x q a = wrote o bs a (spAt s q a))
    ∧ (∀ ma, open_ → s.ckpts = [] → bs ≠ [] → NoDirty s → s.bar2Targets p va bs.length accStore = some [(va, bs.length, .hbm o ma)] →
      ∃ x : State, write = .next x ∧ (∀ a, hbmAt x a = wrote o bs a (hbmAt s a)) ∧ ∀ k, (x.core k).sp = (s.core k).sp)
    ∧ (open_ → 0 < n → s.bar2Targets p va n accLoad = some [(va, n, .sp q o)] → poisoned (s.core q).spPoison o n = false →
      ∃ x : State, read = .next x ∧ { x with xlc := s.xlc } = s.tell (.completion stOk (s.spRead q o n)))
    ∧ (∀ ma, open_ → 0 < n → NoDirty s → s.bar2Targets p va n accLoad = some [(va, n, .hbm o ma)] → poisoned s.hbmPoison o n = false →
      ∃ x : State, read = .next x ∧ { x with xlc := s.xlc } = s.tell (.completion stOk (s.hbmRead o n)))
    ∧ (fits → (s.part p).en = false ∨ s.closed p = true → read = .next (s.tell (.completion stPerm [])) ∧ write = .next (s.tell (.completion stPerm [])))
    ∧ (open_ → 0 < n → s.bar2Targets p va n accLoad = none →
      read = .next ((s.updPart p fun y => { y with bar2log := y.bar2log ++ [va] }).tell (.completion 1 [])))
    ∧ (HostFree s → 2 ^ (s.part p).bar2Lg < off + n → read = .next (s.tell (.completion 1 [])))
    ∧ (s.hostq ≠ [] ∨ s.posted = true →
      read = .next { s with hostq := s.hostq ++ [{ part := p, off := off, write := none, len := n }] }
      ∧ write = .next { s with hostq := s.hostq ++ [{ part := p, off := off, write := some bs, len := 0 }] })

/-! ### The whole machine -/

/-- Right after reset (R91, R93, R137, R194): no core runs, every s and k register reads 0, g0 alone of the g registers is 1, the host link is up, the package is in bring-up at tick 0 with a
tick of 1 us, no partition is enabled, the limits have their reset values, and every memory is canonical. That HBM and the scratchpads read
0 is the model's choice (log 4). -/
def Obligations.ResetValues : Prop :=
  State.reset.memOk = true ∧ State.reset.pkg.svc = 0 ∧ State.reset.pkg.ticks = 0 ∧ State.reset.pkg.tickNs = 1000 ∧ State.reset.pkg.linkUp = true ∧ State.reset.pkg.trip = false
  ∧ State.reset.wire = [] ∧ State.reset.out = []
  ∧ (∀ k i, (State.reset.cx k i).run = .idle ∧ (∀ j, (State.reset.cx k i).getS j = 0) ∧ (∀ j, (State.reset.cx k i).getK j = 0)
      ∧ ∀ j, (State.reset.cx k i).getG j = decide (j.val = 0))
  ∧ (∀ p, (State.reset.part p).en = false ∧ (State.reset.part p).clmask = 0 ∧ (State.reset.part p).wdlim = 0 ∧ (State.reset.part p).drainth = 100
      ∧ (State.reset.part p).ageq = 100)
  ∧ ∀ k a, hbmAt State.reset a = 0 ∧ spAt State.reset k a = 0

/-- Every step keeps every memory of the machine in its canonical form: HBM and the scratchpads list their bytes in rising order, none of them 0. -/
def Obligations.MemoryStaysCanonical : Prop := ∀ s s' : State, s.memOk = true → step s = .next s' → s'.memOk = true

end
end

