-- ==== Sys2Proof/Laws/Map.lean ====
section
/-! SUPPORT. Sparse stores: what reading gives after each write, and that each write keeps the canonical form. -/

namespace Sys2Proof.SMap

variable {α : Type} (d : α) (m : SMap α) (i j : Nat) (v : α)

theorem get_eq_find : get d m j = (find m j).getD d := by
  induction m with
  | nil => rfl
  | cons x t ih => simp only [get, find]; split <;> simp [ih]

theorem find_append (a b : SMap α) : find (a ++ b) j = (find a j).or (find b j) := by
  induction a with
  | nil => simp [find]
  | cons x t ih => simp only [List.cons_append, find]; split <;> simp [ih]

theorem find_below : find (below i m) j = if j < i then find m j else none := by
  induction m with
  | nil => simp [find, below]
  | cons x t ih =>
    simp only [below]
    by_cases h : x.1 = j
    · subst h
      by_cases h2 : x.1 < i
      · simp [find, h2]
      · simp [ih, h2]
    · by_cases h2 : x.1 < i <;> simp [find, ih, h, h2]

theorem find_above : find (above i m) j = if i ≤ j then find m j else none := by
  induction m with
  | nil => simp [find, above]
  | cons x t ih =>
    simp only [above]
    by_cases h : x.1 = j
    · subst h
      by_cases h2 : i ≤ x.1
      · simp [find, h2]
      · simp [ih, h2]
    · by_cases h2 : i ≤ x.1 <;> simp [find, ih, h, h2]

theorem find_put : find (put m i v) j = if j = i then some v else find m j := by
  simp only [put, find_append, find_below, find, find_above]
  by_cases h : j = i
  · subst h; simp
  · by_cases h' : j < i
    · have : ¬ i = j := by omega
      have h2 : ¬ i + 1 ≤ j := by omega
      simp [h, h', this, h2]
    · have : ¬ i = j := by omega
      have h2 : i + 1 ≤ j := by omega
      simp [h, h', this, h2]

theorem find_del : find (del m i) j = if j = i then none else find m j := by
  simp only [del, find_append, find_below, find_above]
  by_cases h : j = i
  · subst h
    have : ¬ j + 1 ≤ j := by omega
    simp [this]
  · by_cases h' : j < i
    · have h2 : ¬ i + 1 ≤ j := by omega
      simp [h, h', h2]
    · have h2 : i + 1 ≤ j := by omega
      simp [h, h', h2]

theorem find_delRun (n : Nat) : find (delRun m i n) j = if i ≤ j ∧ j < i + n then none else find m j := by
  simp only [delRun, find_append, find_below, find_above]
  by_cases h' : j < i
  · have : ¬ i ≤ j := by omega
    have h2 : ¬ i + n ≤ j ∨ n = 0 := by omega
    by_cases h3 : i + n ≤ j <;> simp [h', this, h3]
  · by_cases h3 : i + n ≤ j
    · have : ¬ j < i + n := by omega
      simp [h', h3, this]
    · have : i ≤ j ∧ j < i + n := by omega
      simp [h', h3, this]

/-- A value that was put is read back; the other keys keep theirs. -/
@[simp] theorem get_put : get d (put m i v) j = if j = i then v else get d m j := by
  simp only [get_eq_find, find_put]; split <;> rfl

variable [DecidableEq α]

/-- A value that was set is read back, the default included; the other keys keep theirs. -/
@[simp] theorem get_set : get d (set d m i v) j = if j = i then v else get d m j := by
  simp only [set, get_eq_find]
  split
  · rename_i h; rw [find_del]; split <;> simp [h]
  · rw [find_put]; split <;> rfl

theorem get_set_self : get d (set d m i v) i = v := by simp
omit [DecidableEq α] in
theorem get_put_self : get d (put m i v) i = v := by simp

theorem find_cells (vs : List α) : ∀ i, (find (cells d i vs) j).getD d = if i ≤ j then vs.getD (j - i) d else d := by
  induction vs with
  | nil => intro i; simp [cells, find]
  | cons v t ih =>
    intro i
    have ih := ih (i + 1)
    simp only [cells]
    split
    · rename_i hv
      rw [ih]
      by_cases h : i = j
      · subst h
        have : ¬ i + 1 ≤ i := by omega
        simp [hv, this]
      · by_cases h2 : i ≤ j
        · have h3 : i + 1 ≤ j := by omega
          obtain ⟨n, rfl⟩ : ∃ n, j = i + 1 + n := ⟨j - (i + 1), by omega⟩
          have : i + 1 + n - i = n + 1 := by omega
          simp [h2, this]
        · have h3 : ¬ i + 1 ≤ j := by omega
          simp [h2, h3]
    · simp only [find]
      by_cases h : i = j
      · subst h; simp
      · by_cases h2 : i ≤ j
        · obtain ⟨n, rfl⟩ : ∃ n, j = i + 1 + n := ⟨j - (i + 1), by omega⟩
          have e : i + 1 + n - i = n + 1 := by omega
          have h3 : i + 1 ≤ i + 1 + n := by omega
          simp only [h, if_false, h2, if_true, e, List.getD_cons_succ, ih, h3]
          simp
        · have h3 : ¬ i + 1 ≤ j := by omega
          simp [h, h2, h3, ih]

theorem find_cells_none (vs : List α) : ∀ i, j < i ∨ i + vs.length ≤ j → find (cells d i vs) j = none := by
  induction vs with
  | nil => intro i _; rfl
  | cons v t ih =>
    intro i h
    have ih := ih (i + 1) (by simp at h; omega)
    simp only [cells]
    split
    · exact ih
    · simp only [find, ih]
      simp only [List.length_cons] at h
      have : ¬ i = j := by omega
      simp [this]

/-- A run that was written is read back; every other key keeps its value. -/
theorem get_setRun (vs : List α) :
    get d (setRun d m i vs) j = if i ≤ j ∧ j < i + vs.length then vs.getD (j - i) d else get d m j := by
  simp only [get_eq_find, setRun, find_append, find_below, find_above]
  by_cases h : j < i
  · have h1 : ¬ i ≤ j := by omega
    have h2 : ¬ i + vs.length ≤ j := by omega
    have := find_cells_none d j vs i (Or.inl h)
    simp [h, h1, h2, this]
  · have h1 : i ≤ j := by omega
    by_cases h2 : j < i + vs.length
    · have h3 : ¬ i + vs.length ≤ j := by omega
      have := find_cells d j vs i
      simp only [h1, if_true] at this
      simp [h, h1, h2, h3, this]
    · have h3 : i + vs.length ≤ j := by omega
      have := find_cells_none d j vs i (Or.inr h3)
      simp [h, h1, h2, h3, this]

/-! ### The canonical form -/

/-- The canonical form in two parts: keys rise, and no value is the default. -/
theorem wf_iff : wf d m = true ↔ m.Pairwise (fun a b => a.1 < b.1) ∧ ∀ x ∈ m, x.2 ≠ d := by
  induction m with
  | nil => simp [wf]
  | cons x t ih =>
    cases t with
    | nil => simp [wf]
    | cons y t =>
      simp only [wf, Bool.and_eq_true, decide_eq_true_eq, Bool.not_eq_true', decide_eq_false_iff_not]
      constructor
      · rintro ⟨⟨h1, h2⟩, h3⟩
        obtain ⟨h4, h5⟩ := ih.mp h3
        refine ⟨List.Pairwise.cons ?_ h4, ?_⟩
        · intro z hz
          rcases List.mem_cons.mp hz with rfl | hz
          · exact h1
          · exact Nat.lt_trans h1 (List.rel_of_pairwise_cons h4 hz)
        · intro z hz
          rcases List.mem_cons.mp hz with rfl | hz
          · exact h2
          · exact h5 z hz
      · rintro ⟨h1, h2⟩
        exact ⟨⟨List.rel_of_pairwise_cons h1 List.mem_cons_self, h2 x List.mem_cons_self⟩,
          ih.mpr ⟨h1.of_cons, fun z hz => h2 z (List.mem_cons_of_mem _ hz)⟩⟩

variable {d m i}

omit [DecidableEq α] in
theorem below_sub : List.Sublist (below i m) m := by
  induction m with
  | nil => exact .slnil
  | cons x t ih =>
    simp only [below]
    split
    · exact ih.cons_cons x
    · exact ih.cons x
omit [DecidableEq α] in
theorem above_sub : List.Sublist (above i m) m := by
  induction m with
  | nil => exact .slnil
  | cons x t ih =>
    simp only [above]
    split
    · exact ih.cons_cons x
    · exact ih.cons x
omit [DecidableEq α] in
theorem mem_below {x : Nat × α} (h : x ∈ below i m) : x.1 < i := by
  induction m with
  | nil => cases h
  | cons y t ih =>
    simp only [below] at h
    split at h
    · rcases List.mem_cons.mp h with rfl | h
      · assumption
      · exact ih h
    · exact ih h
omit [DecidableEq α] in
theorem mem_above {x : Nat × α} (h : x ∈ above i m) : i ≤ x.1 := by
  induction m with
  | nil => cases h
  | cons y t ih =>
    simp only [above] at h
    split at h
    · rcases List.mem_cons.mp h with rfl | h
      · assumption
      · exact ih h
    · exact ih h

/-- A middle part between what is below and above it keeps the canonical form. -/
theorem wf_join {n : Nat} {c : SMap α} (h : wf d m = true) (hc : wf d c = true)
    (lo : ∀ x ∈ c, i ≤ x.1) (hi : ∀ x ∈ c, x.1 < n) (hn : i ≤ n) : wf d (below i m ++ c ++ above n m) = true := by
  rw [wf_iff] at *
  obtain ⟨p, q⟩ := h
  obtain ⟨p', q'⟩ := hc
  refine ⟨List.pairwise_append.mpr ⟨List.pairwise_append.mpr ⟨p.sublist below_sub, p', ?_⟩, p.sublist above_sub, ?_⟩, ?_⟩
  · intro a ha b hb
    exact Nat.lt_of_lt_of_le (mem_below ha) (lo b hb)
  · intro a ha b hb
    have hb := mem_above hb
    rcases List.mem_append.mp ha with ha | ha
    · have := mem_below ha; omega
    · have := hi a ha; omega
  · intro x hx
    rcases List.mem_append.mp hx with hx | hx
    · rcases List.mem_append.mp hx with hx | hx
      · exact q x (below_sub.subset hx)
      · exact q' x hx
    · exact q x (above_sub.subset hx)

theorem wf_cells (vs : List α) : ∀ i, wf d (cells d i vs) = true ∧ ∀ x ∈ cells d i vs, i ≤ x.1 ∧ x.1 < i + vs.length := by
  induction vs with
  | nil => intro i; exact ⟨rfl, by simp [cells]⟩
  | cons v t ih =>
    intro i
    obtain ⟨h1, h2⟩ := ih (i + 1)
    simp only [cells, List.length_cons]
    split
    · exact ⟨h1, fun x hx => by have := h2 x hx; omega⟩
    · rename_i hv
      refine ⟨?_, ?_⟩
      · rw [wf_iff] at *
        refine ⟨List.Pairwise.cons (fun x hx => by have := h2 x hx; simp only; omega) h1.1, ?_⟩
        intro x hx
        rcases List.mem_cons.mp hx with rfl | hx
        · exact hv
        · exact h1.2 x hx
      · intro x hx
        rcases List.mem_cons.mp hx with rfl | hx
        · simp only; omega
        · have := h2 x hx; omega

theorem wf_delRun (h : wf d m = true) (n : Nat) : wf d (delRun m i n) = true := by
  have := wf_join (c := []) (i := i) (n := i + n) h rfl (by simp) (by simp) (by omega)
  simpa [delRun] using this
theorem wf_del (h : wf d m = true) : wf d (del m i) = true := wf_delRun h 1
theorem wf_put (h : wf d m = true) (hv : v ≠ d) : wf d (put m i v) = true := by
  have := wf_join (c := [(i, v)]) (i := i) (n := i + 1) h (by simp [wf, hv]) (by simp) (by simp) (by omega)
  simpa [put] using this
/-- Writing a value keeps the canonical form. -/
theorem wf_set (h : wf d m = true) : wf d (set d m i v) = true := by
  simp only [set]; split
  · exact wf_del h
  · exact wf_put v h ‹_›
/-- Writing a run keeps the canonical form. -/
theorem wf_setRun (h : wf d m = true) (vs : List α) : wf d (setRun d m i vs) = true :=
  wf_join h (wf_cells vs i).1 (fun x hx => ((wf_cells vs i).2 x hx).1) (fun x hx => ((wf_cells vs i).2 x hx).2) (by omega)

end Sys2Proof.SMap

namespace Sys2Proof

/-- Bytes that were written to a memory are read back, and every other byte is as before. -/
theorem Memory.get_setRun (m : List Host.Cell) (a b : Nat) (bs : List Byte) :
    SMap.get 0 (SMap.setRun 0 m a bs) b = if a ≤ b ∧ b < a + bs.length then bs.getD (b - a) 0 else SMap.get 0 m b :=
  SMap.get_setRun 0 m a b bs

/-- A memory write keeps the canonical form. -/
theorem Memory.wf_setRun {m : List Host.Cell} (h : Memory.wf m = true) (a : Nat) (bs : List Byte) :
    Memory.wf (SMap.setRun 0 m a bs) = true := SMap.wf_setRun h bs

@[simp] theorem leBytes_length (n x : Nat) : (leBytes n x).length = n := by
  induction n generalizing x with
  | zero => rfl
  | succ n ih => simp [leBytes, ih]

/-- The bytes of a number, read back. -/
theorem leNat_leBytes (n x : Nat) : leNat (leBytes n x) = x % 256 ^ n := by
  induction n generalizing x with
  | zero => simp [leBytes, leNat, Nat.mod_one]
  | succ n ih =>
    have : x % 256 % 2 ^ 8 = x % 256 := by omega
    simp only [leBytes, leNat, ih, BitVec.toNat_ofNat, this]
    rw [Nat.pow_succ', Nat.mod_mul]

end Sys2Proof
end

