-- ==== Sys2Proof/Laws/State.lean ====
section
/-! SUPPORT. What each update of the state leaves alone, one lemma per field per update, and what reading a part of the state
gives after an update. -/

namespace Sys2Proof.Machine

variable (s : State)

/-! ### setCore -/

@[simp] theorem State.setCore_segs (k : Nat) (c : Core) : (s.setCore k c).segs = s.segs := rfl
@[simp] theorem State.setCore_clusters (k : Nat) (c : Core) : (s.setCore k c).clusters = s.clusters := rfl
@[simp] theorem State.setCore_dies (k : Nat) (c : Core) : (s.setCore k c).dies = s.dies := rfl
@[simp] theorem State.setCore_parts (k : Nat) (c : Core) : (s.setCore k c).parts = s.parts := rfl
@[simp] theorem State.setCore_pkg (k : Nat) (c : Core) : (s.setCore k c).pkg = s.pkg := rfl
@[simp] theorem State.setCore_hbm (k : Nat) (c : Core) : (s.setCore k c).hbm = s.hbm := rfl
@[simp] theorem State.setCore_hbmPoison (k : Nat) (c : Core) : (s.setCore k c).hbmPoison = s.hbmPoison := rfl
@[simp] theorem State.setCore_llc (k : Nat) (c : Core) : (s.setCore k c).llc = s.llc := rfl
@[simp] theorem State.setCore_xlc (k : Nat) (c : Core) : (s.setCore k c).xlc = s.xlc := rfl
@[simp] theorem State.setCore_owner (k : Nat) (c : Core) : (s.setCore k c).owner = s.owner := rfl
@[simp] theorem State.setCore_arenas (k : Nat) (c : Core) : (s.setCore k c).arenas = s.arenas := rfl
@[simp] theorem State.setCore_pmts (k : Nat) (c : Core) : (s.setCore k c).pmts = s.pmts := rfl
@[simp] theorem State.setCore_merges (k : Nat) (c : Core) : (s.setCore k c).merges = s.merges := rfl
@[simp] theorem State.setCore_appends (k : Nat) (c : Core) : (s.setCore k c).appends = s.appends := rfl
@[simp] theorem State.setCore_fetches (k : Nat) (c : Core) : (s.setCore k c).fetches = s.fetches := rfl
@[simp] theorem State.setCore_ckpts (k : Nat) (c : Core) : (s.setCore k c).ckpts = s.ckpts := rfl
@[simp] theorem State.setCore_kernels (k : Nat) (c : Core) : (s.setCore k c).kernels = s.kernels := rfl
@[simp] theorem State.setCore_routers (k : Nat) (c : Core) : (s.setCore k c).routers = s.routers := rfl
@[simp] theorem State.setCore_ports (k : Nat) (c : Core) : (s.setCore k c).ports = s.ports := rfl
@[simp] theorem State.setCore_circuits (k : Nat) (c : Core) : (s.setCore k c).circuits = s.circuits := rfl
@[simp] theorem State.setCore_failedPorts (k : Nat) (c : Core) : (s.setCore k c).failedPorts = s.failedPorts := rfl
@[simp] theorem State.setCore_outPorts (k : Nat) (c : Core) : (s.setCore k c).outPorts = s.outPorts := rfl
@[simp] theorem State.setCore_inPorts (k : Nat) (c : Core) : (s.setCore k c).inPorts = s.inPorts := rfl
@[simp] theorem State.setCore_ethSeq (k : Nat) (c : Core) : (s.setCore k c).ethSeq = s.ethSeq := rfl
@[simp] theorem State.setCore_filters (k : Nat) (c : Core) : (s.setCore k c).filters = s.filters := rfl
@[simp] theorem State.setCore_atc (k : Nat) (c : Core) : (s.setCore k c).atc = s.atc := rfl
@[simp] theorem State.setCore_wire (k : Nat) (c : Core) : (s.setCore k c).wire = s.wire := rfl
@[simp] theorem State.setCore_outst (k : Nat) (c : Core) : (s.setCore k c).outst = s.outst := rfl
@[simp] theorem State.setCore_reqs (k : Nat) (c : Core) : (s.setCore k c).reqs = s.reqs := rfl
@[simp] theorem State.setCore_seqs (k : Nat) (c : Core) : (s.setCore k c).seqs = s.seqs := rfl
@[simp] theorem State.setCore_crcWait (k : Nat) (c : Core) : (s.setCore k c).crcWait = s.crcWait := rfl
@[simp] theorem State.setCore_nextTag (k : Nat) (c : Core) : (s.setCore k c).nextTag = s.nextTag := rfl
@[simp] theorem State.setCore_nextId (k : Nat) (c : Core) : (s.setCore k c).nextId = s.nextId := rfl
@[simp] theorem State.setCore_smcLog (k : Nat) (c : Core) : (s.setCore k c).smcLog = s.smcLog := rfl
@[simp] theorem State.setCore_out (k : Nat) (c : Core) : (s.setCore k c).out = s.out := rfl
@[simp] theorem State.setCore_inbox (k : Nat) (c : Core) : (s.setCore k c).inbox = s.inbox := rfl
@[simp] theorem State.setCore_hostq (k : Nat) (c : Core) : (s.setCore k c).hostq = s.hostq := rfl
@[simp] theorem State.setCore_cur (k : Nat) (c : Core) : (s.setCore k c).cur = s.cur := rfl
@[simp] theorem State.setCore_curCx (k : Nat) (c : Core) : (s.setCore k c).curCx = s.curCx := rfl
@[simp] theorem State.setCore_bnd (k : Nat) (c : Core) : (s.setCore k c).bnd = s.bnd := rfl
@[simp] theorem State.setCore_free (k : Nat) (c : Core) : (s.setCore k c).free = s.free := rfl

/-! ### updCore -/

@[simp] theorem State.updCore_segs (k : Nat) (f : Core → Core) : (s.updCore k f).segs = s.segs := rfl
@[simp] theorem State.updCore_clusters (k : Nat) (f : Core → Core) : (s.updCore k f).clusters = s.clusters := rfl
@[simp] theorem State.updCore_dies (k : Nat) (f : Core → Core) : (s.updCore k f).dies = s.dies := rfl
@[simp] theorem State.updCore_parts (k : Nat) (f : Core → Core) : (s.updCore k f).parts = s.parts := rfl
@[simp] theorem State.updCore_pkg (k : Nat) (f : Core → Core) : (s.updCore k f).pkg = s.pkg := rfl
@[simp] theorem State.updCore_hbm (k : Nat) (f : Core → Core) : (s.updCore k f).hbm = s.hbm := rfl
@[simp] theorem State.updCore_hbmPoison (k : Nat) (f : Core → Core) : (s.updCore k f).hbmPoison = s.hbmPoison := rfl
@[simp] theorem State.updCore_llc (k : Nat) (f : Core → Core) : (s.updCore k f).llc = s.llc := rfl
@[simp] theorem State.updCore_xlc (k : Nat) (f : Core → Core) : (s.updCore k f).xlc = s.xlc := rfl
@[simp] theorem State.updCore_owner (k : Nat) (f : Core → Core) : (s.updCore k f).owner = s.owner := rfl
@[simp] theorem State.updCore_arenas (k : Nat) (f : Core → Core) : (s.updCore k f).arenas = s.arenas := rfl
@[simp] theorem State.updCore_pmts (k : Nat) (f : Core → Core) : (s.updCore k f).pmts = s.pmts := rfl
@[simp] theorem State.updCore_merges (k : Nat) (f : Core → Core) : (s.updCore k f).merges = s.merges := rfl
@[simp] theorem State.updCore_appends (k : Nat) (f : Core → Core) : (s.updCore k f).appends = s.appends := rfl
@[simp] theorem State.updCore_fetches (k : Nat) (f : Core → Core) : (s.updCore k f).fetches = s.fetches := rfl
@[simp] theorem State.updCore_ckpts (k : Nat) (f : Core → Core) : (s.updCore k f).ckpts = s.ckpts := rfl
@[simp] theorem State.updCore_kernels (k : Nat) (f : Core → Core) : (s.updCore k f).kernels = s.kernels := rfl
@[simp] theorem State.updCore_routers (k : Nat) (f : Core → Core) : (s.updCore k f).routers = s.routers := rfl
@[simp] theorem State.updCore_ports (k : Nat) (f : Core → Core) : (s.updCore k f).ports = s.ports := rfl
@[simp] theorem State.updCore_circuits (k : Nat) (f : Core → Core) : (s.updCore k f).circuits = s.circuits := rfl
@[simp] theorem State.updCore_failedPorts (k : Nat) (f : Core → Core) : (s.updCore k f).failedPorts = s.failedPorts := rfl
@[simp] theorem State.updCore_outPorts (k : Nat) (f : Core → Core) : (s.updCore k f).outPorts = s.outPorts := rfl
@[simp] theorem State.updCore_inPorts (k : Nat) (f : Core → Core) : (s.updCore k f).inPorts = s.inPorts := rfl
@[simp] theorem State.updCore_ethSeq (k : Nat) (f : Core → Core) : (s.updCore k f).ethSeq = s.ethSeq := rfl
@[simp] theorem State.updCore_filters (k : Nat) (f : Core → Core) : (s.updCore k f).filters = s.filters := rfl
@[simp] theorem State.updCore_atc (k : Nat) (f : Core → Core) : (s.updCore k f).atc = s.atc := rfl
@[simp] theorem State.updCore_wire (k : Nat) (f : Core → Core) : (s.updCore k f).wire = s.wire := rfl
@[simp] theorem State.updCore_outst (k : Nat) (f : Core → Core) : (s.updCore k f).outst = s.outst := rfl
@[simp] theorem State.updCore_reqs (k : Nat) (f : Core → Core) : (s.updCore k f).reqs = s.reqs := rfl
@[simp] theorem State.updCore_seqs (k : Nat) (f : Core → Core) : (s.updCore k f).seqs = s.seqs := rfl
@[simp] theorem State.updCore_crcWait (k : Nat) (f : Core → Core) : (s.updCore k f).crcWait = s.crcWait := rfl
@[simp] theorem State.updCore_nextTag (k : Nat) (f : Core → Core) : (s.updCore k f).nextTag = s.nextTag := rfl
@[simp] theorem State.updCore_nextId (k : Nat) (f : Core → Core) : (s.updCore k f).nextId = s.nextId := rfl
@[simp] theorem State.updCore_smcLog (k : Nat) (f : Core → Core) : (s.updCore k f).smcLog = s.smcLog := rfl
@[simp] theorem State.updCore_out (k : Nat) (f : Core → Core) : (s.updCore k f).out = s.out := rfl
@[simp] theorem State.updCore_inbox (k : Nat) (f : Core → Core) : (s.updCore k f).inbox = s.inbox := rfl
@[simp] theorem State.updCore_hostq (k : Nat) (f : Core → Core) : (s.updCore k f).hostq = s.hostq := rfl
@[simp] theorem State.updCore_cur (k : Nat) (f : Core → Core) : (s.updCore k f).cur = s.cur := rfl
@[simp] theorem State.updCore_curCx (k : Nat) (f : Core → Core) : (s.updCore k f).curCx = s.curCx := rfl
@[simp] theorem State.updCore_bnd (k : Nat) (f : Core → Core) : (s.updCore k f).bnd = s.bnd := rfl
@[simp] theorem State.updCore_free (k : Nat) (f : Core → Core) : (s.updCore k f).free = s.free := rfl

/-! ### setCx -/

@[simp] theorem State.setCx_segs (k i : Nat) (x : Cx) : (s.setCx k i x).segs = s.segs := rfl
@[simp] theorem State.setCx_clusters (k i : Nat) (x : Cx) : (s.setCx k i x).clusters = s.clusters := rfl
@[simp] theorem State.setCx_dies (k i : Nat) (x : Cx) : (s.setCx k i x).dies = s.dies := rfl
@[simp] theorem State.setCx_parts (k i : Nat) (x : Cx) : (s.setCx k i x).parts = s.parts := rfl
@[simp] theorem State.setCx_pkg (k i : Nat) (x : Cx) : (s.setCx k i x).pkg = s.pkg := rfl
@[simp] theorem State.setCx_hbm (k i : Nat) (x : Cx) : (s.setCx k i x).hbm = s.hbm := rfl
@[simp] theorem State.setCx_hbmPoison (k i : Nat) (x : Cx) : (s.setCx k i x).hbmPoison = s.hbmPoison := rfl
@[simp] theorem State.setCx_llc (k i : Nat) (x : Cx) : (s.setCx k i x).llc = s.llc := rfl
@[simp] theorem State.setCx_xlc (k i : Nat) (x : Cx) : (s.setCx k i x).xlc = s.xlc := rfl
@[simp] theorem State.setCx_owner (k i : Nat) (x : Cx) : (s.setCx k i x).owner = s.owner := rfl
@[simp] theorem State.setCx_arenas (k i : Nat) (x : Cx) : (s.setCx k i x).arenas = s.arenas := rfl
@[simp] theorem State.setCx_pmts (k i : Nat) (x : Cx) : (s.setCx k i x).pmts = s.pmts := rfl
@[simp] theorem State.setCx_merges (k i : Nat) (x : Cx) : (s.setCx k i x).merges = s.merges := rfl
@[simp] theorem State.setCx_appends (k i : Nat) (x : Cx) : (s.setCx k i x).appends = s.appends := rfl
@[simp] theorem State.setCx_fetches (k i : Nat) (x : Cx) : (s.setCx k i x).fetches = s.fetches := rfl
@[simp] theorem State.setCx_ckpts (k i : Nat) (x : Cx) : (s.setCx k i x).ckpts = s.ckpts := rfl
@[simp] theorem State.setCx_kernels (k i : Nat) (x : Cx) : (s.setCx k i x).kernels = s.kernels := rfl
@[simp] theorem State.setCx_routers (k i : Nat) (x : Cx) : (s.setCx k i x).routers = s.routers := rfl
@[simp] theorem State.setCx_ports (k i : Nat) (x : Cx) : (s.setCx k i x).ports = s.ports := rfl
@[simp] theorem State.setCx_circuits (k i : Nat) (x : Cx) : (s.setCx k i x).circuits = s.circuits := rfl
@[simp] theorem State.setCx_failedPorts (k i : Nat) (x : Cx) : (s.setCx k i x).failedPorts = s.failedPorts := rfl
@[simp] theorem State.setCx_outPorts (k i : Nat) (x : Cx) : (s.setCx k i x).outPorts = s.outPorts := rfl
@[simp] theorem State.setCx_inPorts (k i : Nat) (x : Cx) : (s.setCx k i x).inPorts = s.inPorts := rfl
@[simp] theorem State.setCx_ethSeq (k i : Nat) (x : Cx) : (s.setCx k i x).ethSeq = s.ethSeq := rfl
@[simp] theorem State.setCx_filters (k i : Nat) (x : Cx) : (s.setCx k i x).filters = s.filters := rfl
@[simp] theorem State.setCx_atc (k i : Nat) (x : Cx) : (s.setCx k i x).atc = s.atc := rfl
@[simp] theorem State.setCx_wire (k i : Nat) (x : Cx) : (s.setCx k i x).wire = s.wire := rfl
@[simp] theorem State.setCx_outst (k i : Nat) (x : Cx) : (s.setCx k i x).outst = s.outst := rfl
@[simp] theorem State.setCx_reqs (k i : Nat) (x : Cx) : (s.setCx k i x).reqs = s.reqs := rfl
@[simp] theorem State.setCx_seqs (k i : Nat) (x : Cx) : (s.setCx k i x).seqs = s.seqs := rfl
@[simp] theorem State.setCx_crcWait (k i : Nat) (x : Cx) : (s.setCx k i x).crcWait = s.crcWait := rfl
@[simp] theorem State.setCx_nextTag (k i : Nat) (x : Cx) : (s.setCx k i x).nextTag = s.nextTag := rfl
@[simp] theorem State.setCx_nextId (k i : Nat) (x : Cx) : (s.setCx k i x).nextId = s.nextId := rfl
@[simp] theorem State.setCx_smcLog (k i : Nat) (x : Cx) : (s.setCx k i x).smcLog = s.smcLog := rfl
@[simp] theorem State.setCx_out (k i : Nat) (x : Cx) : (s.setCx k i x).out = s.out := rfl
@[simp] theorem State.setCx_inbox (k i : Nat) (x : Cx) : (s.setCx k i x).inbox = s.inbox := rfl
@[simp] theorem State.setCx_hostq (k i : Nat) (x : Cx) : (s.setCx k i x).hostq = s.hostq := rfl
@[simp] theorem State.setCx_cur (k i : Nat) (x : Cx) : (s.setCx k i x).cur = s.cur := rfl
@[simp] theorem State.setCx_curCx (k i : Nat) (x : Cx) : (s.setCx k i x).curCx = s.curCx := rfl
@[simp] theorem State.setCx_bnd (k i : Nat) (x : Cx) : (s.setCx k i x).bnd = s.bnd := rfl
@[simp] theorem State.setCx_free (k i : Nat) (x : Cx) : (s.setCx k i x).free = s.free := rfl

/-! ### updCx -/

@[simp] theorem State.updCx_segs (k i : Nat) (f : Cx → Cx) : (s.updCx k i f).segs = s.segs := rfl
@[simp] theorem State.updCx_clusters (k i : Nat) (f : Cx → Cx) : (s.updCx k i f).clusters = s.clusters := rfl
@[simp] theorem State.updCx_dies (k i : Nat) (f : Cx → Cx) : (s.updCx k i f).dies = s.dies := rfl
@[simp] theorem State.updCx_parts (k i : Nat) (f : Cx → Cx) : (s.updCx k i f).parts = s.parts := rfl
@[simp] theorem State.updCx_pkg (k i : Nat) (f : Cx → Cx) : (s.updCx k i f).pkg = s.pkg := rfl
@[simp] theorem State.updCx_hbm (k i : Nat) (f : Cx → Cx) : (s.updCx k i f).hbm = s.hbm := rfl
@[simp] theorem State.updCx_hbmPoison (k i : Nat) (f : Cx → Cx) : (s.updCx k i f).hbmPoison = s.hbmPoison := rfl
@[simp] theorem State.updCx_llc (k i : Nat) (f : Cx → Cx) : (s.updCx k i f).llc = s.llc := rfl
@[simp] theorem State.updCx_xlc (k i : Nat) (f : Cx → Cx) : (s.updCx k i f).xlc = s.xlc := rfl
@[simp] theorem State.updCx_owner (k i : Nat) (f : Cx → Cx) : (s.updCx k i f).owner = s.owner := rfl
@[simp] theorem State.updCx_arenas (k i : Nat) (f : Cx → Cx) : (s.updCx k i f).arenas = s.arenas := rfl
@[simp] theorem State.updCx_pmts (k i : Nat) (f : Cx → Cx) : (s.updCx k i f).pmts = s.pmts := rfl
@[simp] theorem State.updCx_merges (k i : Nat) (f : Cx → Cx) : (s.updCx k i f).merges = s.merges := rfl
@[simp] theorem State.updCx_appends (k i : Nat) (f : Cx → Cx) : (s.updCx k i f).appends = s.appends := rfl
@[simp] theorem State.updCx_fetches (k i : Nat) (f : Cx → Cx) : (s.updCx k i f).fetches = s.fetches := rfl
@[simp] theorem State.updCx_ckpts (k i : Nat) (f : Cx → Cx) : (s.updCx k i f).ckpts = s.ckpts := rfl
@[simp] theorem State.updCx_kernels (k i : Nat) (f : Cx → Cx) : (s.updCx k i f).kernels = s.kernels := rfl
@[simp] theorem State.updCx_routers (k i : Nat) (f : Cx → Cx) : (s.updCx k i f).routers = s.routers := rfl
@[simp] theorem State.updCx_ports (k i : Nat) (f : Cx → Cx) : (s.updCx k i f).ports = s.ports := rfl
@[simp] theorem State.updCx_circuits (k i : Nat) (f : Cx → Cx) : (s.updCx k i f).circuits = s.circuits := rfl
@[simp] theorem State.updCx_failedPorts (k i : Nat) (f : Cx → Cx) : (s.updCx k i f).failedPorts = s.failedPorts := rfl
@[simp] theorem State.updCx_outPorts (k i : Nat) (f : Cx → Cx) : (s.updCx k i f).outPorts = s.outPorts := rfl
@[simp] theorem State.updCx_inPorts (k i : Nat) (f : Cx → Cx) : (s.updCx k i f).inPorts = s.inPorts := rfl
@[simp] theorem State.updCx_ethSeq (k i : Nat) (f : Cx → Cx) : (s.updCx k i f).ethSeq = s.ethSeq := rfl
@[simp] theorem State.updCx_filters (k i : Nat) (f : Cx → Cx) : (s.updCx k i f).filters = s.filters := rfl
@[simp] theorem State.updCx_atc (k i : Nat) (f : Cx → Cx) : (s.updCx k i f).atc = s.atc := rfl
@[simp] theorem State.updCx_wire (k i : Nat) (f : Cx → Cx) : (s.updCx k i f).wire = s.wire := rfl
@[simp] theorem State.updCx_outst (k i : Nat) (f : Cx → Cx) : (s.updCx k i f).outst = s.outst := rfl
@[simp] theorem State.updCx_reqs (k i : Nat) (f : Cx → Cx) : (s.updCx k i f).reqs = s.reqs := rfl
@[simp] theorem State.updCx_seqs (k i : Nat) (f : Cx → Cx) : (s.updCx k i f).seqs = s.seqs := rfl
@[simp] theorem State.updCx_crcWait (k i : Nat) (f : Cx → Cx) : (s.updCx k i f).crcWait = s.crcWait := rfl
@[simp] theorem State.updCx_nextTag (k i : Nat) (f : Cx → Cx) : (s.updCx k i f).nextTag = s.nextTag := rfl
@[simp] theorem State.updCx_nextId (k i : Nat) (f : Cx → Cx) : (s.updCx k i f).nextId = s.nextId := rfl
@[simp] theorem State.updCx_smcLog (k i : Nat) (f : Cx → Cx) : (s.updCx k i f).smcLog = s.smcLog := rfl
@[simp] theorem State.updCx_out (k i : Nat) (f : Cx → Cx) : (s.updCx k i f).out = s.out := rfl
@[simp] theorem State.updCx_inbox (k i : Nat) (f : Cx → Cx) : (s.updCx k i f).inbox = s.inbox := rfl
@[simp] theorem State.updCx_hostq (k i : Nat) (f : Cx → Cx) : (s.updCx k i f).hostq = s.hostq := rfl
@[simp] theorem State.updCx_cur (k i : Nat) (f : Cx → Cx) : (s.updCx k i f).cur = s.cur := rfl
@[simp] theorem State.updCx_curCx (k i : Nat) (f : Cx → Cx) : (s.updCx k i f).curCx = s.curCx := rfl
@[simp] theorem State.updCx_bnd (k i : Nat) (f : Cx → Cx) : (s.updCx k i f).bnd = s.bnd := rfl
@[simp] theorem State.updCx_free (k i : Nat) (f : Cx → Cx) : (s.updCx k i f).free = s.free := rfl

/-! ### updMe -/

@[simp] theorem State.updMe_segs (f : Cx → Cx) : (s.updMe f).segs = s.segs := rfl
@[simp] theorem State.updMe_clusters (f : Cx → Cx) : (s.updMe f).clusters = s.clusters := rfl
@[simp] theorem State.updMe_dies (f : Cx → Cx) : (s.updMe f).dies = s.dies := rfl
@[simp] theorem State.updMe_parts (f : Cx → Cx) : (s.updMe f).parts = s.parts := rfl
@[simp] theorem State.updMe_pkg (f : Cx → Cx) : (s.updMe f).pkg = s.pkg := rfl
@[simp] theorem State.updMe_hbm (f : Cx → Cx) : (s.updMe f).hbm = s.hbm := rfl
@[simp] theorem State.updMe_hbmPoison (f : Cx → Cx) : (s.updMe f).hbmPoison = s.hbmPoison := rfl
@[simp] theorem State.updMe_llc (f : Cx → Cx) : (s.updMe f).llc = s.llc := rfl
@[simp] theorem State.updMe_xlc (f : Cx → Cx) : (s.updMe f).xlc = s.xlc := rfl
@[simp] theorem State.updMe_owner (f : Cx → Cx) : (s.updMe f).owner = s.owner := rfl
@[simp] theorem State.updMe_arenas (f : Cx → Cx) : (s.updMe f).arenas = s.arenas := rfl
@[simp] theorem State.updMe_pmts (f : Cx → Cx) : (s.updMe f).pmts = s.pmts := rfl
@[simp] theorem State.updMe_merges (f : Cx → Cx) : (s.updMe f).merges = s.merges := rfl
@[simp] theorem State.updMe_appends (f : Cx → Cx) : (s.updMe f).appends = s.appends := rfl
@[simp] theorem State.updMe_fetches (f : Cx → Cx) : (s.updMe f).fetches = s.fetches := rfl
@[simp] theorem State.updMe_ckpts (f : Cx → Cx) : (s.updMe f).ckpts = s.ckpts := rfl
@[simp] theorem State.updMe_kernels (f : Cx → Cx) : (s.updMe f).kernels = s.kernels := rfl
@[simp] theorem State.updMe_routers (f : Cx → Cx) : (s.updMe f).routers = s.routers := rfl
@[simp] theorem State.updMe_ports (f : Cx → Cx) : (s.updMe f).ports = s.ports := rfl
@[simp] theorem State.updMe_circuits (f : Cx → Cx) : (s.updMe f).circuits = s.circuits := rfl
@[simp] theorem State.updMe_failedPorts (f : Cx → Cx) : (s.updMe f).failedPorts = s.failedPorts := rfl
@[simp] theorem State.updMe_outPorts (f : Cx → Cx) : (s.updMe f).outPorts = s.outPorts := rfl
@[simp] theorem State.updMe_inPorts (f : Cx → Cx) : (s.updMe f).inPorts = s.inPorts := rfl
@[simp] theorem State.updMe_ethSeq (f : Cx → Cx) : (s.updMe f).ethSeq = s.ethSeq := rfl
@[simp] theorem State.updMe_filters (f : Cx → Cx) : (s.updMe f).filters = s.filters := rfl
@[simp] theorem State.updMe_atc (f : Cx → Cx) : (s.updMe f).atc = s.atc := rfl
@[simp] theorem State.updMe_wire (f : Cx → Cx) : (s.updMe f).wire = s.wire := rfl
@[simp] theorem State.updMe_outst (f : Cx → Cx) : (s.updMe f).outst = s.outst := rfl
@[simp] theorem State.updMe_reqs (f : Cx → Cx) : (s.updMe f).reqs = s.reqs := rfl
@[simp] theorem State.updMe_seqs (f : Cx → Cx) : (s.updMe f).seqs = s.seqs := rfl
@[simp] theorem State.updMe_crcWait (f : Cx → Cx) : (s.updMe f).crcWait = s.crcWait := rfl
@[simp] theorem State.updMe_nextTag (f : Cx → Cx) : (s.updMe f).nextTag = s.nextTag := rfl
@[simp] theorem State.updMe_nextId (f : Cx → Cx) : (s.updMe f).nextId = s.nextId := rfl
@[simp] theorem State.updMe_smcLog (f : Cx → Cx) : (s.updMe f).smcLog = s.smcLog := rfl
@[simp] theorem State.updMe_out (f : Cx → Cx) : (s.updMe f).out = s.out := rfl
@[simp] theorem State.updMe_inbox (f : Cx → Cx) : (s.updMe f).inbox = s.inbox := rfl
@[simp] theorem State.updMe_hostq (f : Cx → Cx) : (s.updMe f).hostq = s.hostq := rfl
@[simp] theorem State.updMe_cur (f : Cx → Cx) : (s.updMe f).cur = s.cur := rfl
@[simp] theorem State.updMe_curCx (f : Cx → Cx) : (s.updMe f).curCx = s.curCx := rfl
@[simp] theorem State.updMe_bnd (f : Cx → Cx) : (s.updMe f).bnd = s.bnd := rfl
@[simp] theorem State.updMe_free (f : Cx → Cx) : (s.updMe f).free = s.free := rfl

/-! ### updMyCore -/

@[simp] theorem State.updMyCore_segs (f : Core → Core) : (s.updMyCore f).segs = s.segs := rfl
@[simp] theorem State.updMyCore_clusters (f : Core → Core) : (s.updMyCore f).clusters = s.clusters := rfl
@[simp] theorem State.updMyCore_dies (f : Core → Core) : (s.updMyCore f).dies = s.dies := rfl
@[simp] theorem State.updMyCore_parts (f : Core → Core) : (s.updMyCore f).parts = s.parts := rfl
@[simp] theorem State.updMyCore_pkg (f : Core → Core) : (s.updMyCore f).pkg = s.pkg := rfl
@[simp] theorem State.updMyCore_hbm (f : Core → Core) : (s.updMyCore f).hbm = s.hbm := rfl
@[simp] theorem State.updMyCore_hbmPoison (f : Core → Core) : (s.updMyCore f).hbmPoison = s.hbmPoison := rfl
@[simp] theorem State.updMyCore_llc (f : Core → Core) : (s.updMyCore f).llc = s.llc := rfl
@[simp] theorem State.updMyCore_xlc (f : Core → Core) : (s.updMyCore f).xlc = s.xlc := rfl
@[simp] theorem State.updMyCore_owner (f : Core → Core) : (s.updMyCore f).owner = s.owner := rfl
@[simp] theorem State.updMyCore_arenas (f : Core → Core) : (s.updMyCore f).arenas = s.arenas := rfl
@[simp] theorem State.updMyCore_pmts (f : Core → Core) : (s.updMyCore f).pmts = s.pmts := rfl
@[simp] theorem State.updMyCore_merges (f : Core → Core) : (s.updMyCore f).merges = s.merges := rfl
@[simp] theorem State.updMyCore_appends (f : Core → Core) : (s.updMyCore f).appends = s.appends := rfl
@[simp] theorem State.updMyCore_fetches (f : Core → Core) : (s.updMyCore f).fetches = s.fetches := rfl
@[simp] theorem State.updMyCore_ckpts (f : Core → Core) : (s.updMyCore f).ckpts = s.ckpts := rfl
@[simp] theorem State.updMyCore_kernels (f : Core → Core) : (s.updMyCore f).kernels = s.kernels := rfl
@[simp] theorem State.updMyCore_routers (f : Core → Core) : (s.updMyCore f).routers = s.routers := rfl
@[simp] theorem State.updMyCore_ports (f : Core → Core) : (s.updMyCore f).ports = s.ports := rfl
@[simp] theorem State.updMyCore_circuits (f : Core → Core) : (s.updMyCore f).circuits = s.circuits := rfl
@[simp] theorem State.updMyCore_failedPorts (f : Core → Core) : (s.updMyCore f).failedPorts = s.failedPorts := rfl
@[simp] theorem State.updMyCore_outPorts (f : Core → Core) : (s.updMyCore f).outPorts = s.outPorts := rfl
@[simp] theorem State.updMyCore_inPorts (f : Core → Core) : (s.updMyCore f).inPorts = s.inPorts := rfl
@[simp] theorem State.updMyCore_ethSeq (f : Core → Core) : (s.updMyCore f).ethSeq = s.ethSeq := rfl
@[simp] theorem State.updMyCore_filters (f : Core → Core) : (s.updMyCore f).filters = s.filters := rfl
@[simp] theorem State.updMyCore_atc (f : Core → Core) : (s.updMyCore f).atc = s.atc := rfl
@[simp] theorem State.updMyCore_wire (f : Core → Core) : (s.updMyCore f).wire = s.wire := rfl
@[simp] theorem State.updMyCore_outst (f : Core → Core) : (s.updMyCore f).outst = s.outst := rfl
@[simp] theorem State.updMyCore_reqs (f : Core → Core) : (s.updMyCore f).reqs = s.reqs := rfl
@[simp] theorem State.updMyCore_seqs (f : Core → Core) : (s.updMyCore f).seqs = s.seqs := rfl
@[simp] theorem State.updMyCore_crcWait (f : Core → Core) : (s.updMyCore f).crcWait = s.crcWait := rfl
@[simp] theorem State.updMyCore_nextTag (f : Core → Core) : (s.updMyCore f).nextTag = s.nextTag := rfl
@[simp] theorem State.updMyCore_nextId (f : Core → Core) : (s.updMyCore f).nextId = s.nextId := rfl
@[simp] theorem State.updMyCore_smcLog (f : Core → Core) : (s.updMyCore f).smcLog = s.smcLog := rfl
@[simp] theorem State.updMyCore_out (f : Core → Core) : (s.updMyCore f).out = s.out := rfl
@[simp] theorem State.updMyCore_inbox (f : Core → Core) : (s.updMyCore f).inbox = s.inbox := rfl
@[simp] theorem State.updMyCore_hostq (f : Core → Core) : (s.updMyCore f).hostq = s.hostq := rfl
@[simp] theorem State.updMyCore_cur (f : Core → Core) : (s.updMyCore f).cur = s.cur := rfl
@[simp] theorem State.updMyCore_curCx (f : Core → Core) : (s.updMyCore f).curCx = s.curCx := rfl
@[simp] theorem State.updMyCore_bnd (f : Core → Core) : (s.updMyCore f).bnd = s.bnd := rfl
@[simp] theorem State.updMyCore_free (f : Core → Core) : (s.updMyCore f).free = s.free := rfl

/-! ### updCluster -/

@[simp] theorem State.updCluster_cores (k : Nat) (f : Cluster → Cluster) : (s.updCluster k f).cores = s.cores := rfl
@[simp] theorem State.updCluster_segs (k : Nat) (f : Cluster → Cluster) : (s.updCluster k f).segs = s.segs := rfl
@[simp] theorem State.updCluster_dies (k : Nat) (f : Cluster → Cluster) : (s.updCluster k f).dies = s.dies := rfl
@[simp] theorem State.updCluster_parts (k : Nat) (f : Cluster → Cluster) : (s.updCluster k f).parts = s.parts := rfl
@[simp] theorem State.updCluster_pkg (k : Nat) (f : Cluster → Cluster) : (s.updCluster k f).pkg = s.pkg := rfl
@[simp] theorem State.updCluster_hbm (k : Nat) (f : Cluster → Cluster) : (s.updCluster k f).hbm = s.hbm := rfl
@[simp] theorem State.updCluster_hbmPoison (k : Nat) (f : Cluster → Cluster) : (s.updCluster k f).hbmPoison = s.hbmPoison := rfl
@[simp] theorem State.updCluster_llc (k : Nat) (f : Cluster → Cluster) : (s.updCluster k f).llc = s.llc := rfl
@[simp] theorem State.updCluster_xlc (k : Nat) (f : Cluster → Cluster) : (s.updCluster k f).xlc = s.xlc := rfl
@[simp] theorem State.updCluster_owner (k : Nat) (f : Cluster → Cluster) : (s.updCluster k f).owner = s.owner := rfl
@[simp] theorem State.updCluster_arenas (k : Nat) (f : Cluster → Cluster) : (s.updCluster k f).arenas = s.arenas := rfl
@[simp] theorem State.updCluster_pmts (k : Nat) (f : Cluster → Cluster) : (s.updCluster k f).pmts = s.pmts := rfl
@[simp] theorem State.updCluster_merges (k : Nat) (f : Cluster → Cluster) : (s.updCluster k f).merges = s.merges := rfl
@[simp] theorem State.updCluster_appends (k : Nat) (f : Cluster → Cluster) : (s.updCluster k f).appends = s.appends := rfl
@[simp] theorem State.updCluster_fetches (k : Nat) (f : Cluster → Cluster) : (s.updCluster k f).fetches = s.fetches := rfl
@[simp] theorem State.updCluster_ckpts (k : Nat) (f : Cluster → Cluster) : (s.updCluster k f).ckpts = s.ckpts := rfl
@[simp] theorem State.updCluster_kernels (k : Nat) (f : Cluster → Cluster) : (s.updCluster k f).kernels = s.kernels := rfl
@[simp] theorem State.updCluster_routers (k : Nat) (f : Cluster → Cluster) : (s.updCluster k f).routers = s.routers := rfl
@[simp] theorem State.updCluster_ports (k : Nat) (f : Cluster → Cluster) : (s.updCluster k f).ports = s.ports := rfl
@[simp] theorem State.updCluster_circuits (k : Nat) (f : Cluster → Cluster) : (s.updCluster k f).circuits = s.circuits := rfl
@[simp] theorem State.updCluster_failedPorts (k : Nat) (f : Cluster → Cluster) : (s.updCluster k f).failedPorts = s.failedPorts := rfl
@[simp] theorem State.updCluster_outPorts (k : Nat) (f : Cluster → Cluster) : (s.updCluster k f).outPorts = s.outPorts := rfl
@[simp] theorem State.updCluster_inPorts (k : Nat) (f : Cluster → Cluster) : (s.updCluster k f).inPorts = s.inPorts := rfl
@[simp] theorem State.updCluster_ethSeq (k : Nat) (f : Cluster → Cluster) : (s.updCluster k f).ethSeq = s.ethSeq := rfl
@[simp] theorem State.updCluster_filters (k : Nat) (f : Cluster → Cluster) : (s.updCluster k f).filters = s.filters := rfl
@[simp] theorem State.updCluster_atc (k : Nat) (f : Cluster → Cluster) : (s.updCluster k f).atc = s.atc := rfl
@[simp] theorem State.updCluster_wire (k : Nat) (f : Cluster → Cluster) : (s.updCluster k f).wire = s.wire := rfl
@[simp] theorem State.updCluster_outst (k : Nat) (f : Cluster → Cluster) : (s.updCluster k f).outst = s.outst := rfl
@[simp] theorem State.updCluster_reqs (k : Nat) (f : Cluster → Cluster) : (s.updCluster k f).reqs = s.reqs := rfl
@[simp] theorem State.updCluster_seqs (k : Nat) (f : Cluster → Cluster) : (s.updCluster k f).seqs = s.seqs := rfl
@[simp] theorem State.updCluster_crcWait (k : Nat) (f : Cluster → Cluster) : (s.updCluster k f).crcWait = s.crcWait := rfl
@[simp] theorem State.updCluster_nextTag (k : Nat) (f : Cluster → Cluster) : (s.updCluster k f).nextTag = s.nextTag := rfl
@[simp] theorem State.updCluster_nextId (k : Nat) (f : Cluster → Cluster) : (s.updCluster k f).nextId = s.nextId := rfl
@[simp] theorem State.updCluster_smcLog (k : Nat) (f : Cluster → Cluster) : (s.updCluster k f).smcLog = s.smcLog := rfl
@[simp] theorem State.updCluster_out (k : Nat) (f : Cluster → Cluster) : (s.updCluster k f).out = s.out := rfl
@[simp] theorem State.updCluster_inbox (k : Nat) (f : Cluster → Cluster) : (s.updCluster k f).inbox = s.inbox := rfl
@[simp] theorem State.updCluster_hostq (k : Nat) (f : Cluster → Cluster) : (s.updCluster k f).hostq = s.hostq := rfl
@[simp] theorem State.updCluster_cur (k : Nat) (f : Cluster → Cluster) : (s.updCluster k f).cur = s.cur := rfl
@[simp] theorem State.updCluster_curCx (k : Nat) (f : Cluster → Cluster) : (s.updCluster k f).curCx = s.curCx := rfl
@[simp] theorem State.updCluster_bnd (k : Nat) (f : Cluster → Cluster) : (s.updCluster k f).bnd = s.bnd := rfl
@[simp] theorem State.updCluster_free (k : Nat) (f : Cluster → Cluster) : (s.updCluster k f).free = s.free := rfl

/-! ### updDie -/

@[simp] theorem State.updDie_cores (k : Nat) (f : Die → Die) : (s.updDie k f).cores = s.cores := rfl
@[simp] theorem State.updDie_segs (k : Nat) (f : Die → Die) : (s.updDie k f).segs = s.segs := rfl
@[simp] theorem State.updDie_clusters (k : Nat) (f : Die → Die) : (s.updDie k f).clusters = s.clusters := rfl
@[simp] theorem State.updDie_parts (k : Nat) (f : Die → Die) : (s.updDie k f).parts = s.parts := rfl
@[simp] theorem State.updDie_pkg (k : Nat) (f : Die → Die) : (s.updDie k f).pkg = s.pkg := rfl
@[simp] theorem State.updDie_hbm (k : Nat) (f : Die → Die) : (s.updDie k f).hbm = s.hbm := rfl
@[simp] theorem State.updDie_hbmPoison (k : Nat) (f : Die → Die) : (s.updDie k f).hbmPoison = s.hbmPoison := rfl
@[simp] theorem State.updDie_llc (k : Nat) (f : Die → Die) : (s.updDie k f).llc = s.llc := rfl
@[simp] theorem State.updDie_xlc (k : Nat) (f : Die → Die) : (s.updDie k f).xlc = s.xlc := rfl
@[simp] theorem State.updDie_owner (k : Nat) (f : Die → Die) : (s.updDie k f).owner = s.owner := rfl
@[simp] theorem State.updDie_arenas (k : Nat) (f : Die → Die) : (s.updDie k f).arenas = s.arenas := rfl
@[simp] theorem State.updDie_pmts (k : Nat) (f : Die → Die) : (s.updDie k f).pmts = s.pmts := rfl
@[simp] theorem State.updDie_merges (k : Nat) (f : Die → Die) : (s.updDie k f).merges = s.merges := rfl
@[simp] theorem State.updDie_appends (k : Nat) (f : Die → Die) : (s.updDie k f).appends = s.appends := rfl
@[simp] theorem State.updDie_fetches (k : Nat) (f : Die → Die) : (s.updDie k f).fetches = s.fetches := rfl
@[simp] theorem State.updDie_ckpts (k : Nat) (f : Die → Die) : (s.updDie k f).ckpts = s.ckpts := rfl
@[simp] theorem State.updDie_kernels (k : Nat) (f : Die → Die) : (s.updDie k f).kernels = s.kernels := rfl
@[simp] theorem State.updDie_routers (k : Nat) (f : Die → Die) : (s.updDie k f).routers = s.routers := rfl
@[simp] theorem State.updDie_ports (k : Nat) (f : Die → Die) : (s.updDie k f).ports = s.ports := rfl
@[simp] theorem State.updDie_circuits (k : Nat) (f : Die → Die) : (s.updDie k f).circuits = s.circuits := rfl
@[simp] theorem State.updDie_failedPorts (k : Nat) (f : Die → Die) : (s.updDie k f).failedPorts = s.failedPorts := rfl
@[simp] theorem State.updDie_outPorts (k : Nat) (f : Die → Die) : (s.updDie k f).outPorts = s.outPorts := rfl
@[simp] theorem State.updDie_inPorts (k : Nat) (f : Die → Die) : (s.updDie k f).inPorts = s.inPorts := rfl
@[simp] theorem State.updDie_ethSeq (k : Nat) (f : Die → Die) : (s.updDie k f).ethSeq = s.ethSeq := rfl
@[simp] theorem State.updDie_filters (k : Nat) (f : Die → Die) : (s.updDie k f).filters = s.filters := rfl
@[simp] theorem State.updDie_atc (k : Nat) (f : Die → Die) : (s.updDie k f).atc = s.atc := rfl
@[simp] theorem State.updDie_wire (k : Nat) (f : Die → Die) : (s.updDie k f).wire = s.wire := rfl
@[simp] theorem State.updDie_outst (k : Nat) (f : Die → Die) : (s.updDie k f).outst = s.outst := rfl
@[simp] theorem State.updDie_reqs (k : Nat) (f : Die → Die) : (s.updDie k f).reqs = s.reqs := rfl
@[simp] theorem State.updDie_seqs (k : Nat) (f : Die → Die) : (s.updDie k f).seqs = s.seqs := rfl
@[simp] theorem State.updDie_crcWait (k : Nat) (f : Die → Die) : (s.updDie k f).crcWait = s.crcWait := rfl
@[simp] theorem State.updDie_nextTag (k : Nat) (f : Die → Die) : (s.updDie k f).nextTag = s.nextTag := rfl
@[simp] theorem State.updDie_nextId (k : Nat) (f : Die → Die) : (s.updDie k f).nextId = s.nextId := rfl
@[simp] theorem State.updDie_smcLog (k : Nat) (f : Die → Die) : (s.updDie k f).smcLog = s.smcLog := rfl
@[simp] theorem State.updDie_out (k : Nat) (f : Die → Die) : (s.updDie k f).out = s.out := rfl
@[simp] theorem State.updDie_inbox (k : Nat) (f : Die → Die) : (s.updDie k f).inbox = s.inbox := rfl
@[simp] theorem State.updDie_hostq (k : Nat) (f : Die → Die) : (s.updDie k f).hostq = s.hostq := rfl
@[simp] theorem State.updDie_cur (k : Nat) (f : Die → Die) : (s.updDie k f).cur = s.cur := rfl
@[simp] theorem State.updDie_curCx (k : Nat) (f : Die → Die) : (s.updDie k f).curCx = s.curCx := rfl
@[simp] theorem State.updDie_bnd (k : Nat) (f : Die → Die) : (s.updDie k f).bnd = s.bnd := rfl
@[simp] theorem State.updDie_free (k : Nat) (f : Die → Die) : (s.updDie k f).free = s.free := rfl

/-! ### updPart -/

@[simp] theorem State.updPart_cores (k : Nat) (f : Part → Part) : (s.updPart k f).cores = s.cores := rfl
@[simp] theorem State.updPart_segs (k : Nat) (f : Part → Part) : (s.updPart k f).segs = s.segs := rfl
@[simp] theorem State.updPart_clusters (k : Nat) (f : Part → Part) : (s.updPart k f).clusters = s.clusters := rfl
@[simp] theorem State.updPart_dies (k : Nat) (f : Part → Part) : (s.updPart k f).dies = s.dies := rfl
@[simp] theorem State.updPart_pkg (k : Nat) (f : Part → Part) : (s.updPart k f).pkg = s.pkg := rfl
@[simp] theorem State.updPart_hbm (k : Nat) (f : Part → Part) : (s.updPart k f).hbm = s.hbm := rfl
@[simp] theorem State.updPart_hbmPoison (k : Nat) (f : Part → Part) : (s.updPart k f).hbmPoison = s.hbmPoison := rfl
@[simp] theorem State.updPart_llc (k : Nat) (f : Part → Part) : (s.updPart k f).llc = s.llc := rfl
@[simp] theorem State.updPart_xlc (k : Nat) (f : Part → Part) : (s.updPart k f).xlc = s.xlc := rfl
@[simp] theorem State.updPart_owner (k : Nat) (f : Part → Part) : (s.updPart k f).owner = s.owner := rfl
@[simp] theorem State.updPart_arenas (k : Nat) (f : Part → Part) : (s.updPart k f).arenas = s.arenas := rfl
@[simp] theorem State.updPart_pmts (k : Nat) (f : Part → Part) : (s.updPart k f).pmts = s.pmts := rfl
@[simp] theorem State.updPart_merges (k : Nat) (f : Part → Part) : (s.updPart k f).merges = s.merges := rfl
@[simp] theorem State.updPart_appends (k : Nat) (f : Part → Part) : (s.updPart k f).appends = s.appends := rfl
@[simp] theorem State.updPart_fetches (k : Nat) (f : Part → Part) : (s.updPart k f).fetches = s.fetches := rfl
@[simp] theorem State.updPart_ckpts (k : Nat) (f : Part → Part) : (s.updPart k f).ckpts = s.ckpts := rfl
@[simp] theorem State.updPart_kernels (k : Nat) (f : Part → Part) : (s.updPart k f).kernels = s.kernels := rfl
@[simp] theorem State.updPart_routers (k : Nat) (f : Part → Part) : (s.updPart k f).routers = s.routers := rfl
@[simp] theorem State.updPart_ports (k : Nat) (f : Part → Part) : (s.updPart k f).ports = s.ports := rfl
@[simp] theorem State.updPart_circuits (k : Nat) (f : Part → Part) : (s.updPart k f).circuits = s.circuits := rfl
@[simp] theorem State.updPart_failedPorts (k : Nat) (f : Part → Part) : (s.updPart k f).failedPorts = s.failedPorts := rfl
@[simp] theorem State.updPart_outPorts (k : Nat) (f : Part → Part) : (s.updPart k f).outPorts = s.outPorts := rfl
@[simp] theorem State.updPart_inPorts (k : Nat) (f : Part → Part) : (s.updPart k f).inPorts = s.inPorts := rfl
@[simp] theorem State.updPart_ethSeq (k : Nat) (f : Part → Part) : (s.updPart k f).ethSeq = s.ethSeq := rfl
@[simp] theorem State.updPart_filters (k : Nat) (f : Part → Part) : (s.updPart k f).filters = s.filters := rfl
@[simp] theorem State.updPart_atc (k : Nat) (f : Part → Part) : (s.updPart k f).atc = s.atc := rfl
@[simp] theorem State.updPart_wire (k : Nat) (f : Part → Part) : (s.updPart k f).wire = s.wire := rfl
@[simp] theorem State.updPart_outst (k : Nat) (f : Part → Part) : (s.updPart k f).outst = s.outst := rfl
@[simp] theorem State.updPart_reqs (k : Nat) (f : Part → Part) : (s.updPart k f).reqs = s.reqs := rfl
@[simp] theorem State.updPart_seqs (k : Nat) (f : Part → Part) : (s.updPart k f).seqs = s.seqs := rfl
@[simp] theorem State.updPart_crcWait (k : Nat) (f : Part → Part) : (s.updPart k f).crcWait = s.crcWait := rfl
@[simp] theorem State.updPart_nextTag (k : Nat) (f : Part → Part) : (s.updPart k f).nextTag = s.nextTag := rfl
@[simp] theorem State.updPart_nextId (k : Nat) (f : Part → Part) : (s.updPart k f).nextId = s.nextId := rfl
@[simp] theorem State.updPart_smcLog (k : Nat) (f : Part → Part) : (s.updPart k f).smcLog = s.smcLog := rfl
@[simp] theorem State.updPart_out (k : Nat) (f : Part → Part) : (s.updPart k f).out = s.out := rfl
@[simp] theorem State.updPart_inbox (k : Nat) (f : Part → Part) : (s.updPart k f).inbox = s.inbox := rfl
@[simp] theorem State.updPart_hostq (k : Nat) (f : Part → Part) : (s.updPart k f).hostq = s.hostq := rfl
@[simp] theorem State.updPart_cur (k : Nat) (f : Part → Part) : (s.updPart k f).cur = s.cur := rfl
@[simp] theorem State.updPart_curCx (k : Nat) (f : Part → Part) : (s.updPart k f).curCx = s.curCx := rfl
@[simp] theorem State.updPart_bnd (k : Nat) (f : Part → Part) : (s.updPart k f).bnd = s.bnd := rfl
@[simp] theorem State.updPart_free (k : Nat) (f : Part → Part) : (s.updPart k f).free = s.free := rfl

/-! ### updRouter -/

@[simp] theorem State.updRouter_cores (k : Nat) (f : Router → Router) : (s.updRouter k f).cores = s.cores := rfl
@[simp] theorem State.updRouter_segs (k : Nat) (f : Router → Router) : (s.updRouter k f).segs = s.segs := rfl
@[simp] theorem State.updRouter_clusters (k : Nat) (f : Router → Router) : (s.updRouter k f).clusters = s.clusters := rfl
@[simp] theorem State.updRouter_dies (k : Nat) (f : Router → Router) : (s.updRouter k f).dies = s.dies := rfl
@[simp] theorem State.updRouter_parts (k : Nat) (f : Router → Router) : (s.updRouter k f).parts = s.parts := rfl
@[simp] theorem State.updRouter_pkg (k : Nat) (f : Router → Router) : (s.updRouter k f).pkg = s.pkg := rfl
@[simp] theorem State.updRouter_hbm (k : Nat) (f : Router → Router) : (s.updRouter k f).hbm = s.hbm := rfl
@[simp] theorem State.updRouter_hbmPoison (k : Nat) (f : Router → Router) : (s.updRouter k f).hbmPoison = s.hbmPoison := rfl
@[simp] theorem State.updRouter_llc (k : Nat) (f : Router → Router) : (s.updRouter k f).llc = s.llc := rfl
@[simp] theorem State.updRouter_xlc (k : Nat) (f : Router → Router) : (s.updRouter k f).xlc = s.xlc := rfl
@[simp] theorem State.updRouter_owner (k : Nat) (f : Router → Router) : (s.updRouter k f).owner = s.owner := rfl
@[simp] theorem State.updRouter_arenas (k : Nat) (f : Router → Router) : (s.updRouter k f).arenas = s.arenas := rfl
@[simp] theorem State.updRouter_pmts (k : Nat) (f : Router → Router) : (s.updRouter k f).pmts = s.pmts := rfl
@[simp] theorem State.updRouter_merges (k : Nat) (f : Router → Router) : (s.updRouter k f).merges = s.merges := rfl
@[simp] theorem State.updRouter_appends (k : Nat) (f : Router → Router) : (s.updRouter k f).appends = s.appends := rfl
@[simp] theorem State.updRouter_fetches (k : Nat) (f : Router → Router) : (s.updRouter k f).fetches = s.fetches := rfl
@[simp] theorem State.updRouter_ckpts (k : Nat) (f : Router → Router) : (s.updRouter k f).ckpts = s.ckpts := rfl
@[simp] theorem State.updRouter_kernels (k : Nat) (f : Router → Router) : (s.updRouter k f).kernels = s.kernels := rfl
@[simp] theorem State.updRouter_ports (k : Nat) (f : Router → Router) : (s.updRouter k f).ports = s.ports := rfl
@[simp] theorem State.updRouter_circuits (k : Nat) (f : Router → Router) : (s.updRouter k f).circuits = s.circuits := rfl
@[simp] theorem State.updRouter_failedPorts (k : Nat) (f : Router → Router) : (s.updRouter k f).failedPorts = s.failedPorts := rfl
@[simp] theorem State.updRouter_outPorts (k : Nat) (f : Router → Router) : (s.updRouter k f).outPorts = s.outPorts := rfl
@[simp] theorem State.updRouter_inPorts (k : Nat) (f : Router → Router) : (s.updRouter k f).inPorts = s.inPorts := rfl
@[simp] theorem State.updRouter_ethSeq (k : Nat) (f : Router → Router) : (s.updRouter k f).ethSeq = s.ethSeq := rfl
@[simp] theorem State.updRouter_filters (k : Nat) (f : Router → Router) : (s.updRouter k f).filters = s.filters := rfl
@[simp] theorem State.updRouter_atc (k : Nat) (f : Router → Router) : (s.updRouter k f).atc = s.atc := rfl
@[simp] theorem State.updRouter_wire (k : Nat) (f : Router → Router) : (s.updRouter k f).wire = s.wire := rfl
@[simp] theorem State.updRouter_outst (k : Nat) (f : Router → Router) : (s.updRouter k f).outst = s.outst := rfl
@[simp] theorem State.updRouter_reqs (k : Nat) (f : Router → Router) : (s.updRouter k f).reqs = s.reqs := rfl
@[simp] theorem State.updRouter_seqs (k : Nat) (f : Router → Router) : (s.updRouter k f).seqs = s.seqs := rfl
@[simp] theorem State.updRouter_crcWait (k : Nat) (f : Router → Router) : (s.updRouter k f).crcWait = s.crcWait := rfl
@[simp] theorem State.updRouter_nextTag (k : Nat) (f : Router → Router) : (s.updRouter k f).nextTag = s.nextTag := rfl
@[simp] theorem State.updRouter_nextId (k : Nat) (f : Router → Router) : (s.updRouter k f).nextId = s.nextId := rfl
@[simp] theorem State.updRouter_smcLog (k : Nat) (f : Router → Router) : (s.updRouter k f).smcLog = s.smcLog := rfl
@[simp] theorem State.updRouter_out (k : Nat) (f : Router → Router) : (s.updRouter k f).out = s.out := rfl
@[simp] theorem State.updRouter_inbox (k : Nat) (f : Router → Router) : (s.updRouter k f).inbox = s.inbox := rfl
@[simp] theorem State.updRouter_hostq (k : Nat) (f : Router → Router) : (s.updRouter k f).hostq = s.hostq := rfl
@[simp] theorem State.updRouter_cur (k : Nat) (f : Router → Router) : (s.updRouter k f).cur = s.cur := rfl
@[simp] theorem State.updRouter_curCx (k : Nat) (f : Router → Router) : (s.updRouter k f).curCx = s.curCx := rfl
@[simp] theorem State.updRouter_bnd (k : Nat) (f : Router → Router) : (s.updRouter k f).bnd = s.bnd := rfl
@[simp] theorem State.updRouter_free (k : Nat) (f : Router → Router) : (s.updRouter k f).free = s.free := rfl

/-! ### updPort -/

@[simp] theorem State.updPort_cores (k : Nat) (f : Port → Port) : (s.updPort k f).cores = s.cores := rfl
@[simp] theorem State.updPort_segs (k : Nat) (f : Port → Port) : (s.updPort k f).segs = s.segs := rfl
@[simp] theorem State.updPort_clusters (k : Nat) (f : Port → Port) : (s.updPort k f).clusters = s.clusters := rfl
@[simp] theorem State.updPort_dies (k : Nat) (f : Port → Port) : (s.updPort k f).dies = s.dies := rfl
@[simp] theorem State.updPort_parts (k : Nat) (f : Port → Port) : (s.updPort k f).parts = s.parts := rfl
@[simp] theorem State.updPort_pkg (k : Nat) (f : Port → Port) : (s.updPort k f).pkg = s.pkg := rfl
@[simp] theorem State.updPort_hbm (k : Nat) (f : Port → Port) : (s.updPort k f).hbm = s.hbm := rfl
@[simp] theorem State.updPort_hbmPoison (k : Nat) (f : Port → Port) : (s.updPort k f).hbmPoison = s.hbmPoison := rfl
@[simp] theorem State.updPort_llc (k : Nat) (f : Port → Port) : (s.updPort k f).llc = s.llc := rfl
@[simp] theorem State.updPort_xlc (k : Nat) (f : Port → Port) : (s.updPort k f).xlc = s.xlc := rfl
@[simp] theorem State.updPort_owner (k : Nat) (f : Port → Port) : (s.updPort k f).owner = s.owner := rfl
@[simp] theorem State.updPort_arenas (k : Nat) (f : Port → Port) : (s.updPort k f).arenas = s.arenas := rfl
@[simp] theorem State.updPort_pmts (k : Nat) (f : Port → Port) : (s.updPort k f).pmts = s.pmts := rfl
@[simp] theorem State.updPort_merges (k : Nat) (f : Port → Port) : (s.updPort k f).merges = s.merges := rfl
@[simp] theorem State.updPort_appends (k : Nat) (f : Port → Port) : (s.updPort k f).appends = s.appends := rfl
@[simp] theorem State.updPort_fetches (k : Nat) (f : Port → Port) : (s.updPort k f).fetches = s.fetches := rfl
@[simp] theorem State.updPort_ckpts (k : Nat) (f : Port → Port) : (s.updPort k f).ckpts = s.ckpts := rfl
@[simp] theorem State.updPort_kernels (k : Nat) (f : Port → Port) : (s.updPort k f).kernels = s.kernels := rfl
@[simp] theorem State.updPort_routers (k : Nat) (f : Port → Port) : (s.updPort k f).routers = s.routers := rfl
@[simp] theorem State.updPort_circuits (k : Nat) (f : Port → Port) : (s.updPort k f).circuits = s.circuits := rfl
@[simp] theorem State.updPort_failedPorts (k : Nat) (f : Port → Port) : (s.updPort k f).failedPorts = s.failedPorts := rfl
@[simp] theorem State.updPort_outPorts (k : Nat) (f : Port → Port) : (s.updPort k f).outPorts = s.outPorts := rfl
@[simp] theorem State.updPort_inPorts (k : Nat) (f : Port → Port) : (s.updPort k f).inPorts = s.inPorts := rfl
@[simp] theorem State.updPort_ethSeq (k : Nat) (f : Port → Port) : (s.updPort k f).ethSeq = s.ethSeq := rfl
@[simp] theorem State.updPort_filters (k : Nat) (f : Port → Port) : (s.updPort k f).filters = s.filters := rfl
@[simp] theorem State.updPort_atc (k : Nat) (f : Port → Port) : (s.updPort k f).atc = s.atc := rfl
@[simp] theorem State.updPort_wire (k : Nat) (f : Port → Port) : (s.updPort k f).wire = s.wire := rfl
@[simp] theorem State.updPort_outst (k : Nat) (f : Port → Port) : (s.updPort k f).outst = s.outst := rfl
@[simp] theorem State.updPort_reqs (k : Nat) (f : Port → Port) : (s.updPort k f).reqs = s.reqs := rfl
@[simp] theorem State.updPort_seqs (k : Nat) (f : Port → Port) : (s.updPort k f).seqs = s.seqs := rfl
@[simp] theorem State.updPort_crcWait (k : Nat) (f : Port → Port) : (s.updPort k f).crcWait = s.crcWait := rfl
@[simp] theorem State.updPort_nextTag (k : Nat) (f : Port → Port) : (s.updPort k f).nextTag = s.nextTag := rfl
@[simp] theorem State.updPort_nextId (k : Nat) (f : Port → Port) : (s.updPort k f).nextId = s.nextId := rfl
@[simp] theorem State.updPort_smcLog (k : Nat) (f : Port → Port) : (s.updPort k f).smcLog = s.smcLog := rfl
@[simp] theorem State.updPort_out (k : Nat) (f : Port → Port) : (s.updPort k f).out = s.out := rfl
@[simp] theorem State.updPort_inbox (k : Nat) (f : Port → Port) : (s.updPort k f).inbox = s.inbox := rfl
@[simp] theorem State.updPort_hostq (k : Nat) (f : Port → Port) : (s.updPort k f).hostq = s.hostq := rfl
@[simp] theorem State.updPort_cur (k : Nat) (f : Port → Port) : (s.updPort k f).cur = s.cur := rfl
@[simp] theorem State.updPort_curCx (k : Nat) (f : Port → Port) : (s.updPort k f).curCx = s.curCx := rfl
@[simp] theorem State.updPort_bnd (k : Nat) (f : Port → Port) : (s.updPort k f).bnd = s.bnd := rfl
@[simp] theorem State.updPort_free (k : Nat) (f : Port → Port) : (s.updPort k f).free = s.free := rfl

/-! ### log -/

@[simp] theorem State.log_cores (r : SmcRec) : (s.log r).cores = s.cores := rfl
@[simp] theorem State.log_segs (r : SmcRec) : (s.log r).segs = s.segs := rfl
@[simp] theorem State.log_clusters (r : SmcRec) : (s.log r).clusters = s.clusters := rfl
@[simp] theorem State.log_dies (r : SmcRec) : (s.log r).dies = s.dies := rfl
@[simp] theorem State.log_parts (r : SmcRec) : (s.log r).parts = s.parts := rfl
@[simp] theorem State.log_pkg (r : SmcRec) : (s.log r).pkg = s.pkg := rfl
@[simp] theorem State.log_hbm (r : SmcRec) : (s.log r).hbm = s.hbm := rfl
@[simp] theorem State.log_hbmPoison (r : SmcRec) : (s.log r).hbmPoison = s.hbmPoison := rfl
@[simp] theorem State.log_llc (r : SmcRec) : (s.log r).llc = s.llc := rfl
@[simp] theorem State.log_xlc (r : SmcRec) : (s.log r).xlc = s.xlc := rfl
@[simp] theorem State.log_owner (r : SmcRec) : (s.log r).owner = s.owner := rfl
@[simp] theorem State.log_arenas (r : SmcRec) : (s.log r).arenas = s.arenas := rfl
@[simp] theorem State.log_pmts (r : SmcRec) : (s.log r).pmts = s.pmts := rfl
@[simp] theorem State.log_merges (r : SmcRec) : (s.log r).merges = s.merges := rfl
@[simp] theorem State.log_appends (r : SmcRec) : (s.log r).appends = s.appends := rfl
@[simp] theorem State.log_fetches (r : SmcRec) : (s.log r).fetches = s.fetches := rfl
@[simp] theorem State.log_ckpts (r : SmcRec) : (s.log r).ckpts = s.ckpts := rfl
@[simp] theorem State.log_kernels (r : SmcRec) : (s.log r).kernels = s.kernels := rfl
@[simp] theorem State.log_routers (r : SmcRec) : (s.log r).routers = s.routers := rfl
@[simp] theorem State.log_ports (r : SmcRec) : (s.log r).ports = s.ports := rfl
@[simp] theorem State.log_circuits (r : SmcRec) : (s.log r).circuits = s.circuits := rfl
@[simp] theorem State.log_failedPorts (r : SmcRec) : (s.log r).failedPorts = s.failedPorts := rfl
@[simp] theorem State.log_outPorts (r : SmcRec) : (s.log r).outPorts = s.outPorts := rfl
@[simp] theorem State.log_inPorts (r : SmcRec) : (s.log r).inPorts = s.inPorts := rfl
@[simp] theorem State.log_ethSeq (r : SmcRec) : (s.log r).ethSeq = s.ethSeq := rfl
@[simp] theorem State.log_filters (r : SmcRec) : (s.log r).filters = s.filters := rfl
@[simp] theorem State.log_atc (r : SmcRec) : (s.log r).atc = s.atc := rfl
@[simp] theorem State.log_wire (r : SmcRec) : (s.log r).wire = s.wire := rfl
@[simp] theorem State.log_outst (r : SmcRec) : (s.log r).outst = s.outst := rfl
@[simp] theorem State.log_reqs (r : SmcRec) : (s.log r).reqs = s.reqs := rfl
@[simp] theorem State.log_seqs (r : SmcRec) : (s.log r).seqs = s.seqs := rfl
@[simp] theorem State.log_crcWait (r : SmcRec) : (s.log r).crcWait = s.crcWait := rfl
@[simp] theorem State.log_nextTag (r : SmcRec) : (s.log r).nextTag = s.nextTag := rfl
@[simp] theorem State.log_nextId (r : SmcRec) : (s.log r).nextId = s.nextId := rfl
@[simp] theorem State.log_out (r : SmcRec) : (s.log r).out = s.out := rfl
@[simp] theorem State.log_inbox (r : SmcRec) : (s.log r).inbox = s.inbox := rfl
@[simp] theorem State.log_hostq (r : SmcRec) : (s.log r).hostq = s.hostq := rfl
@[simp] theorem State.log_cur (r : SmcRec) : (s.log r).cur = s.cur := rfl
@[simp] theorem State.log_curCx (r : SmcRec) : (s.log r).curCx = s.curCx := rfl
@[simp] theorem State.log_bnd (r : SmcRec) : (s.log r).bnd = s.bnd := rfl
@[simp] theorem State.log_free (r : SmcRec) : (s.log r).free = s.free := rfl

/-! ### tell -/

@[simp] theorem State.tell_cores (o : Out) : (s.tell o).cores = s.cores := rfl
@[simp] theorem State.tell_segs (o : Out) : (s.tell o).segs = s.segs := rfl
@[simp] theorem State.tell_clusters (o : Out) : (s.tell o).clusters = s.clusters := rfl
@[simp] theorem State.tell_dies (o : Out) : (s.tell o).dies = s.dies := rfl
@[simp] theorem State.tell_parts (o : Out) : (s.tell o).parts = s.parts := rfl
@[simp] theorem State.tell_pkg (o : Out) : (s.tell o).pkg = s.pkg := rfl
@[simp] theorem State.tell_hbm (o : Out) : (s.tell o).hbm = s.hbm := rfl
@[simp] theorem State.tell_hbmPoison (o : Out) : (s.tell o).hbmPoison = s.hbmPoison := rfl
@[simp] theorem State.tell_llc (o : Out) : (s.tell o).llc = s.llc := rfl
@[simp] theorem State.tell_xlc (o : Out) : (s.tell o).xlc = s.xlc := rfl
@[simp] theorem State.tell_owner (o : Out) : (s.tell o).owner = s.owner := rfl
@[simp] theorem State.tell_arenas (o : Out) : (s.tell o).arenas = s.arenas := rfl
@[simp] theorem State.tell_pmts (o : Out) : (s.tell o).pmts = s.pmts := rfl
@[simp] theorem State.tell_merges (o : Out) : (s.tell o).merges = s.merges := rfl
@[simp] theorem State.tell_appends (o : Out) : (s.tell o).appends = s.appends := rfl
@[simp] theorem State.tell_fetches (o : Out) : (s.tell o).fetches = s.fetches := rfl
@[simp] theorem State.tell_ckpts (o : Out) : (s.tell o).ckpts = s.ckpts := rfl
@[simp] theorem State.tell_kernels (o : Out) : (s.tell o).kernels = s.kernels := rfl
@[simp] theorem State.tell_routers (o : Out) : (s.tell o).routers = s.routers := rfl
@[simp] theorem State.tell_ports (o : Out) : (s.tell o).ports = s.ports := rfl
@[simp] theorem State.tell_circuits (o : Out) : (s.tell o).circuits = s.circuits := rfl
@[simp] theorem State.tell_failedPorts (o : Out) : (s.tell o).failedPorts = s.failedPorts := rfl
@[simp] theorem State.tell_outPorts (o : Out) : (s.tell o).outPorts = s.outPorts := rfl
@[simp] theorem State.tell_inPorts (o : Out) : (s.tell o).inPorts = s.inPorts := rfl
@[simp] theorem State.tell_ethSeq (o : Out) : (s.tell o).ethSeq = s.ethSeq := rfl
@[simp] theorem State.tell_filters (o : Out) : (s.tell o).filters = s.filters := rfl
@[simp] theorem State.tell_atc (o : Out) : (s.tell o).atc = s.atc := rfl
@[simp] theorem State.tell_wire (o : Out) : (s.tell o).wire = s.wire := rfl
@[simp] theorem State.tell_outst (o : Out) : (s.tell o).outst = s.outst := rfl
@[simp] theorem State.tell_reqs (o : Out) : (s.tell o).reqs = s.reqs := rfl
@[simp] theorem State.tell_seqs (o : Out) : (s.tell o).seqs = s.seqs := rfl
@[simp] theorem State.tell_crcWait (o : Out) : (s.tell o).crcWait = s.crcWait := rfl
@[simp] theorem State.tell_nextTag (o : Out) : (s.tell o).nextTag = s.nextTag := rfl
@[simp] theorem State.tell_nextId (o : Out) : (s.tell o).nextId = s.nextId := rfl
@[simp] theorem State.tell_smcLog (o : Out) : (s.tell o).smcLog = s.smcLog := rfl
@[simp] theorem State.tell_inbox (o : Out) : (s.tell o).inbox = s.inbox := rfl
@[simp] theorem State.tell_hostq (o : Out) : (s.tell o).hostq = s.hostq := rfl
@[simp] theorem State.tell_cur (o : Out) : (s.tell o).cur = s.cur := rfl
@[simp] theorem State.tell_curCx (o : Out) : (s.tell o).curCx = s.curCx := rfl
@[simp] theorem State.tell_bnd (o : Out) : (s.tell o).bnd = s.bnd := rfl
@[simp] theorem State.tell_free (o : Out) : (s.tell o).free = s.free := rfl

/-! ### addReq -/

@[simp] theorem State.addReq_cores (r : Req) : (s.addReq r).cores = s.cores := rfl
@[simp] theorem State.addReq_segs (r : Req) : (s.addReq r).segs = s.segs := rfl
@[simp] theorem State.addReq_clusters (r : Req) : (s.addReq r).clusters = s.clusters := rfl
@[simp] theorem State.addReq_dies (r : Req) : (s.addReq r).dies = s.dies := rfl
@[simp] theorem State.addReq_parts (r : Req) : (s.addReq r).parts = s.parts := rfl
@[simp] theorem State.addReq_pkg (r : Req) : (s.addReq r).pkg = s.pkg := rfl
@[simp] theorem State.addReq_hbm (r : Req) : (s.addReq r).hbm = s.hbm := rfl
@[simp] theorem State.addReq_hbmPoison (r : Req) : (s.addReq r).hbmPoison = s.hbmPoison := rfl
@[simp] theorem State.addReq_llc (r : Req) : (s.addReq r).llc = s.llc := rfl
@[simp] theorem State.addReq_xlc (r : Req) : (s.addReq r).xlc = s.xlc := rfl
@[simp] theorem State.addReq_owner (r : Req) : (s.addReq r).owner = s.owner := rfl
@[simp] theorem State.addReq_arenas (r : Req) : (s.addReq r).arenas = s.arenas := rfl
@[simp] theorem State.addReq_pmts (r : Req) : (s.addReq r).pmts = s.pmts := rfl
@[simp] theorem State.addReq_merges (r : Req) : (s.addReq r).merges = s.merges := rfl
@[simp] theorem State.addReq_appends (r : Req) : (s.addReq r).appends = s.appends := rfl
@[simp] theorem State.addReq_fetches (r : Req) : (s.addReq r).fetches = s.fetches := rfl
@[simp] theorem State.addReq_ckpts (r : Req) : (s.addReq r).ckpts = s.ckpts := rfl
@[simp] theorem State.addReq_kernels (r : Req) : (s.addReq r).kernels = s.kernels := rfl
@[simp] theorem State.addReq_routers (r : Req) : (s.addReq r).routers = s.routers := rfl
@[simp] theorem State.addReq_ports (r : Req) : (s.addReq r).ports = s.ports := rfl
@[simp] theorem State.addReq_circuits (r : Req) : (s.addReq r).circuits = s.circuits := rfl
@[simp] theorem State.addReq_failedPorts (r : Req) : (s.addReq r).failedPorts = s.failedPorts := rfl
@[simp] theorem State.addReq_outPorts (r : Req) : (s.addReq r).outPorts = s.outPorts := rfl
@[simp] theorem State.addReq_inPorts (r : Req) : (s.addReq r).inPorts = s.inPorts := rfl
@[simp] theorem State.addReq_ethSeq (r : Req) : (s.addReq r).ethSeq = s.ethSeq := rfl
@[simp] theorem State.addReq_filters (r : Req) : (s.addReq r).filters = s.filters := rfl
@[simp] theorem State.addReq_atc (r : Req) : (s.addReq r).atc = s.atc := rfl
@[simp] theorem State.addReq_wire (r : Req) : (s.addReq r).wire = s.wire := rfl
@[simp] theorem State.addReq_outst (r : Req) : (s.addReq r).outst = s.outst := rfl
@[simp] theorem State.addReq_seqs (r : Req) : (s.addReq r).seqs = s.seqs := rfl
@[simp] theorem State.addReq_crcWait (r : Req) : (s.addReq r).crcWait = s.crcWait := rfl
@[simp] theorem State.addReq_nextTag (r : Req) : (s.addReq r).nextTag = s.nextTag := rfl
@[simp] theorem State.addReq_nextId (r : Req) : (s.addReq r).nextId = s.nextId := rfl
@[simp] theorem State.addReq_smcLog (r : Req) : (s.addReq r).smcLog = s.smcLog := rfl
@[simp] theorem State.addReq_out (r : Req) : (s.addReq r).out = s.out := rfl
@[simp] theorem State.addReq_inbox (r : Req) : (s.addReq r).inbox = s.inbox := rfl
@[simp] theorem State.addReq_hostq (r : Req) : (s.addReq r).hostq = s.hostq := rfl
@[simp] theorem State.addReq_cur (r : Req) : (s.addReq r).cur = s.cur := rfl
@[simp] theorem State.addReq_curCx (r : Req) : (s.addReq r).curCx = s.curCx := rfl
@[simp] theorem State.addReq_bnd (r : Req) : (s.addReq r).bnd = s.bnd := rfl
@[simp] theorem State.addReq_free (r : Req) : (s.addReq r).free = s.free := rfl

/-! ### transfer -/

@[simp] theorem State.transfer_cores (pc upc : Nat) : (s.transfer pc upc).cores = s.cores := rfl
@[simp] theorem State.transfer_segs (pc upc : Nat) : (s.transfer pc upc).segs = s.segs := rfl
@[simp] theorem State.transfer_clusters (pc upc : Nat) : (s.transfer pc upc).clusters = s.clusters := rfl
@[simp] theorem State.transfer_dies (pc upc : Nat) : (s.transfer pc upc).dies = s.dies := rfl
@[simp] theorem State.transfer_parts (pc upc : Nat) : (s.transfer pc upc).parts = s.parts := rfl
@[simp] theorem State.transfer_pkg (pc upc : Nat) : (s.transfer pc upc).pkg = s.pkg := rfl
@[simp] theorem State.transfer_hbm (pc upc : Nat) : (s.transfer pc upc).hbm = s.hbm := rfl
@[simp] theorem State.transfer_hbmPoison (pc upc : Nat) : (s.transfer pc upc).hbmPoison = s.hbmPoison := rfl
@[simp] theorem State.transfer_llc (pc upc : Nat) : (s.transfer pc upc).llc = s.llc := rfl
@[simp] theorem State.transfer_xlc (pc upc : Nat) : (s.transfer pc upc).xlc = s.xlc := rfl
@[simp] theorem State.transfer_owner (pc upc : Nat) : (s.transfer pc upc).owner = s.owner := rfl
@[simp] theorem State.transfer_arenas (pc upc : Nat) : (s.transfer pc upc).arenas = s.arenas := rfl
@[simp] theorem State.transfer_pmts (pc upc : Nat) : (s.transfer pc upc).pmts = s.pmts := rfl
@[simp] theorem State.transfer_merges (pc upc : Nat) : (s.transfer pc upc).merges = s.merges := rfl
@[simp] theorem State.transfer_appends (pc upc : Nat) : (s.transfer pc upc).appends = s.appends := rfl
@[simp] theorem State.transfer_fetches (pc upc : Nat) : (s.transfer pc upc).fetches = s.fetches := rfl
@[simp] theorem State.transfer_ckpts (pc upc : Nat) : (s.transfer pc upc).ckpts = s.ckpts := rfl
@[simp] theorem State.transfer_kernels (pc upc : Nat) : (s.transfer pc upc).kernels = s.kernels := rfl
@[simp] theorem State.transfer_routers (pc upc : Nat) : (s.transfer pc upc).routers = s.routers := rfl
@[simp] theorem State.transfer_ports (pc upc : Nat) : (s.transfer pc upc).ports = s.ports := rfl
@[simp] theorem State.transfer_circuits (pc upc : Nat) : (s.transfer pc upc).circuits = s.circuits := rfl
@[simp] theorem State.transfer_failedPorts (pc upc : Nat) : (s.transfer pc upc).failedPorts = s.failedPorts := rfl
@[simp] theorem State.transfer_outPorts (pc upc : Nat) : (s.transfer pc upc).outPorts = s.outPorts := rfl
@[simp] theorem State.transfer_inPorts (pc upc : Nat) : (s.transfer pc upc).inPorts = s.inPorts := rfl
@[simp] theorem State.transfer_ethSeq (pc upc : Nat) : (s.transfer pc upc).ethSeq = s.ethSeq := rfl
@[simp] theorem State.transfer_filters (pc upc : Nat) : (s.transfer pc upc).filters = s.filters := rfl
@[simp] theorem State.transfer_atc (pc upc : Nat) : (s.transfer pc upc).atc = s.atc := rfl
@[simp] theorem State.transfer_wire (pc upc : Nat) : (s.transfer pc upc).wire = s.wire := rfl
@[simp] theorem State.transfer_outst (pc upc : Nat) : (s.transfer pc upc).outst = s.outst := rfl
@[simp] theorem State.transfer_reqs (pc upc : Nat) : (s.transfer pc upc).reqs = s.reqs := rfl
@[simp] theorem State.transfer_seqs (pc upc : Nat) : (s.transfer pc upc).seqs = s.seqs := rfl
@[simp] theorem State.transfer_crcWait (pc upc : Nat) : (s.transfer pc upc).crcWait = s.crcWait := rfl
@[simp] theorem State.transfer_nextTag (pc upc : Nat) : (s.transfer pc upc).nextTag = s.nextTag := rfl
@[simp] theorem State.transfer_nextId (pc upc : Nat) : (s.transfer pc upc).nextId = s.nextId := rfl
@[simp] theorem State.transfer_smcLog (pc upc : Nat) : (s.transfer pc upc).smcLog = s.smcLog := rfl
@[simp] theorem State.transfer_out (pc upc : Nat) : (s.transfer pc upc).out = s.out := rfl
@[simp] theorem State.transfer_inbox (pc upc : Nat) : (s.transfer pc upc).inbox = s.inbox := rfl
@[simp] theorem State.transfer_hostq (pc upc : Nat) : (s.transfer pc upc).hostq = s.hostq := rfl
@[simp] theorem State.transfer_cur (pc upc : Nat) : (s.transfer pc upc).cur = s.cur := rfl
@[simp] theorem State.transfer_curCx (pc upc : Nat) : (s.transfer pc upc).curCx = s.curCx := rfl
@[simp] theorem State.transfer_free (pc upc : Nat) : (s.transfer pc upc).free = s.free := rfl

/-! ### pushFlight -/

@[simp] theorem State.pushFlight_segs (k i : Nat) (f : Flight) : (s.pushFlight k i f).segs = s.segs := rfl
@[simp] theorem State.pushFlight_clusters (k i : Nat) (f : Flight) : (s.pushFlight k i f).clusters = s.clusters := rfl
@[simp] theorem State.pushFlight_dies (k i : Nat) (f : Flight) : (s.pushFlight k i f).dies = s.dies := rfl
@[simp] theorem State.pushFlight_parts (k i : Nat) (f : Flight) : (s.pushFlight k i f).parts = s.parts := rfl
@[simp] theorem State.pushFlight_pkg (k i : Nat) (f : Flight) : (s.pushFlight k i f).pkg = s.pkg := rfl
@[simp] theorem State.pushFlight_hbm (k i : Nat) (f : Flight) : (s.pushFlight k i f).hbm = s.hbm := rfl
@[simp] theorem State.pushFlight_hbmPoison (k i : Nat) (f : Flight) : (s.pushFlight k i f).hbmPoison = s.hbmPoison := rfl
@[simp] theorem State.pushFlight_llc (k i : Nat) (f : Flight) : (s.pushFlight k i f).llc = s.llc := rfl
@[simp] theorem State.pushFlight_xlc (k i : Nat) (f : Flight) : (s.pushFlight k i f).xlc = s.xlc := rfl
@[simp] theorem State.pushFlight_owner (k i : Nat) (f : Flight) : (s.pushFlight k i f).owner = s.owner := rfl
@[simp] theorem State.pushFlight_arenas (k i : Nat) (f : Flight) : (s.pushFlight k i f).arenas = s.arenas := rfl
@[simp] theorem State.pushFlight_pmts (k i : Nat) (f : Flight) : (s.pushFlight k i f).pmts = s.pmts := rfl
@[simp] theorem State.pushFlight_merges (k i : Nat) (f : Flight) : (s.pushFlight k i f).merges = s.merges := rfl
@[simp] theorem State.pushFlight_appends (k i : Nat) (f : Flight) : (s.pushFlight k i f).appends = s.appends := rfl
@[simp] theorem State.pushFlight_fetches (k i : Nat) (f : Flight) : (s.pushFlight k i f).fetches = s.fetches := rfl
@[simp] theorem State.pushFlight_ckpts (k i : Nat) (f : Flight) : (s.pushFlight k i f).ckpts = s.ckpts := rfl
@[simp] theorem State.pushFlight_kernels (k i : Nat) (f : Flight) : (s.pushFlight k i f).kernels = s.kernels := rfl
@[simp] theorem State.pushFlight_routers (k i : Nat) (f : Flight) : (s.pushFlight k i f).routers = s.routers := rfl
@[simp] theorem State.pushFlight_ports (k i : Nat) (f : Flight) : (s.pushFlight k i f).ports = s.ports := rfl
@[simp] theorem State.pushFlight_circuits (k i : Nat) (f : Flight) : (s.pushFlight k i f).circuits = s.circuits := rfl
@[simp] theorem State.pushFlight_failedPorts (k i : Nat) (f : Flight) : (s.pushFlight k i f).failedPorts = s.failedPorts := rfl
@[simp] theorem State.pushFlight_outPorts (k i : Nat) (f : Flight) : (s.pushFlight k i f).outPorts = s.outPorts := rfl
@[simp] theorem State.pushFlight_inPorts (k i : Nat) (f : Flight) : (s.pushFlight k i f).inPorts = s.inPorts := rfl
@[simp] theorem State.pushFlight_ethSeq (k i : Nat) (f : Flight) : (s.pushFlight k i f).ethSeq = s.ethSeq := rfl
@[simp] theorem State.pushFlight_filters (k i : Nat) (f : Flight) : (s.pushFlight k i f).filters = s.filters := rfl
@[simp] theorem State.pushFlight_atc (k i : Nat) (f : Flight) : (s.pushFlight k i f).atc = s.atc := rfl
@[simp] theorem State.pushFlight_wire (k i : Nat) (f : Flight) : (s.pushFlight k i f).wire = s.wire := rfl
@[simp] theorem State.pushFlight_outst (k i : Nat) (f : Flight) : (s.pushFlight k i f).outst = s.outst := rfl
@[simp] theorem State.pushFlight_reqs (k i : Nat) (f : Flight) : (s.pushFlight k i f).reqs = s.reqs := rfl
@[simp] theorem State.pushFlight_seqs (k i : Nat) (f : Flight) : (s.pushFlight k i f).seqs = s.seqs := rfl
@[simp] theorem State.pushFlight_crcWait (k i : Nat) (f : Flight) : (s.pushFlight k i f).crcWait = s.crcWait := rfl
@[simp] theorem State.pushFlight_nextTag (k i : Nat) (f : Flight) : (s.pushFlight k i f).nextTag = s.nextTag := rfl
@[simp] theorem State.pushFlight_nextId (k i : Nat) (f : Flight) : (s.pushFlight k i f).nextId = s.nextId := rfl
@[simp] theorem State.pushFlight_smcLog (k i : Nat) (f : Flight) : (s.pushFlight k i f).smcLog = s.smcLog := rfl
@[simp] theorem State.pushFlight_out (k i : Nat) (f : Flight) : (s.pushFlight k i f).out = s.out := rfl
@[simp] theorem State.pushFlight_inbox (k i : Nat) (f : Flight) : (s.pushFlight k i f).inbox = s.inbox := rfl
@[simp] theorem State.pushFlight_hostq (k i : Nat) (f : Flight) : (s.pushFlight k i f).hostq = s.hostq := rfl
@[simp] theorem State.pushFlight_cur (k i : Nat) (f : Flight) : (s.pushFlight k i f).cur = s.cur := rfl
@[simp] theorem State.pushFlight_curCx (k i : Nat) (f : Flight) : (s.pushFlight k i f).curCx = s.curCx := rfl
@[simp] theorem State.pushFlight_bnd (k i : Nat) (f : Flight) : (s.pushFlight k i f).bnd = s.bnd := rfl
@[simp] theorem State.pushFlight_free (k i : Nat) (f : Flight) : (s.pushFlight k i f).free = s.free := rfl

/-! ### result -/

@[simp] theorem State.result_segs (u : FUnit) (b lat : Nat) (v : Val) : (s.result u b lat v).segs = s.segs := rfl
@[simp] theorem State.result_clusters (u : FUnit) (b lat : Nat) (v : Val) : (s.result u b lat v).clusters = s.clusters := rfl
@[simp] theorem State.result_dies (u : FUnit) (b lat : Nat) (v : Val) : (s.result u b lat v).dies = s.dies := rfl
@[simp] theorem State.result_parts (u : FUnit) (b lat : Nat) (v : Val) : (s.result u b lat v).parts = s.parts := rfl
@[simp] theorem State.result_pkg (u : FUnit) (b lat : Nat) (v : Val) : (s.result u b lat v).pkg = s.pkg := rfl
@[simp] theorem State.result_hbm (u : FUnit) (b lat : Nat) (v : Val) : (s.result u b lat v).hbm = s.hbm := rfl
@[simp] theorem State.result_hbmPoison (u : FUnit) (b lat : Nat) (v : Val) : (s.result u b lat v).hbmPoison = s.hbmPoison := rfl
@[simp] theorem State.result_llc (u : FUnit) (b lat : Nat) (v : Val) : (s.result u b lat v).llc = s.llc := rfl
@[simp] theorem State.result_xlc (u : FUnit) (b lat : Nat) (v : Val) : (s.result u b lat v).xlc = s.xlc := rfl
@[simp] theorem State.result_owner (u : FUnit) (b lat : Nat) (v : Val) : (s.result u b lat v).owner = s.owner := rfl
@[simp] theorem State.result_arenas (u : FUnit) (b lat : Nat) (v : Val) : (s.result u b lat v).arenas = s.arenas := rfl
@[simp] theorem State.result_pmts (u : FUnit) (b lat : Nat) (v : Val) : (s.result u b lat v).pmts = s.pmts := rfl
@[simp] theorem State.result_merges (u : FUnit) (b lat : Nat) (v : Val) : (s.result u b lat v).merges = s.merges := rfl
@[simp] theorem State.result_appends (u : FUnit) (b lat : Nat) (v : Val) : (s.result u b lat v).appends = s.appends := rfl
@[simp] theorem State.result_fetches (u : FUnit) (b lat : Nat) (v : Val) : (s.result u b lat v).fetches = s.fetches := rfl
@[simp] theorem State.result_ckpts (u : FUnit) (b lat : Nat) (v : Val) : (s.result u b lat v).ckpts = s.ckpts := rfl
@[simp] theorem State.result_kernels (u : FUnit) (b lat : Nat) (v : Val) : (s.result u b lat v).kernels = s.kernels := rfl
@[simp] theorem State.result_routers (u : FUnit) (b lat : Nat) (v : Val) : (s.result u b lat v).routers = s.routers := rfl
@[simp] theorem State.result_ports (u : FUnit) (b lat : Nat) (v : Val) : (s.result u b lat v).ports = s.ports := rfl
@[simp] theorem State.result_circuits (u : FUnit) (b lat : Nat) (v : Val) : (s.result u b lat v).circuits = s.circuits := rfl
@[simp] theorem State.result_failedPorts (u : FUnit) (b lat : Nat) (v : Val) : (s.result u b lat v).failedPorts = s.failedPorts := rfl
@[simp] theorem State.result_outPorts (u : FUnit) (b lat : Nat) (v : Val) : (s.result u b lat v).outPorts = s.outPorts := rfl
@[simp] theorem State.result_inPorts (u : FUnit) (b lat : Nat) (v : Val) : (s.result u b lat v).inPorts = s.inPorts := rfl
@[simp] theorem State.result_ethSeq (u : FUnit) (b lat : Nat) (v : Val) : (s.result u b lat v).ethSeq = s.ethSeq := rfl
@[simp] theorem State.result_filters (u : FUnit) (b lat : Nat) (v : Val) : (s.result u b lat v).filters = s.filters := rfl
@[simp] theorem State.result_atc (u : FUnit) (b lat : Nat) (v : Val) : (s.result u b lat v).atc = s.atc := rfl
@[simp] theorem State.result_wire (u : FUnit) (b lat : Nat) (v : Val) : (s.result u b lat v).wire = s.wire := rfl
@[simp] theorem State.result_outst (u : FUnit) (b lat : Nat) (v : Val) : (s.result u b lat v).outst = s.outst := rfl
@[simp] theorem State.result_reqs (u : FUnit) (b lat : Nat) (v : Val) : (s.result u b lat v).reqs = s.reqs := rfl
@[simp] theorem State.result_seqs (u : FUnit) (b lat : Nat) (v : Val) : (s.result u b lat v).seqs = s.seqs := rfl
@[simp] theorem State.result_crcWait (u : FUnit) (b lat : Nat) (v : Val) : (s.result u b lat v).crcWait = s.crcWait := rfl
@[simp] theorem State.result_nextTag (u : FUnit) (b lat : Nat) (v : Val) : (s.result u b lat v).nextTag = s.nextTag := rfl
@[simp] theorem State.result_nextId (u : FUnit) (b lat : Nat) (v : Val) : (s.result u b lat v).nextId = s.nextId := rfl
@[simp] theorem State.result_smcLog (u : FUnit) (b lat : Nat) (v : Val) : (s.result u b lat v).smcLog = s.smcLog := rfl
@[simp] theorem State.result_out (u : FUnit) (b lat : Nat) (v : Val) : (s.result u b lat v).out = s.out := rfl
@[simp] theorem State.result_inbox (u : FUnit) (b lat : Nat) (v : Val) : (s.result u b lat v).inbox = s.inbox := rfl
@[simp] theorem State.result_hostq (u : FUnit) (b lat : Nat) (v : Val) : (s.result u b lat v).hostq = s.hostq := rfl
@[simp] theorem State.result_cur (u : FUnit) (b lat : Nat) (v : Val) : (s.result u b lat v).cur = s.cur := rfl
@[simp] theorem State.result_curCx (u : FUnit) (b lat : Nat) (v : Val) : (s.result u b lat v).curCx = s.curCx := rfl
@[simp] theorem State.result_bnd (u : FUnit) (b lat : Nat) (v : Val) : (s.result u b lat v).bnd = s.bnd := rfl
@[simp] theorem State.result_free (u : FUnit) (b lat : Nat) (v : Val) : (s.result u b lat v).free = s.free := rfl

/-! ### result1 -/

@[simp] theorem State.result1_segs (u : FUnit) (b lat : Nat) (v : Val) : (s.result1 u b lat v).segs = s.segs := rfl
@[simp] theorem State.result1_clusters (u : FUnit) (b lat : Nat) (v : Val) : (s.result1 u b lat v).clusters = s.clusters := rfl
@[simp] theorem State.result1_dies (u : FUnit) (b lat : Nat) (v : Val) : (s.result1 u b lat v).dies = s.dies := rfl
@[simp] theorem State.result1_parts (u : FUnit) (b lat : Nat) (v : Val) : (s.result1 u b lat v).parts = s.parts := rfl
@[simp] theorem State.result1_pkg (u : FUnit) (b lat : Nat) (v : Val) : (s.result1 u b lat v).pkg = s.pkg := rfl
@[simp] theorem State.result1_hbm (u : FUnit) (b lat : Nat) (v : Val) : (s.result1 u b lat v).hbm = s.hbm := rfl
@[simp] theorem State.result1_hbmPoison (u : FUnit) (b lat : Nat) (v : Val) : (s.result1 u b lat v).hbmPoison = s.hbmPoison := rfl
@[simp] theorem State.result1_llc (u : FUnit) (b lat : Nat) (v : Val) : (s.result1 u b lat v).llc = s.llc := rfl
@[simp] theorem State.result1_xlc (u : FUnit) (b lat : Nat) (v : Val) : (s.result1 u b lat v).xlc = s.xlc := rfl
@[simp] theorem State.result1_owner (u : FUnit) (b lat : Nat) (v : Val) : (s.result1 u b lat v).owner = s.owner := rfl
@[simp] theorem State.result1_arenas (u : FUnit) (b lat : Nat) (v : Val) : (s.result1 u b lat v).arenas = s.arenas := rfl
@[simp] theorem State.result1_pmts (u : FUnit) (b lat : Nat) (v : Val) : (s.result1 u b lat v).pmts = s.pmts := rfl
@[simp] theorem State.result1_merges (u : FUnit) (b lat : Nat) (v : Val) : (s.result1 u b lat v).merges = s.merges := rfl
@[simp] theorem State.result1_appends (u : FUnit) (b lat : Nat) (v : Val) : (s.result1 u b lat v).appends = s.appends := rfl
@[simp] theorem State.result1_fetches (u : FUnit) (b lat : Nat) (v : Val) : (s.result1 u b lat v).fetches = s.fetches := rfl
@[simp] theorem State.result1_ckpts (u : FUnit) (b lat : Nat) (v : Val) : (s.result1 u b lat v).ckpts = s.ckpts := rfl
@[simp] theorem State.result1_kernels (u : FUnit) (b lat : Nat) (v : Val) : (s.result1 u b lat v).kernels = s.kernels := rfl
@[simp] theorem State.result1_routers (u : FUnit) (b lat : Nat) (v : Val) : (s.result1 u b lat v).routers = s.routers := rfl
@[simp] theorem State.result1_ports (u : FUnit) (b lat : Nat) (v : Val) : (s.result1 u b lat v).ports = s.ports := rfl
@[simp] theorem State.result1_circuits (u : FUnit) (b lat : Nat) (v : Val) : (s.result1 u b lat v).circuits = s.circuits := rfl
@[simp] theorem State.result1_failedPorts (u : FUnit) (b lat : Nat) (v : Val) : (s.result1 u b lat v).failedPorts = s.failedPorts := rfl
@[simp] theorem State.result1_outPorts (u : FUnit) (b lat : Nat) (v : Val) : (s.result1 u b lat v).outPorts = s.outPorts := rfl
@[simp] theorem State.result1_inPorts (u : FUnit) (b lat : Nat) (v : Val) : (s.result1 u b lat v).inPorts = s.inPorts := rfl
@[simp] theorem State.result1_ethSeq (u : FUnit) (b lat : Nat) (v : Val) : (s.result1 u b lat v).ethSeq = s.ethSeq := rfl
@[simp] theorem State.result1_filters (u : FUnit) (b lat : Nat) (v : Val) : (s.result1 u b lat v).filters = s.filters := rfl
@[simp] theorem State.result1_atc (u : FUnit) (b lat : Nat) (v : Val) : (s.result1 u b lat v).atc = s.atc := rfl
@[simp] theorem State.result1_wire (u : FUnit) (b lat : Nat) (v : Val) : (s.result1 u b lat v).wire = s.wire := rfl
@[simp] theorem State.result1_outst (u : FUnit) (b lat : Nat) (v : Val) : (s.result1 u b lat v).outst = s.outst := rfl
@[simp] theorem State.result1_reqs (u : FUnit) (b lat : Nat) (v : Val) : (s.result1 u b lat v).reqs = s.reqs := rfl
@[simp] theorem State.result1_seqs (u : FUnit) (b lat : Nat) (v : Val) : (s.result1 u b lat v).seqs = s.seqs := rfl
@[simp] theorem State.result1_crcWait (u : FUnit) (b lat : Nat) (v : Val) : (s.result1 u b lat v).crcWait = s.crcWait := rfl
@[simp] theorem State.result1_nextTag (u : FUnit) (b lat : Nat) (v : Val) : (s.result1 u b lat v).nextTag = s.nextTag := rfl
@[simp] theorem State.result1_nextId (u : FUnit) (b lat : Nat) (v : Val) : (s.result1 u b lat v).nextId = s.nextId := rfl
@[simp] theorem State.result1_smcLog (u : FUnit) (b lat : Nat) (v : Val) : (s.result1 u b lat v).smcLog = s.smcLog := rfl
@[simp] theorem State.result1_out (u : FUnit) (b lat : Nat) (v : Val) : (s.result1 u b lat v).out = s.out := rfl
@[simp] theorem State.result1_inbox (u : FUnit) (b lat : Nat) (v : Val) : (s.result1 u b lat v).inbox = s.inbox := rfl
@[simp] theorem State.result1_hostq (u : FUnit) (b lat : Nat) (v : Val) : (s.result1 u b lat v).hostq = s.hostq := rfl
@[simp] theorem State.result1_cur (u : FUnit) (b lat : Nat) (v : Val) : (s.result1 u b lat v).cur = s.cur := rfl
@[simp] theorem State.result1_curCx (u : FUnit) (b lat : Nat) (v : Val) : (s.result1 u b lat v).curCx = s.curCx := rfl
@[simp] theorem State.result1_bnd (u : FUnit) (b lat : Nat) (v : Val) : (s.result1 u b lat v).bnd = s.bnd := rfl
@[simp] theorem State.result1_free (u : FUnit) (b lat : Nat) (v : Val) : (s.result1 u b lat v).free = s.free := rfl

/-! ### lendWrite -/

@[simp] theorem State.lendWrite_segs (code : Nat) (v : Val) : (s.lendWrite code v).segs = s.segs := rfl
@[simp] theorem State.lendWrite_clusters (code : Nat) (v : Val) : (s.lendWrite code v).clusters = s.clusters := rfl
@[simp] theorem State.lendWrite_dies (code : Nat) (v : Val) : (s.lendWrite code v).dies = s.dies := rfl
@[simp] theorem State.lendWrite_parts (code : Nat) (v : Val) : (s.lendWrite code v).parts = s.parts := rfl
@[simp] theorem State.lendWrite_pkg (code : Nat) (v : Val) : (s.lendWrite code v).pkg = s.pkg := rfl
@[simp] theorem State.lendWrite_hbm (code : Nat) (v : Val) : (s.lendWrite code v).hbm = s.hbm := rfl
@[simp] theorem State.lendWrite_hbmPoison (code : Nat) (v : Val) : (s.lendWrite code v).hbmPoison = s.hbmPoison := rfl
@[simp] theorem State.lendWrite_llc (code : Nat) (v : Val) : (s.lendWrite code v).llc = s.llc := rfl
@[simp] theorem State.lendWrite_xlc (code : Nat) (v : Val) : (s.lendWrite code v).xlc = s.xlc := rfl
@[simp] theorem State.lendWrite_owner (code : Nat) (v : Val) : (s.lendWrite code v).owner = s.owner := rfl
@[simp] theorem State.lendWrite_arenas (code : Nat) (v : Val) : (s.lendWrite code v).arenas = s.arenas := rfl
@[simp] theorem State.lendWrite_pmts (code : Nat) (v : Val) : (s.lendWrite code v).pmts = s.pmts := rfl
@[simp] theorem State.lendWrite_merges (code : Nat) (v : Val) : (s.lendWrite code v).merges = s.merges := rfl
@[simp] theorem State.lendWrite_appends (code : Nat) (v : Val) : (s.lendWrite code v).appends = s.appends := rfl
@[simp] theorem State.lendWrite_fetches (code : Nat) (v : Val) : (s.lendWrite code v).fetches = s.fetches := rfl
@[simp] theorem State.lendWrite_ckpts (code : Nat) (v : Val) : (s.lendWrite code v).ckpts = s.ckpts := rfl
@[simp] theorem State.lendWrite_kernels (code : Nat) (v : Val) : (s.lendWrite code v).kernels = s.kernels := rfl
@[simp] theorem State.lendWrite_routers (code : Nat) (v : Val) : (s.lendWrite code v).routers = s.routers := rfl
@[simp] theorem State.lendWrite_ports (code : Nat) (v : Val) : (s.lendWrite code v).ports = s.ports := rfl
@[simp] theorem State.lendWrite_circuits (code : Nat) (v : Val) : (s.lendWrite code v).circuits = s.circuits := rfl
@[simp] theorem State.lendWrite_failedPorts (code : Nat) (v : Val) : (s.lendWrite code v).failedPorts = s.failedPorts := rfl
@[simp] theorem State.lendWrite_outPorts (code : Nat) (v : Val) : (s.lendWrite code v).outPorts = s.outPorts := rfl
@[simp] theorem State.lendWrite_inPorts (code : Nat) (v : Val) : (s.lendWrite code v).inPorts = s.inPorts := rfl
@[simp] theorem State.lendWrite_ethSeq (code : Nat) (v : Val) : (s.lendWrite code v).ethSeq = s.ethSeq := rfl
@[simp] theorem State.lendWrite_filters (code : Nat) (v : Val) : (s.lendWrite code v).filters = s.filters := rfl
@[simp] theorem State.lendWrite_atc (code : Nat) (v : Val) : (s.lendWrite code v).atc = s.atc := rfl
@[simp] theorem State.lendWrite_wire (code : Nat) (v : Val) : (s.lendWrite code v).wire = s.wire := rfl
@[simp] theorem State.lendWrite_outst (code : Nat) (v : Val) : (s.lendWrite code v).outst = s.outst := rfl
@[simp] theorem State.lendWrite_reqs (code : Nat) (v : Val) : (s.lendWrite code v).reqs = s.reqs := rfl
@[simp] theorem State.lendWrite_seqs (code : Nat) (v : Val) : (s.lendWrite code v).seqs = s.seqs := rfl
@[simp] theorem State.lendWrite_crcWait (code : Nat) (v : Val) : (s.lendWrite code v).crcWait = s.crcWait := rfl
@[simp] theorem State.lendWrite_nextTag (code : Nat) (v : Val) : (s.lendWrite code v).nextTag = s.nextTag := rfl
@[simp] theorem State.lendWrite_nextId (code : Nat) (v : Val) : (s.lendWrite code v).nextId = s.nextId := rfl
@[simp] theorem State.lendWrite_smcLog (code : Nat) (v : Val) : (s.lendWrite code v).smcLog = s.smcLog := rfl
@[simp] theorem State.lendWrite_out (code : Nat) (v : Val) : (s.lendWrite code v).out = s.out := rfl
@[simp] theorem State.lendWrite_inbox (code : Nat) (v : Val) : (s.lendWrite code v).inbox = s.inbox := rfl
@[simp] theorem State.lendWrite_hostq (code : Nat) (v : Val) : (s.lendWrite code v).hostq = s.hostq := rfl
@[simp] theorem State.lendWrite_cur (code : Nat) (v : Val) : (s.lendWrite code v).cur = s.cur := rfl
@[simp] theorem State.lendWrite_curCx (code : Nat) (v : Val) : (s.lendWrite code v).curCx = s.curCx := rfl
@[simp] theorem State.lendWrite_bnd (code : Nat) (v : Val) : (s.lendWrite code v).bnd = s.bnd := rfl
@[simp] theorem State.lendWrite_free (code : Nat) (v : Val) : (s.lendWrite code v).free = s.free := rfl

/-! ### wait -/

@[simp] theorem State.wait_cores (p : Pause) : (s.wait p).cores = s.cores := rfl
@[simp] theorem State.wait_segs (p : Pause) : (s.wait p).segs = s.segs := rfl
@[simp] theorem State.wait_clusters (p : Pause) : (s.wait p).clusters = s.clusters := rfl
@[simp] theorem State.wait_dies (p : Pause) : (s.wait p).dies = s.dies := rfl
@[simp] theorem State.wait_parts (p : Pause) : (s.wait p).parts = s.parts := rfl
@[simp] theorem State.wait_pkg (p : Pause) : (s.wait p).pkg = s.pkg := rfl
@[simp] theorem State.wait_hbm (p : Pause) : (s.wait p).hbm = s.hbm := rfl
@[simp] theorem State.wait_hbmPoison (p : Pause) : (s.wait p).hbmPoison = s.hbmPoison := rfl
@[simp] theorem State.wait_llc (p : Pause) : (s.wait p).llc = s.llc := rfl
@[simp] theorem State.wait_xlc (p : Pause) : (s.wait p).xlc = s.xlc := rfl
@[simp] theorem State.wait_owner (p : Pause) : (s.wait p).owner = s.owner := rfl
@[simp] theorem State.wait_arenas (p : Pause) : (s.wait p).arenas = s.arenas := rfl
@[simp] theorem State.wait_pmts (p : Pause) : (s.wait p).pmts = s.pmts := rfl
@[simp] theorem State.wait_merges (p : Pause) : (s.wait p).merges = s.merges := rfl
@[simp] theorem State.wait_appends (p : Pause) : (s.wait p).appends = s.appends := rfl
@[simp] theorem State.wait_fetches (p : Pause) : (s.wait p).fetches = s.fetches := rfl
@[simp] theorem State.wait_ckpts (p : Pause) : (s.wait p).ckpts = s.ckpts := rfl
@[simp] theorem State.wait_kernels (p : Pause) : (s.wait p).kernels = s.kernels := rfl
@[simp] theorem State.wait_routers (p : Pause) : (s.wait p).routers = s.routers := rfl
@[simp] theorem State.wait_ports (p : Pause) : (s.wait p).ports = s.ports := rfl
@[simp] theorem State.wait_circuits (p : Pause) : (s.wait p).circuits = s.circuits := rfl
@[simp] theorem State.wait_failedPorts (p : Pause) : (s.wait p).failedPorts = s.failedPorts := rfl
@[simp] theorem State.wait_outPorts (p : Pause) : (s.wait p).outPorts = s.outPorts := rfl
@[simp] theorem State.wait_inPorts (p : Pause) : (s.wait p).inPorts = s.inPorts := rfl
@[simp] theorem State.wait_ethSeq (p : Pause) : (s.wait p).ethSeq = s.ethSeq := rfl
@[simp] theorem State.wait_filters (p : Pause) : (s.wait p).filters = s.filters := rfl
@[simp] theorem State.wait_atc (p : Pause) : (s.wait p).atc = s.atc := rfl
@[simp] theorem State.wait_wire (p : Pause) : (s.wait p).wire = s.wire := rfl
@[simp] theorem State.wait_outst (p : Pause) : (s.wait p).outst = s.outst := rfl
@[simp] theorem State.wait_reqs (p : Pause) : (s.wait p).reqs = s.reqs := rfl
@[simp] theorem State.wait_seqs (p : Pause) : (s.wait p).seqs = s.seqs := rfl
@[simp] theorem State.wait_crcWait (p : Pause) : (s.wait p).crcWait = s.crcWait := rfl
@[simp] theorem State.wait_nextTag (p : Pause) : (s.wait p).nextTag = s.nextTag := rfl
@[simp] theorem State.wait_nextId (p : Pause) : (s.wait p).nextId = s.nextId := rfl
@[simp] theorem State.wait_smcLog (p : Pause) : (s.wait p).smcLog = s.smcLog := rfl
@[simp] theorem State.wait_out (p : Pause) : (s.wait p).out = s.out := rfl
@[simp] theorem State.wait_inbox (p : Pause) : (s.wait p).inbox = s.inbox := rfl
@[simp] theorem State.wait_hostq (p : Pause) : (s.wait p).hostq = s.hostq := rfl
@[simp] theorem State.wait_cur (p : Pause) : (s.wait p).cur = s.cur := rfl
@[simp] theorem State.wait_curCx (p : Pause) : (s.wait p).curCx = s.curCx := rfl
@[simp] theorem State.wait_free (p : Pause) : (s.wait p).free = s.free := rfl

/-! ### Writes that choose between the context and the core -/

/-- What `setOpPort` leaves alone: everything but the cores. -/
@[simp] theorem State.setOpPort_segs (u : FUnit) (p : Nat) (v : Val) : (s.setOpPort u p v).segs = s.segs := by unfold State.setOpPort; split <;> rfl
@[simp] theorem State.setOpPort_clusters (u : FUnit) (p : Nat) (v : Val) : (s.setOpPort u p v).clusters = s.clusters := by unfold State.setOpPort; split <;> rfl
@[simp] theorem State.setOpPort_dies (u : FUnit) (p : Nat) (v : Val) : (s.setOpPort u p v).dies = s.dies := by unfold State.setOpPort; split <;> rfl
@[simp] theorem State.setOpPort_parts (u : FUnit) (p : Nat) (v : Val) : (s.setOpPort u p v).parts = s.parts := by unfold State.setOpPort; split <;> rfl
@[simp] theorem State.setOpPort_pkg (u : FUnit) (p : Nat) (v : Val) : (s.setOpPort u p v).pkg = s.pkg := by unfold State.setOpPort; split <;> rfl
@[simp] theorem State.setOpPort_hbm (u : FUnit) (p : Nat) (v : Val) : (s.setOpPort u p v).hbm = s.hbm := by unfold State.setOpPort; split <;> rfl
@[simp] theorem State.setOpPort_hbmPoison (u : FUnit) (p : Nat) (v : Val) : (s.setOpPort u p v).hbmPoison = s.hbmPoison := by unfold State.setOpPort; split <;> rfl
@[simp] theorem State.setOpPort_llc (u : FUnit) (p : Nat) (v : Val) : (s.setOpPort u p v).llc = s.llc := by unfold State.setOpPort; split <;> rfl
@[simp] theorem State.setOpPort_xlc (u : FUnit) (p : Nat) (v : Val) : (s.setOpPort u p v).xlc = s.xlc := by unfold State.setOpPort; split <;> rfl
@[simp] theorem State.setOpPort_owner (u : FUnit) (p : Nat) (v : Val) : (s.setOpPort u p v).owner = s.owner := by unfold State.setOpPort; split <;> rfl
@[simp] theorem State.setOpPort_arenas (u : FUnit) (p : Nat) (v : Val) : (s.setOpPort u p v).arenas = s.arenas := by unfold State.setOpPort; split <;> rfl
@[simp] theorem State.setOpPort_pmts (u : FUnit) (p : Nat) (v : Val) : (s.setOpPort u p v).pmts = s.pmts := by unfold State.setOpPort; split <;> rfl
@[simp] theorem State.setOpPort_merges (u : FUnit) (p : Nat) (v : Val) : (s.setOpPort u p v).merges = s.merges := by unfold State.setOpPort; split <;> rfl
@[simp] theorem State.setOpPort_appends (u : FUnit) (p : Nat) (v : Val) : (s.setOpPort u p v).appends = s.appends := by unfold State.setOpPort; split <;> rfl
@[simp] theorem State.setOpPort_fetches (u : FUnit) (p : Nat) (v : Val) : (s.setOpPort u p v).fetches = s.fetches := by unfold State.setOpPort; split <;> rfl
@[simp] theorem State.setOpPort_ckpts (u : FUnit) (p : Nat) (v : Val) : (s.setOpPort u p v).ckpts = s.ckpts := by unfold State.setOpPort; split <;> rfl
@[simp] theorem State.setOpPort_kernels (u : FUnit) (p : Nat) (v : Val) : (s.setOpPort u p v).kernels = s.kernels := by unfold State.setOpPort; split <;> rfl
@[simp] theorem State.setOpPort_routers (u : FUnit) (p : Nat) (v : Val) : (s.setOpPort u p v).routers = s.routers := by unfold State.setOpPort; split <;> rfl
@[simp] theorem State.setOpPort_ports (u : FUnit) (p : Nat) (v : Val) : (s.setOpPort u p v).ports = s.ports := by unfold State.setOpPort; split <;> rfl
@[simp] theorem State.setOpPort_circuits (u : FUnit) (p : Nat) (v : Val) : (s.setOpPort u p v).circuits = s.circuits := by unfold State.setOpPort; split <;> rfl
@[simp] theorem State.setOpPort_failedPorts (u : FUnit) (p : Nat) (v : Val) : (s.setOpPort u p v).failedPorts = s.failedPorts := by unfold State.setOpPort; split <;> rfl
@[simp] theorem State.setOpPort_outPorts (u : FUnit) (p : Nat) (v : Val) : (s.setOpPort u p v).outPorts = s.outPorts := by unfold State.setOpPort; split <;> rfl
@[simp] theorem State.setOpPort_inPorts (u : FUnit) (p : Nat) (v : Val) : (s.setOpPort u p v).inPorts = s.inPorts := by unfold State.setOpPort; split <;> rfl
@[simp] theorem State.setOpPort_ethSeq (u : FUnit) (p : Nat) (v : Val) : (s.setOpPort u p v).ethSeq = s.ethSeq := by unfold State.setOpPort; split <;> rfl
@[simp] theorem State.setOpPort_filters (u : FUnit) (p : Nat) (v : Val) : (s.setOpPort u p v).filters = s.filters := by unfold State.setOpPort; split <;> rfl
@[simp] theorem State.setOpPort_atc (u : FUnit) (p : Nat) (v : Val) : (s.setOpPort u p v).atc = s.atc := by unfold State.setOpPort; split <;> rfl
@[simp] theorem State.setOpPort_wire (u : FUnit) (p : Nat) (v : Val) : (s.setOpPort u p v).wire = s.wire := by unfold State.setOpPort; split <;> rfl
@[simp] theorem State.setOpPort_outst (u : FUnit) (p : Nat) (v : Val) : (s.setOpPort u p v).outst = s.outst := by unfold State.setOpPort; split <;> rfl
@[simp] theorem State.setOpPort_reqs (u : FUnit) (p : Nat) (v : Val) : (s.setOpPort u p v).reqs = s.reqs := by unfold State.setOpPort; split <;> rfl
@[simp] theorem State.setOpPort_seqs (u : FUnit) (p : Nat) (v : Val) : (s.setOpPort u p v).seqs = s.seqs := by unfold State.setOpPort; split <;> rfl
@[simp] theorem State.setOpPort_crcWait (u : FUnit) (p : Nat) (v : Val) : (s.setOpPort u p v).crcWait = s.crcWait := by unfold State.setOpPort; split <;> rfl
@[simp] theorem State.setOpPort_nextTag (u : FUnit) (p : Nat) (v : Val) : (s.setOpPort u p v).nextTag = s.nextTag := by unfold State.setOpPort; split <;> rfl
@[simp] theorem State.setOpPort_nextId (u : FUnit) (p : Nat) (v : Val) : (s.setOpPort u p v).nextId = s.nextId := by unfold State.setOpPort; split <;> rfl
@[simp] theorem State.setOpPort_smcLog (u : FUnit) (p : Nat) (v : Val) : (s.setOpPort u p v).smcLog = s.smcLog := by unfold State.setOpPort; split <;> rfl
@[simp] theorem State.setOpPort_out (u : FUnit) (p : Nat) (v : Val) : (s.setOpPort u p v).out = s.out := by unfold State.setOpPort; split <;> rfl
@[simp] theorem State.setOpPort_inbox (u : FUnit) (p : Nat) (v : Val) : (s.setOpPort u p v).inbox = s.inbox := by unfold State.setOpPort; split <;> rfl
@[simp] theorem State.setOpPort_hostq (u : FUnit) (p : Nat) (v : Val) : (s.setOpPort u p v).hostq = s.hostq := by unfold State.setOpPort; split <;> rfl
@[simp] theorem State.setOpPort_cur (u : FUnit) (p : Nat) (v : Val) : (s.setOpPort u p v).cur = s.cur := by unfold State.setOpPort; split <;> rfl
@[simp] theorem State.setOpPort_curCx (u : FUnit) (p : Nat) (v : Val) : (s.setOpPort u p v).curCx = s.curCx := by unfold State.setOpPort; split <;> rfl
@[simp] theorem State.setOpPort_bnd (u : FUnit) (p : Nat) (v : Val) : (s.setOpPort u p v).bnd = s.bnd := by unfold State.setOpPort; split <;> rfl
@[simp] theorem State.setOpPort_free (u : FUnit) (p : Nat) (v : Val) : (s.setOpPort u p v).free = s.free := by unfold State.setOpPort; split <;> rfl
@[simp] theorem State.setBypAt_segs (k i u b : Nat) (v : Val) : (s.setBypAt k i u b v).segs = s.segs := by unfold State.setBypAt; split <;> rfl
@[simp] theorem State.setBypAt_clusters (k i u b : Nat) (v : Val) : (s.setBypAt k i u b v).clusters = s.clusters := by unfold State.setBypAt; split <;> rfl
@[simp] theorem State.setBypAt_dies (k i u b : Nat) (v : Val) : (s.setBypAt k i u b v).dies = s.dies := by unfold State.setBypAt; split <;> rfl
@[simp] theorem State.setBypAt_parts (k i u b : Nat) (v : Val) : (s.setBypAt k i u b v).parts = s.parts := by unfold State.setBypAt; split <;> rfl
@[simp] theorem State.setBypAt_pkg (k i u b : Nat) (v : Val) : (s.setBypAt k i u b v).pkg = s.pkg := by unfold State.setBypAt; split <;> rfl
@[simp] theorem State.setBypAt_hbm (k i u b : Nat) (v : Val) : (s.setBypAt k i u b v).hbm = s.hbm := by unfold State.setBypAt; split <;> rfl
@[simp] theorem State.setBypAt_hbmPoison (k i u b : Nat) (v : Val) : (s.setBypAt k i u b v).hbmPoison = s.hbmPoison := by unfold State.setBypAt; split <;> rfl
@[simp] theorem State.setBypAt_llc (k i u b : Nat) (v : Val) : (s.setBypAt k i u b v).llc = s.llc := by unfold State.setBypAt; split <;> rfl
@[simp] theorem State.setBypAt_xlc (k i u b : Nat) (v : Val) : (s.setBypAt k i u b v).xlc = s.xlc := by unfold State.setBypAt; split <;> rfl
@[simp] theorem State.setBypAt_owner (k i u b : Nat) (v : Val) : (s.setBypAt k i u b v).owner = s.owner := by unfold State.setBypAt; split <;> rfl
@[simp] theorem State.setBypAt_arenas (k i u b : Nat) (v : Val) : (s.setBypAt k i u b v).arenas = s.arenas := by unfold State.setBypAt; split <;> rfl
@[simp] theorem State.setBypAt_pmts (k i u b : Nat) (v : Val) : (s.setBypAt k i u b v).pmts = s.pmts := by unfold State.setBypAt; split <;> rfl
@[simp] theorem State.setBypAt_merges (k i u b : Nat) (v : Val) : (s.setBypAt k i u b v).merges = s.merges := by unfold State.setBypAt; split <;> rfl
@[simp] theorem State.setBypAt_appends (k i u b : Nat) (v : Val) : (s.setBypAt k i u b v).appends = s.appends := by unfold State.setBypAt; split <;> rfl
@[simp] theorem State.setBypAt_fetches (k i u b : Nat) (v : Val) : (s.setBypAt k i u b v).fetches = s.fetches := by unfold State.setBypAt; split <;> rfl
@[simp] theorem State.setBypAt_ckpts (k i u b : Nat) (v : Val) : (s.setBypAt k i u b v).ckpts = s.ckpts := by unfold State.setBypAt; split <;> rfl
@[simp] theorem State.setBypAt_kernels (k i u b : Nat) (v : Val) : (s.setBypAt k i u b v).kernels = s.kernels := by unfold State.setBypAt; split <;> rfl
@[simp] theorem State.setBypAt_routers (k i u b : Nat) (v : Val) : (s.setBypAt k i u b v).routers = s.routers := by unfold State.setBypAt; split <;> rfl
@[simp] theorem State.setBypAt_ports (k i u b : Nat) (v : Val) : (s.setBypAt k i u b v).ports = s.ports := by unfold State.setBypAt; split <;> rfl
@[simp] theorem State.setBypAt_circuits (k i u b : Nat) (v : Val) : (s.setBypAt k i u b v).circuits = s.circuits := by unfold State.setBypAt; split <;> rfl
@[simp] theorem State.setBypAt_failedPorts (k i u b : Nat) (v : Val) : (s.setBypAt k i u b v).failedPorts = s.failedPorts := by unfold State.setBypAt; split <;> rfl
@[simp] theorem State.setBypAt_outPorts (k i u b : Nat) (v : Val) : (s.setBypAt k i u b v).outPorts = s.outPorts := by unfold State.setBypAt; split <;> rfl
@[simp] theorem State.setBypAt_inPorts (k i u b : Nat) (v : Val) : (s.setBypAt k i u b v).inPorts = s.inPorts := by unfold State.setBypAt; split <;> rfl
@[simp] theorem State.setBypAt_ethSeq (k i u b : Nat) (v : Val) : (s.setBypAt k i u b v).ethSeq = s.ethSeq := by unfold State.setBypAt; split <;> rfl
@[simp] theorem State.setBypAt_filters (k i u b : Nat) (v : Val) : (s.setBypAt k i u b v).filters = s.filters := by unfold State.setBypAt; split <;> rfl
@[simp] theorem State.setBypAt_atc (k i u b : Nat) (v : Val) : (s.setBypAt k i u b v).atc = s.atc := by unfold State.setBypAt; split <;> rfl
@[simp] theorem State.setBypAt_wire (k i u b : Nat) (v : Val) : (s.setBypAt k i u b v).wire = s.wire := by unfold State.setBypAt; split <;> rfl
@[simp] theorem State.setBypAt_outst (k i u b : Nat) (v : Val) : (s.setBypAt k i u b v).outst = s.outst := by unfold State.setBypAt; split <;> rfl
@[simp] theorem State.setBypAt_reqs (k i u b : Nat) (v : Val) : (s.setBypAt k i u b v).reqs = s.reqs := by unfold State.setBypAt; split <;> rfl
@[simp] theorem State.setBypAt_seqs (k i u b : Nat) (v : Val) : (s.setBypAt k i u b v).seqs = s.seqs := by unfold State.setBypAt; split <;> rfl
@[simp] theorem State.setBypAt_crcWait (k i u b : Nat) (v : Val) : (s.setBypAt k i u b v).crcWait = s.crcWait := by unfold State.setBypAt; split <;> rfl
@[simp] theorem State.setBypAt_nextTag (k i u b : Nat) (v : Val) : (s.setBypAt k i u b v).nextTag = s.nextTag := by unfold State.setBypAt; split <;> rfl
@[simp] theorem State.setBypAt_nextId (k i u b : Nat) (v : Val) : (s.setBypAt k i u b v).nextId = s.nextId := by unfold State.setBypAt; split <;> rfl
@[simp] theorem State.setBypAt_smcLog (k i u b : Nat) (v : Val) : (s.setBypAt k i u b v).smcLog = s.smcLog := by unfold State.setBypAt; split <;> rfl
@[simp] theorem State.setBypAt_out (k i u b : Nat) (v : Val) : (s.setBypAt k i u b v).out = s.out := by unfold State.setBypAt; split <;> rfl
@[simp] theorem State.setBypAt_inbox (k i u b : Nat) (v : Val) : (s.setBypAt k i u b v).inbox = s.inbox := by unfold State.setBypAt; split <;> rfl
@[simp] theorem State.setBypAt_hostq (k i u b : Nat) (v : Val) : (s.setBypAt k i u b v).hostq = s.hostq := by unfold State.setBypAt; split <;> rfl
@[simp] theorem State.setBypAt_cur (k i u b : Nat) (v : Val) : (s.setBypAt k i u b v).cur = s.cur := by unfold State.setBypAt; split <;> rfl
@[simp] theorem State.setBypAt_curCx (k i u b : Nat) (v : Val) : (s.setBypAt k i u b v).curCx = s.curCx := by unfold State.setBypAt; split <;> rfl
@[simp] theorem State.setBypAt_bnd (k i u b : Nat) (v : Val) : (s.setBypAt k i u b v).bnd = s.bnd := by unfold State.setBypAt; split <;> rfl
@[simp] theorem State.setBypAt_free (k i u b : Nat) (v : Val) : (s.setBypAt k i u b v).free = s.free := by unfold State.setBypAt; split <;> rfl
@[simp] theorem State.setJoinsAt_segs (k i u b : Nat) (l : List QRes) : (s.setJoinsAt k i u b l).segs = s.segs := by unfold State.setJoinsAt; split <;> rfl
@[simp] theorem State.setJoinsAt_clusters (k i u b : Nat) (l : List QRes) : (s.setJoinsAt k i u b l).clusters = s.clusters := by unfold State.setJoinsAt; split <;> rfl
@[simp] theorem State.setJoinsAt_dies (k i u b : Nat) (l : List QRes) : (s.setJoinsAt k i u b l).dies = s.dies := by unfold State.setJoinsAt; split <;> rfl
@[simp] theorem State.setJoinsAt_parts (k i u b : Nat) (l : List QRes) : (s.setJoinsAt k i u b l).parts = s.parts := by unfold State.setJoinsAt; split <;> rfl
@[simp] theorem State.setJoinsAt_pkg (k i u b : Nat) (l : List QRes) : (s.setJoinsAt k i u b l).pkg = s.pkg := by unfold State.setJoinsAt; split <;> rfl
@[simp] theorem State.setJoinsAt_hbm (k i u b : Nat) (l : List QRes) : (s.setJoinsAt k i u b l).hbm = s.hbm := by unfold State.setJoinsAt; split <;> rfl
@[simp] theorem State.setJoinsAt_hbmPoison (k i u b : Nat) (l : List QRes) : (s.setJoinsAt k i u b l).hbmPoison = s.hbmPoison := by unfold State.setJoinsAt; split <;> rfl
@[simp] theorem State.setJoinsAt_llc (k i u b : Nat) (l : List QRes) : (s.setJoinsAt k i u b l).llc = s.llc := by unfold State.setJoinsAt; split <;> rfl
@[simp] theorem State.setJoinsAt_xlc (k i u b : Nat) (l : List QRes) : (s.setJoinsAt k i u b l).xlc = s.xlc := by unfold State.setJoinsAt; split <;> rfl
@[simp] theorem State.setJoinsAt_owner (k i u b : Nat) (l : List QRes) : (s.setJoinsAt k i u b l).owner = s.owner := by unfold State.setJoinsAt; split <;> rfl
@[simp] theorem State.setJoinsAt_arenas (k i u b : Nat) (l : List QRes) : (s.setJoinsAt k i u b l).arenas = s.arenas := by unfold State.setJoinsAt; split <;> rfl
@[simp] theorem State.setJoinsAt_pmts (k i u b : Nat) (l : List QRes) : (s.setJoinsAt k i u b l).pmts = s.pmts := by unfold State.setJoinsAt; split <;> rfl
@[simp] theorem State.setJoinsAt_merges (k i u b : Nat) (l : List QRes) : (s.setJoinsAt k i u b l).merges = s.merges := by unfold State.setJoinsAt; split <;> rfl
@[simp] theorem State.setJoinsAt_appends (k i u b : Nat) (l : List QRes) : (s.setJoinsAt k i u b l).appends = s.appends := by unfold State.setJoinsAt; split <;> rfl
@[simp] theorem State.setJoinsAt_fetches (k i u b : Nat) (l : List QRes) : (s.setJoinsAt k i u b l).fetches = s.fetches := by unfold State.setJoinsAt; split <;> rfl
@[simp] theorem State.setJoinsAt_ckpts (k i u b : Nat) (l : List QRes) : (s.setJoinsAt k i u b l).ckpts = s.ckpts := by unfold State.setJoinsAt; split <;> rfl
@[simp] theorem State.setJoinsAt_kernels (k i u b : Nat) (l : List QRes) : (s.setJoinsAt k i u b l).kernels = s.kernels := by unfold State.setJoinsAt; split <;> rfl
@[simp] theorem State.setJoinsAt_routers (k i u b : Nat) (l : List QRes) : (s.setJoinsAt k i u b l).routers = s.routers := by unfold State.setJoinsAt; split <;> rfl
@[simp] theorem State.setJoinsAt_ports (k i u b : Nat) (l : List QRes) : (s.setJoinsAt k i u b l).ports = s.ports := by unfold State.setJoinsAt; split <;> rfl
@[simp] theorem State.setJoinsAt_circuits (k i u b : Nat) (l : List QRes) : (s.setJoinsAt k i u b l).circuits = s.circuits := by unfold State.setJoinsAt; split <;> rfl
@[simp] theorem State.setJoinsAt_failedPorts (k i u b : Nat) (l : List QRes) : (s.setJoinsAt k i u b l).failedPorts = s.failedPorts := by unfold State.setJoinsAt; split <;> rfl
@[simp] theorem State.setJoinsAt_outPorts (k i u b : Nat) (l : List QRes) : (s.setJoinsAt k i u b l).outPorts = s.outPorts := by unfold State.setJoinsAt; split <;> rfl
@[simp] theorem State.setJoinsAt_inPorts (k i u b : Nat) (l : List QRes) : (s.setJoinsAt k i u b l).inPorts = s.inPorts := by unfold State.setJoinsAt; split <;> rfl
@[simp] theorem State.setJoinsAt_ethSeq (k i u b : Nat) (l : List QRes) : (s.setJoinsAt k i u b l).ethSeq = s.ethSeq := by unfold State.setJoinsAt; split <;> rfl
@[simp] theorem State.setJoinsAt_filters (k i u b : Nat) (l : List QRes) : (s.setJoinsAt k i u b l).filters = s.filters := by unfold State.setJoinsAt; split <;> rfl
@[simp] theorem State.setJoinsAt_atc (k i u b : Nat) (l : List QRes) : (s.setJoinsAt k i u b l).atc = s.atc := by unfold State.setJoinsAt; split <;> rfl
@[simp] theorem State.setJoinsAt_wire (k i u b : Nat) (l : List QRes) : (s.setJoinsAt k i u b l).wire = s.wire := by unfold State.setJoinsAt; split <;> rfl
@[simp] theorem State.setJoinsAt_outst (k i u b : Nat) (l : List QRes) : (s.setJoinsAt k i u b l).outst = s.outst := by unfold State.setJoinsAt; split <;> rfl
@[simp] theorem State.setJoinsAt_reqs (k i u b : Nat) (l : List QRes) : (s.setJoinsAt k i u b l).reqs = s.reqs := by unfold State.setJoinsAt; split <;> rfl
@[simp] theorem State.setJoinsAt_seqs (k i u b : Nat) (l : List QRes) : (s.setJoinsAt k i u b l).seqs = s.seqs := by unfold State.setJoinsAt; split <;> rfl
@[simp] theorem State.setJoinsAt_crcWait (k i u b : Nat) (l : List QRes) : (s.setJoinsAt k i u b l).crcWait = s.crcWait := by unfold State.setJoinsAt; split <;> rfl
@[simp] theorem State.setJoinsAt_nextTag (k i u b : Nat) (l : List QRes) : (s.setJoinsAt k i u b l).nextTag = s.nextTag := by unfold State.setJoinsAt; split <;> rfl
@[simp] theorem State.setJoinsAt_nextId (k i u b : Nat) (l : List QRes) : (s.setJoinsAt k i u b l).nextId = s.nextId := by unfold State.setJoinsAt; split <;> rfl
@[simp] theorem State.setJoinsAt_smcLog (k i u b : Nat) (l : List QRes) : (s.setJoinsAt k i u b l).smcLog = s.smcLog := by unfold State.setJoinsAt; split <;> rfl
@[simp] theorem State.setJoinsAt_out (k i u b : Nat) (l : List QRes) : (s.setJoinsAt k i u b l).out = s.out := by unfold State.setJoinsAt; split <;> rfl
@[simp] theorem State.setJoinsAt_inbox (k i u b : Nat) (l : List QRes) : (s.setJoinsAt k i u b l).inbox = s.inbox := by unfold State.setJoinsAt; split <;> rfl
@[simp] theorem State.setJoinsAt_hostq (k i u b : Nat) (l : List QRes) : (s.setJoinsAt k i u b l).hostq = s.hostq := by unfold State.setJoinsAt; split <;> rfl
@[simp] theorem State.setJoinsAt_cur (k i u b : Nat) (l : List QRes) : (s.setJoinsAt k i u b l).cur = s.cur := by unfold State.setJoinsAt; split <;> rfl
@[simp] theorem State.setJoinsAt_curCx (k i u b : Nat) (l : List QRes) : (s.setJoinsAt k i u b l).curCx = s.curCx := by unfold State.setJoinsAt; split <;> rfl
@[simp] theorem State.setJoinsAt_bnd (k i u b : Nat) (l : List QRes) : (s.setJoinsAt k i u b l).bnd = s.bnd := by unfold State.setJoinsAt; split <;> rfl
@[simp] theorem State.setJoinsAt_free (k i u b : Nat) (l : List QRes) : (s.setJoinsAt k i u b l).free = s.free := by unfold State.setJoinsAt; split <;> rfl

/-! ### Reading back -/

@[simp] theorem State.core_setCore (k q : Nat) (c : Core) : (s.setCore k c).core q = if q = k then c else s.core q := by
  simp [State.core, State.setCore]
@[simp] theorem State.core_updCore (k q : Nat) (f : Core → Core) :
    (s.updCore k f).core q = if q = k then f (s.core k) else s.core q := by simp [State.updCore]
@[simp] theorem State.cluster_updCluster (k q : Nat) (f : Cluster → Cluster) :
    (s.updCluster k f).cluster q = if q = k then f (s.cluster k) else s.cluster q := by simp [State.cluster, State.updCluster]
@[simp] theorem State.die_updDie (k q : Nat) (f : Die → Die) :
    (s.updDie k f).die q = if q = k then f (s.die k) else s.die q := by simp [State.die, State.updDie]
@[simp] theorem State.part_updPart (k q : Nat) (f : Part → Part) :
    (s.updPart k f).part q = if q = k then f (s.part k) else s.part q := by simp [State.part, State.updPart]
@[simp] theorem State.router_updRouter (k q : Nat) (f : Router → Router) :
    (s.updRouter k f).router q = if q = k then f (s.router k) else s.router q := by simp [State.router, State.updRouter]
@[simp] theorem State.port_updPort (k q : Nat) (f : Port → Port) :
    (s.updPort k f).port q = if q = k then f (s.port k) else s.port q := by simp [State.port, State.updPort]

/-- The number of the context that an index means (R128): 0 to 3. -/
def cxIdx (i : Nat) : Nat := min i 3
theorem Core.cx_setCx (c : Core) (i j : Nat) (x : Cx) : (c.setCx i x).cx j = if cxIdx j = cxIdx i then x else c.cx j := by
  rcases i with _ | _ | _ | i <;> rcases j with _ | _ | _ | j <;> simp [Core.setCx, Core.cx, cxIdx]
@[simp] theorem Core.cx_setCx_self (c : Core) (i : Nat) (x : Cx) : (c.setCx i x).cx i = x := by simp [Core.cx_setCx]
@[simp] theorem State.cx_updCx_self (k i : Nat) (f : Cx → Cx) : (s.updCx k i f).cx k i = f (s.cx k i) := by
  simp [State.cx, State.updCx, State.setCx]
@[simp] theorem State.me_updMe (f : Cx → Cx) : (s.updMe f).me = f s.me := by
  simp [State.me, State.updMe]
theorem State.cx_updCx (k i q j : Nat) (f : Cx → Cx) :
    (s.updCx k i f).cx q j = if q = k ∧ cxIdx j = cxIdx i then f (s.cx k i) else s.cx q j := by
  simp only [State.cx, State.updCx, State.setCx, State.core_updCore]
  by_cases h : q = k
  · subst h; simp [Core.cx_setCx]
  · simp [h]

/-! ### Registers: the hard-wired ones, and reading back what was written (R137) -/

@[simp] theorem Cx.getS_setS (c : Cx) (i j : Fin 64) (v : Word) :
    (c.setS i v).getS j = if j = i ∧ i.val ≠ 0 then v else c.getS j := by
  unfold Cx.setS Cx.getS
  by_cases h : i.val = 0
  · simp [h]
  · by_cases h2 : j.val = 0
    · have : j ≠ i := fun e => h (e ▸ h2)
      simp [h, h2, this]
    · simp [h, h2, Fin.ext_iff]
@[simp] theorem Cx.getG_setG (c : Cx) (i j : Fin 8) (v : Bool) :
    (c.setG i v).getG j = if j = i ∧ i.val ≠ 0 then v else c.getG j := by
  unfold Cx.setG Cx.getG
  by_cases h : i.val = 0
  · simp [h]
  · by_cases h2 : j.val = 0
    · have : j ≠ i := fun e => h (e ▸ h2)
      simp [h, h2, this]
    · simp [h, h2, Fin.ext_iff]
@[simp] theorem Cx.getK_setK (c : Cx) (i j : Fin 16) (v : Word) : (c.setK i v).getK j = if j = i then v else c.getK j := by
  simp [Cx.setK, Cx.getK, Fin.ext_iff]
@[simp] theorem Cx.getA_setA (c : Cx) (i j : Fin 16) (v : Word) : (c.setA i v).getA j = if j = i then v else c.getA j := by
  simp [Cx.setA, Cx.getA, Fin.ext_iff]
@[simp] theorem Cx.getLc_setLc (c : Cx) (i j : Fin 4) (v : BitVec 32) : (c.setLc i v).getLc j = if j = i then v else c.getLc j := by
  simp [Cx.setLc, Cx.getLc, Fin.ext_iff]
@[simp] theorem Cx.getCb_setCb (c : Cx) (i j : Fin 16) (v : BitVec 32) : (c.setCb i v).getCb j = if j = i then v else c.getCb j := by
  simp [Cx.setCb, Cx.getCb, Fin.ext_iff]
@[simp] theorem Core.getV_setV (c : Core) (i j : Fin 64) (v : Vec) : (c.setV i v).getV j = if j = i then v else c.getV j := by
  simp [Core.setV, Core.getV, Fin.ext_iff]
@[simp] theorem Core.getM_setM (c : Core) (i j : Fin 16) (v : Val) : (c.setM i v).getM j = if j = i then v else c.getM j := by
  simp [Core.setM, Core.getM, Fin.ext_iff]
@[simp] theorem Core.getFt_setFt (c : Core) (i j : Fin 16) (v : BitVec 16) : (c.setFt i v).getFt j = if j = i then v else c.getFt j := by
  simp [Core.setFt, Core.getFt, Fin.ext_iff]

/-! ### Results (R124) -/

/-- A pushed result stands last among those in flight. -/
theorem State.pushFlight_flights (k i : Nat) (f : Flight) :
    ((s.pushFlight k i f).cx k i).flights = (s.cx k i).flights ++ [{ f with seq := (s.cx k i).seq }] := by
  simp [State.pushFlight]

end Sys2Proof.Machine
end

