-- ==== Sys2Proof/Laws/Acting.lean ====
section
/-! SUPPORT. What a transport does around its own effect, said once: with a false guard nothing, with a source that is read its
effect on the value, else a pause or the trap of a held fault (R123, R125, R265, R288). -/

namespace Sys2Proof.Machine

variable (s : State)

/-- The guard of an unguarded transport is true (R137, R265). -/
@[simp] theorem State.guard_always : s.guard ⟨false, 0⟩ = true := rfl
@[simp] theorem State.guard_empty : s.guard ⟨true, 0⟩ = false := rfl

/-- A guard is its register, inverted where GN is set (R265). -/
theorem State.guard_eq (g : Guard) : s.guard g = xor (s.me.getG g.gr) g.gn := rfl

/-- A transport with a false guard leaves the state as it is. -/
theorem State.acting_false {t : Tr} {seq whole : Bool} {f : Val → State → State} (h : s.guard t.g = false) :
    s.acting t seq whole f = .next s := by
  simp [State.acting, State.acts, h]

/-- A seq transport before the last repetition of its bundle leaves the state as it is. -/
theorem State.acting_early {t : Tr} {whole : Bool} {f : Val → State → State} (h : s.bnd.repSeq = false) :
    s.acting t true whole f = .next s := by
  simp [State.acting, State.acts, h]

/-- A transport that acts has its effect on the value that its source reads, in the state that the read leaves. -/
theorem State.acting_ok {t : Tr} {seq whole : Bool} {f : Val → State → State} {v : Val} {s' : State}
    (hg : s.guard t.g = true) (hs : seq = true → s.bnd.repSeq = true) (hr : s.readSrc whole t.src = .ok v s') :
    s.acting t seq whole f = .next (f v s') := by
  have : s.acts t seq = true := by
    cases seq <;> simp_all [State.acts]
  simp [State.acting, this, hr]

/-- A transport whose source is not there yet pauses its bundle. -/
theorem State.acting_wait {t : Tr} {seq whole : Bool} {f : Val → State → State} {p : Pause}
    (hg : s.guard t.g = true) (hs : seq = true → s.bnd.repSeq = true) (hr : s.readSrc whole t.src = .wait p) :
    s.acting t seq whole f = .next (s.wait p) := by
  have : s.acts t seq = true := by
    cases seq <;> simp_all [State.acts]
  simp [State.acting, this, hr]

/-- A transport whose source holds a fault raises it. -/
theorem State.acting_trap {t : Tr} {seq whole : Bool} {f : Val → State → State} {ti : TrapInfo}
    (hg : s.guard t.g = true) (hs : seq = true → s.bnd.repSeq = true) (hr : s.readSrc whole t.src = .trap ti) :
    s.acting t seq whole f = .next (s.raise ti) := by
  have : s.acts t seq = true := by
    cases seq <;> simp_all [State.acts]
  simp [State.acting, this, hr]

/-- A transport always goes on: it neither stops nor is refused. -/
theorem State.acting_next {t : Tr} {seq whole : Bool} {f : Val → State → State} : ∃ x, s.acting t seq whole f = .next x := by
  unfold State.acting
  split
  · split <;> exact ⟨_, rfl⟩
  · exact ⟨_, rfl⟩

/-! ### Reading a source leaves the state, but for rnd and a join (R123, R125, R139) -/

@[simp] theorem State.readSrc_s (w : Bool) (i : Fin 64) : s.readSrc w (.s i) = .ok (wordVal (s.me.getS i)) s := rfl
@[simp] theorem State.readSrc_v (w : Bool) (i : Fin 64) :
    s.readSrc w (.v i) = .ok (selV (selCode s.bnd.words s.bnd.slot) (s.myCore.getV i)) s := rfl
@[simp] theorem State.readSrc_m (w : Bool) (i : Fin 16) :
    s.readSrc w (.m i) = .ok (selM (selCode s.bnd.words s.bnd.slot) (s.myCore.getM i)) s := rfl
@[simp] theorem State.readSrc_small (w : Bool) (r : SReg) : s.readSrc w (.small r) = .ok (s.readSmall r) s := rfl
@[simp] theorem State.readSrc_imm (w : Bool) (n : BitVec 10) :
    s.readSrc w (.imm n) = .ok (wordVal (immValue s.bnd.words s.bnd.slot n)) s := rfl
theorem State.readSrc_special (w : Bool) {c : Special} (h : c ≠ .rnd) : s.readSrc w (.special c) = .ok (s.readSpecial c) s := by
  cases c <;> first | rfl | exact absurd rfl h
/-- rnd with no write of RQKEY or RQPOS pending pops the vector at RQPOS (R139, R140). -/
theorem State.readSrc_rnd (w : Bool)
    (h : (s.me.sysq.any fun e => decide (5 ≤ e.op) && decide (e.op ≤ 7) && decide (e.a.toNat % 4096 ≤ 1)) = false) :
    s.readSrc w (.special .rnd) = .ok (rndVec s.me.rqkey s.me.rqpos) (s.updMe fun c => { c with rqpos := c.rqpos + 1 }) := by
  simp [State.readSrc, h, State.pop]

/-- A result taken by a join: with one result done, of an earlier bundle and with no lend, the read gives its value and empties
the list (R125). -/
theorem State.joinRead_one {u b n : Nat} {r : QRes} (h : s.joinsAt s.cur s.curCx u b = [r]) (hd : r.done = true) (hf : r.fault = none)
    (hl : r.lend = 0xFF) (hs : s.bnd.start = some n) (hn : r.id < n) :
    s.joinRead u b = .ok r.val ((s.setBypAt s.cur s.curCx u b r.val).setJoinsAt s.cur s.curCx u b []) := by
  simp [State.joinRead, h, hd, hf, hl, hs, hn]

/-- A join with nothing outstanding reads the bypass register (R125). -/
theorem State.joinRead_none {u b : Nat} (h : s.joinsAt s.cur s.curCx u b = []) :
    s.joinRead u b = .ok (s.bypAt s.cur s.curCx u b) s := by
  simp [State.joinRead, h]

end Sys2Proof.Machine
end

