-- ==== Sys2Proof/Laws/Memory.lean ====
section
/-! SUPPORT. What the operations over memory do: what reading gives after a write, and that each keeps HBM and every scratchpad
in canonical form. -/

namespace Sys2Proof

/-- What one key of a sparse store holds after a put is in the store, and so is everything else. -/
theorem SMap.mem_put {α : Type} {m : SMap α} {i : Nat} {v : α} {x : Nat × α} (h : x ∈ SMap.put m i v) : x = (i, v) ∨ x ∈ m := by
  rcases List.mem_append.1 h with h | h
  · exact .inr (SMap.below_sub.subset h)
  · rcases List.mem_cons.1 h with h | h
    · exact .inl h
    · exact .inr (SMap.above_sub.subset h)

/-- A value that `find` gives is listed. -/
theorem SMap.mem_of_find {α : Type} {m : SMap α} {i : Nat} {v : α} (h : SMap.find m i = some v) : (i, v) ∈ m := by
  induction m with
  | nil => cases h
  | cons a t ih =>
    obtain ⟨k, w⟩ := a
    by_cases e : k = i
    · simp [SMap.find, e] at h
      simp [e, h]
    · simp [SMap.find, e] at h
      exact List.mem_cons_of_mem _ (ih h)

/-- A property of the default and of every listed value holds of what `get` gives. -/
theorem SMap.get_of_all {α : Type} {m : SMap α} {d : α} {p : α → Prop} (i : Nat) (hd : p d) (h : ∀ x ∈ m, p x.2) : p (SMap.get d m i) := by
  rw [SMap.get_eq_find]
  cases e : SMap.find m i with
  | none => simpa using hd
  | some v => simpa using h _ (SMap.mem_of_find e)

end Sys2Proof

namespace Sys2Proof.Machine

variable (s : State)

theorem State.memOk_iff : s.memOk = true ↔ Memory.wf s.hbm = true ∧ ∀ x ∈ s.cores, Memory.wf x.2.sp = true := by
  simp [State.memOk]

/-- Canonical memories depend on HBM and the cores alone. -/
theorem State.memOk_congr {s x : State} (h : s.memOk = true) (hh : x.hbm = s.hbm) (hc : x.cores = s.cores) : x.memOk = true := by
  simpa [State.memOk, hh, hc] using h

theorem State.memOk_hbm {s : State} (h : s.memOk = true) : Memory.wf s.hbm = true := (s.memOk_iff.1 h).1
theorem State.memOk_core {s : State} (h : s.memOk = true) (k : Nat) : Memory.wf (s.core k).sp = true :=
  SMap.get_of_all (p := fun (c : Core) => Memory.wf c.sp = true) k rfl (s.memOk_iff.1 h).2

/-- Setting a core whose scratchpad is canonical keeps the form. -/
theorem State.memOk_setCore {s : State} (h : s.memOk = true) (k : Nat) (c : Core) (hc : Memory.wf c.sp = true) : (s.setCore k c).memOk = true := by
  rw [State.memOk_iff] at h ⊢
  refine ⟨h.1, fun x hx => ?_⟩
  rcases SMap.mem_put hx with e | hx
  · rw [e]; exact hc
  · exact h.2 x hx
/-- Changing a core in anything but its scratchpad keeps the form. -/
theorem State.memOk_updCore {s : State} (h : s.memOk = true) (k : Nat) (f : Core → Core) (hf : (f (s.core k)).sp = (s.core k).sp) :
    (s.updCore k f).memOk = true := State.memOk_setCore h k _ (by rw [hf]; exact State.memOk_core h k)
theorem Core.sp_setCx (c : Core) (i : Nat) (x : Cx) : (c.setCx i x).sp = c.sp := by
  rcases i with _ | _ | _ | i <;> rfl
theorem State.memOk_updCx {s : State} (h : s.memOk = true) (k i : Nat) (f : Cx → Cx) : (s.updCx k i f).memOk = true :=
  State.memOk_updCore h k _ (Core.sp_setCx _ _ _)

/-! ### Scratchpads (R152) -/

theorem State.wakeMons_hbm (key n : Nat) (w : Writer) : (s.wakeMons key n w).hbm = s.hbm := rfl
theorem State.wakeMons_cores (key n : Nat) (w : Writer) : (s.wakeMons key n w).cores = s.cores := rfl
theorem State.wakeMons_core (key n : Nat) (w : Writer) (k : Nat) : (s.wakeMons key n w).core k = s.core k := rfl

/-- What a scratchpad holds after a write: the bytes written, and every other byte as before; other scratchpads stay. -/
theorem State.sp_spWrite (k q off a : Nat) (bs : List Byte) (w : Writer) :
    SMap.get 0 ((s.spWrite k off bs w).core q).sp a
      = if q = k ∧ off ≤ a ∧ a < off + bs.length then bs.getD (a - off) 0 else SMap.get 0 (s.core q).sp a := by
  by_cases e : q = k
  · subst e
    have h : ((s.spWrite q off bs w).core q).sp = SMap.setRun 0 (s.core q).sp off bs := by
      simp [State.spWrite, State.wakeMons_core]
    rw [h, Memory.get_setRun]
    simp
  · simp [State.spWrite, State.wakeMons_core, e]
theorem State.hbm_spWrite (k off : Nat) (bs : List Byte) (w : Writer) : (s.spWrite k off bs w).hbm = s.hbm := rfl
/-- A scratchpad write keeps the contexts and registers of every core. -/
theorem State.cx_spWrite (k q i off : Nat) (bs : List Byte) (w : Writer) : (s.spWrite k off bs w).cx q i = s.cx q i := by
  by_cases e : q = k
  · subst e
    rcases i with _ | _ | _ | i <;> simp [State.cx, State.spWrite, State.wakeMons_core, Core.cx]
  · simp [State.cx, State.spWrite, State.wakeMons_core, e]
theorem State.memOk_spWrite {s : State} (h : s.memOk = true) (k off : Nat) (bs : List Byte) (w : Writer) :
    (s.spWrite k off bs w).memOk = true :=
  State.memOk_setCore (State.memOk_congr h (s.wakeMons_hbm _ _ w) (s.wakeMons_cores _ _ w)) k _
    (Memory.wf_setRun (State.memOk_core (State.memOk_congr h (s.wakeMons_hbm _ _ w) (s.wakeMons_cores _ _ w)) k) off bs)

/-! ### HBM and the caches (R154-R156) -/

/-- Noting a byte in the caches of a die keeps every scratchpad. -/
theorem wf_noteCores {die pa : Nat} {v : Byte} {m : SMap Core} (h : ∀ x ∈ m, Memory.wf x.2.sp = true) :
    ∀ x ∈ noteCores die pa v m, Memory.wf x.2.sp = true := fun x hx => by
  simp only [noteCores, List.mem_map] at hx
  obtain ⟨y, hy, e⟩ := hx
  split at e <;> (subst e; exact h y hy)
theorem State.memOk_noteCores {s : State} (h : s.memOk = true) (die pa : Nat) (v : Byte) :
    State.memOk { s with cores := noteCores die pa v s.cores } = true :=
  (State.memOk_iff _).2 ⟨((State.memOk_iff _).1 h).1, wf_noteCores ((State.memOk_iff _).1 h).2⟩

/-- Something kept of each state of a fold is kept by the fold. -/
theorem foldl_keeps {α β : Type} {f : α → β → α} (p : α → Prop) (hf : ∀ a b, p a → p (f a b)) :
    ∀ (l : List β) (a : α), p a → p (l.foldl f a)
  | [], _, h => h
  | b :: l, a, h => foldl_keeps p hf l (f a b) (hf a b h)

theorem State.hbm_noteDie (pa die : Nat) : (s.noteDie pa die).hbm = s.hbm := by
  unfold State.noteDie; split
  · rfl
  · split <;> rfl
theorem State.memOk_noteDie {s : State} (h : s.memOk = true) (pa die : Nat) : (s.noteDie pa die).memOk = true := by
  unfold State.noteDie; split
  · exact h
  · split
    · exact State.memOk_congr h rfl rfl
    · exact State.memOk_noteCores h ..
theorem State.hbm_noteRun (pa n : Nat) : (s.noteRun pa n).hbm = s.hbm := by
  induction n generalizing s pa with
  | zero => rfl
  | succ n ih => simp only [State.noteRun, ih, List.foldl, State.hbm_noteDie]
theorem State.memOk_noteRun {s : State} (h : s.memOk = true) (pa n : Nat) : (s.noteRun pa n).memOk = true := by
  induction n generalizing s pa with
  | zero => exact h
  | succ n ih => exact ih (foldl_keeps (fun (x : State) => x.memOk = true) (fun _ d hx => State.memOk_noteDie hx pa d) _ _ h) _

theorem State.hbmWrite_hbm (pa : Nat) (bs : List Byte) (w : Writer) : (s.hbmWrite pa bs w).hbm = SMap.setRun 0 s.hbm pa bs := by
  simp [State.hbmWrite, State.wakeMons_hbm, State.hbm_noteRun]
/-- What HBM holds after a write: the bytes written, and every other byte as before. -/
theorem State.hbm_hbmWrite (pa a : Nat) (bs : List Byte) (w : Writer) :
    SMap.get 0 (s.hbmWrite pa bs w).hbm a = if pa ≤ a ∧ a < pa + bs.length then bs.getD (a - pa) 0 else SMap.get 0 s.hbm a := by
  rw [State.hbmWrite_hbm, Memory.get_setRun]
theorem State.memOk_hbmWrite {s : State} (h : s.memOk = true) (pa : Nat) (bs : List Byte) (w : Writer) : (s.hbmWrite pa bs w).memOk = true := by
  have h2 := State.memOk_noteRun h pa bs.length
  refine (State.memOk_iff _).2 ⟨?_, ((State.memOk_iff _).1 h2).2⟩
  rw [State.hbmWrite_hbm]
  exact Memory.wf_setRun (State.memOk_hbm h) pa bs

/-- A store into an L2 keeps HBM. -/
theorem State.hbm_l2Byte (die pa : Nat) (b : L2Byte) : (s.l2Byte die pa b).hbm = s.hbm := by
  unfold State.l2Byte; simp only []; split <;> rfl
theorem State.memOk_l2Byte {s : State} (h : s.memOk = true) (die pa : Nat) (b : L2Byte) : (s.l2Byte die pa b).memOk = true := by
  unfold State.l2Byte; simp only []; split
  · exact State.memOk_congr (State.memOk_noteCores h die pa _) rfl rfl
  · exact State.memOk_congr h rfl rfl
theorem State.hbm_l2Bytes (die pa ptag : Nat) (src : Option (Nat × Nat × Nat)) (bs : List Byte) :
    (s.l2Bytes die pa ptag src bs).hbm = s.hbm := by
  induction bs generalizing s pa with
  | nil => rfl
  | cons v t ih => simp only [State.l2Bytes, ih, State.hbm_l2Byte]
theorem State.memOk_l2Bytes {s : State} (h : s.memOk = true) (die pa ptag : Nat) (src : Option (Nat × Nat × Nat)) (bs : List Byte) :
    (s.l2Bytes die pa ptag src bs).memOk = true := by
  induction bs generalizing s pa with
  | nil => exact h
  | cons v t ih => exact ih (State.memOk_l2Byte h ..) _
theorem State.memOk_l2Write {s : State} (h : s.memOk = true) (die pa ptag : Nat) (src : Option (Nat × Nat × Nat)) (w : Writer)
    (bs : List Byte) : (s.l2Write die pa ptag src w bs).memOk = true :=
  State.memOk_congr (State.memOk_l2Bytes (State.memOk_congr h (s.wakeMons_hbm pa bs.length w) (s.wakeMons_cores _ _ w)) die pa ptag src bs)
    rfl rfl

theorem State.memOk_backByte {s : State} (h : s.memOk = true) (die : Nat) (x : Nat × L2Byte) : (s.backByte die x).memOk = true := by
  have h2 := State.memOk_noteRun h x.1 1
  unfold State.backByte
  generalize s.noteRun x.1 1 = y at h2
  exact (State.memOk_iff _).2 ⟨SMap.wf_set _ (h := State.memOk_hbm h2), ((State.memOk_iff _).1 h2).2⟩
/-- Writing dirty lines back keeps the form. -/
theorem State.memOk_writeBack {s : State} (h : s.memOk = true) (die : Nat) (p : Nat × L2Byte → Bool) : (s.writeBack die p).memOk = true :=
  foldl_keeps (fun (x : State) => x.memOk = true) (fun _ b hx => State.memOk_backByte hx die b) _ _ h
/-- With no dirty byte in the lines of an access nothing is written back before it. -/
theorem State.syncLines_clean {s : State} (die pa n : Nat)
    (h : ∀ d, d < 4 → ∀ x ∈ (s.die d).l2, x.1 / 128 < pa / 128 ∨ (pa + n) / 128 < x.1 / 128) : s.syncLines die pa n = s := by
  have key : ∀ d, d < 4 → ((s.die d).l2.any fun x => decide (pa / 128 ≤ x.1 / 128) && decide (x.1 / 128 ≤ (pa + n) / 128)) = false := by
    intro d hd
    rw [List.any_eq_false]
    intro x hx
    rcases h d hd x hx with e | e <;> simp <;> omega
  simp [State.syncLines, key]
theorem State.memOk_syncLines {s : State} (h : s.memOk = true) (die pa n : Nat) : (s.syncLines die pa n).memOk = true :=
  foldl_keeps (fun (x : State) => x.memOk = true) (fun _ _ hx => by
    split
    · exact State.memOk_writeBack hx _ _
    · exact hx) _ _ h
/-- Clean lines that leave keep the form. -/
theorem State.memOk_evictLine {s : State} (h : s.memOk = true) (die pa : Nat) : (s.evictLine die pa).memOk = true := by
  unfold State.evictLine; split
  · refine (State.memOk_iff _).2 ⟨((State.memOk_iff _).1 h).1, ?_⟩
    exact foldl_keeps (fun (m : SMap Core) => ∀ x ∈ m, Memory.wf x.2.sp = true) (fun _ _ hx => wf_noteCores hx) _ _ ((State.memOk_iff _).1 h).2
  · exact h
theorem State.memOk_toHome {s : State} (h : s.memOk = true) (die pa n : Nat) : (s.toHome die pa n).memOk = true :=
  foldl_keeps (fun (x : State) => x.memOk = true) (fun _ _ hx => State.memOk_evictLine hx die _) _ _
    (State.memOk_syncLines (State.memOk_writeBack h _ _) die pa n)
/-- A walk looks at the 64 KiB page of an address alone (R143). -/
theorem levelIndex_page {va va' : Nat} (h : va / 65536 = va' / 65536) (l : Nat) : levelIndex l va = levelIndex l va' := by
  have key : ∀ k, va / 2 ^ (16 + k) = va' / 2 ^ (16 + k) := fun k => by
    rw [Nat.pow_add, ← Nat.div_div_eq_div_mul, ← Nat.div_div_eq_div_mul]; exact congrArg (· / 2 ^ k) h
  unfold levelIndex bits
  split
  · exact congrArg (· % 2 ^ (20 - 16 + 1)) (key 0)
  · rename_i hl
    have e : 9 * l + 12 = 16 + (9 * l - 4) := by omega
    rw [e, key]
theorem State.walk_page (s : State) (p : Nat) {va va' : Nat} (h : va / 65536 = va' / 65536) : s.walk p va = s.walk p va' := by
  have key : ∀ l tbl, s.walkFrom p va l tbl = s.walkFrom p va' l tbl := by
    intro l
    induction l with
    | zero => intro tbl; unfold State.walkFrom entryPa; rw [levelIndex_page h]
    | succ l ih => intro tbl; unfold State.walkFrom entryPa; rw [levelIndex_page h]; simp only [ih]
  have a : 2 ^ 57 ≤ va ↔ 2 ^ 57 ≤ va' := by omega
  have b : va < 2 ^ 25 ↔ va' < 2 ^ 25 := by omega
  simp only [State.walk, key, a, b]

end Sys2Proof.Machine
end

