-- ==== Sys2Proof/Laws/Container.lean ====
section
/-! SUPPORT. What the loader can do (R228): a container that fails a check changes nothing, and one that is loaded keeps every memory
in canonical form. -/

namespace Sys2Proof.Machine

theorem State.memOk_placeSect {s : State} (h : s.memOk = true) (ps : List Place) (x : LSect) : (s.placeSect ps x).memOk = true := by
  unfold State.placeSect
  split
  · exact h
  · simp only []
    split
    · exact State.memOk_hbmWrite h ..
    · exact foldl_keeps (fun (y : State) => y.memOk = true) (fun _ _ hx => State.memOk_hbmWrite hx ..) _ _ (State.memOk_hbmWrite h ..)

/-- A container whose header or section table breaks R226 or R227 is refused as a whole. -/
theorem State.loadContainer_refused {s : State} {f : List Byte} (h : sectsOf f = none) (p : Nat) (pkgs : List (Nat × Nat)) (ps : List Place) :
    s.loadContainer p pkgs ps f = none := by
  simp [State.loadContainer, h]

theorem State.memOk_loadContainer {s s' : State} (h : s.memOk = true) {p : Nat} {pkgs : List (Nat × Nat)} {ps : List Place} {f : List Byte}
    (hl : s.loadContainer p pkgs ps f = some s') : s'.memOk = true := by
  unfold State.loadContainer at hl
  simp only [] at hl
  repeat' split at hl
  all_goals try contradiction
  all_goals
    cases hl
    refine State.memOk_congr (foldl_keeps (fun (y : State) => y.memOk = true) (fun _ b hx => State.memOk_placeSect hx ps b) _ s h) rfl rfl

end Sys2Proof.Machine
end

