-- ==== Sys2Proof/Laws/Fabric.lean ====
section
/-! SUPPORT. The end-to-end check (R37, R38): a transaction that is sent with its check passes it. -/

namespace Sys2Proof.Machine

theorem xor_lt {n a b : Nat} (ha : a < 2 ^ n) (hb : b < 2 ^ n) : Nat.xor a b < 2 ^ n := Nat.xor_lt_two_pow ha hb

theorem crcBit_lt {c : Nat} (h : c < 2 ^ 32) : crcBit c < 2 ^ 32 := by
  unfold crcBit
  split
  · exact xor_lt (by omega) (by decide)
  · omega
theorem crcByte_lt {c : Nat} (h : c < 2 ^ 32) (b : Byte) : crcByte c b < 2 ^ 32 := by
  have : b.toNat < 2 ^ 32 := by have := b.isLt; omega
  have x := xor_lt h this
  simp only [crcByte]
  exact crcBit_lt (crcBit_lt (crcBit_lt (crcBit_lt (crcBit_lt (crcBit_lt (crcBit_lt (crcBit_lt x)))))))
/-- The check value has 32 bits. -/
theorem crc32c_lt (bs : List Byte) : crc32c bs < 2 ^ 32 := by
  have key : ∀ (l : List Byte) (c : Nat), c < 2 ^ 32 → l.foldl crcByte c < 2 ^ 32 := by
    intro l
    induction l with
    | nil => exact fun c h => h
    | cons b t ih => exact fun c h => ih _ (crcByte_lt h b)
  exact xor_lt (key bs _ (by decide)) (by decide)

/-- A transaction that is sent with its check passes it. -/
theorem Txn.crcOk_withCrc (t : Txn) : Txn.crcOk (Txn.withCrc t) = true := by
  have h : (BitVec.ofNat 32 (crc32c (Txn.checked t))).toNat = crc32c (Txn.checked t) := by
    rw [BitVec.toNat_ofNat]; exact Nat.mod_eq_of_lt (crc32c_lt _)
  have e : Txn.checked (Txn.withCrc t) = Txn.checked t := rfl
  simp only [Txn.crcOk, e]
  simpa [Txn.withCrc] using h

end Sys2Proof.Machine
end

