-- ==== Sys2Proof/Tests/Slice0.lean ====
section
/-! SUPPORT. The model's own tests: ill-formed terms that the check refuses, words that the spec's encoding tables give, single steps
whose results the spec prints or that follow from its tables by hand, and a witness for the hypotheses of every statement. -/

namespace Sys2Proof.Tests

-- One test after another: checked side by side they would want more memory.
set_option Elab.async false

open Sys2Proof.Machine Sys2Proof.Claims

/-! ### Well-formedness (R12, R14, R94, R258, R267, R270): one ill-formed term for each check -/

def always : Guard := ⟨false, 0⟩
/-- An unguarded transport of an immediate. -/
def tr (n : BitVec 10) : Tr := ⟨always, .imm n⟩
/-- A bare request, for the payload bound. -/
def longReq : Txn := { ty := 1, src := ⟨0, 0, 0⟩, dst := ⟨0, 0, 0⟩, payload := List.replicate 2049 0 }

theorem test_wf_good : (Instr.aluAdd .alu0 (tr 1)).wf = true ∧ (Instr.operandPortWrite .vu 3 (tr 1)).wf = true
    ∧ (Instr.seqJmp ⟨always, .byp .lsu true 3⟩).wf = true ∧ (Instr.mxEntryPerform 159).wf = true := by decide
/-- The guard (!g0) marks the empty slot (R258). -/
theorem test_wf_guard : (Instr.seqJmp ⟨⟨true, 0⟩, .imm 0⟩).wf = false := by decide
/-- seq has one bypass register, alu0 two (R270 Table 9). -/
theorem test_wf_bypass : (Instr.seqJmp ⟨always, .byp .seq false 1⟩).wf = false
    ∧ (Instr.aluAdd .alu0 ⟨always, .byp .alu0 false 2⟩).wf = false := by decide
/-- seq, alu0, alu1 and cb have two operand ports (R270 Table 9). -/
theorem test_wf_port : (Instr.operandPortWrite .cb 2 (tr 1)).wf = false := by decide
theorem test_wf_core : (Instr.mxEntryPerform 160).wf = false ∧ (Instr.drainComplete 416 0).wf = false
    ∧ (Instr.drainComplete 0 4).wf = false := by decide
theorem test_wf_counts : (Instr.readyQueueAging 20).wf = false ∧ (Instr.pointFire ⟨4, 0, 0⟩).wf = false
    ∧ (Instr.pointFire ⟨0, 16, 0⟩).wf = false ∧ (Instr.streamMap 17 0).wf = false ∧ (Instr.streamMap 0 64).wf = false
    ∧ (Instr.pairingWindowExpire 14).wf = false ∧ (Instr.linkReplay 18).wf = false ∧ (Instr.pageOwnerWrite 8388608 0).wf = false
    ∧ (Instr.thermalThrottle 14).wf = false ∧ (Instr.railCurrentLimit 14).wf = false ∧ (Instr.flrComplete 16).wf = false
    ∧ (Instr.smcPowerCap 1399).wf = false ∧ (Instr.smcPowerCap 2801).wf = false := by decide
theorem test_wf_payload : (Instr.loadArrive longReq).wf = false := by decide +kernel

/-! ### Decoding: words written out from R264 to R270

Bit 30 is GN, bits [29:27] GR, [26:25] M, [24:20] UNIT, [19:12] OP, [11:10] SK, [9:0] SV, as R264 lays them out; the words are those that the
chapters print, or are put together from R264's fields and the codes of R270. -/

theorem test_decode_seq : decodeTableWord 32 0x00404BFC = some (.seqJmp (tr 0x3FC)) := by decide
theorem test_decode_guarded : decodeTableWord 32 0x30404BFE = some (.seqJmp ⟨⟨false, 6⟩, .imm 0x3FE⟩) := by decide
theorem test_decode_move : decodeTableWord 32 0x00005003 = some (.registerFileWrite (.s 5) ⟨always, .s 3⟩) := by decide
theorem test_decode_port : decodeTableWord 32 0x00700801 = some (.operandPortWrite .agu 0 (tr 1)) := by decide
theorem test_decode_alu : decodeTableWord 32 0x00615802 = some (.aluSel .alu1 (tr 2)) := by decide
theorem test_decode_agu : decodeTableWord 32 0x00707009 = some (.aguArena ⟨always, .s 9⟩) := by decide
theorem test_decode_lsu : decodeTableWord 32 0x04807004 = some (.lsuLdd true ⟨always, .s 4⟩) := by decide
theorem test_decode_scope : decodeTableWord 32 0x10824019 = some (.lsuStrel .dom ⟨⟨false, 2⟩, .s 25⟩) := by decide
theorem test_decode_vu : decodeTableWord 32 0x02904104 = some (.vuAdd .w512 ⟨always, .v 4⟩) := by decide
theorem test_decode_join : decodeTableWord 32 0x00950510 = some (.vuRsum .w1024 ⟨always, .byp .lsu true 0⟩) := by decide
theorem test_decode_mu : decodeTableWord 32 0x00A07201 = some (.muMadd ⟨always, .m 1⟩) := by decide
theorem test_decode_mx : decodeTableWord 32 0x00B0400C = some (.mxMma ⟨always, .s 12⟩) := by decide
theorem test_decode_att : decodeTableWord 32 0x00C04C0D = some (.attQmc ⟨always, .special (.arg 0)⟩) := by decide
theorem test_decode_ce : decodeTableWord 32 0x00D04002 = some (.ceCpy ⟨always, .s 2⟩) := by decide
theorem test_decode_cb : decodeTableWord 32 0x00E04348 = some (.cbWaitf ⟨always, .small (.cb 8)⟩) := by decide
theorem test_decode_qu : decodeTableWord 32 0x00F1101B = some (.quBarx ⟨always, .s 27⟩) := by decide
theorem test_decode_sys : decodeTableWord 32 0x01004801 = some (.sysCsrr (tr 1)) := by decide
/-- Codes that name no trigger, and units that are not there, are refused (R181, R270). -/
theorem test_decode_refused : decodeTableWord 32 0x00427000 = none ∧ decodeTableWord 32 0x01100000 = none
    ∧ decodeTableWord 32 0x01F04000 = none := by decide
/-- The empty slot is no instruction (R258). -/
theorem test_decode_empty : decodeTableWord 32 0x40000000 = none := by decide

/-! ### Single steps: integer and address units (R293 to R295) -/

/-- The next state of an outcome, and a state of core 0 alone. -/
def after (o : Host.Outcome State Fault Refusal) : State := match o with | .next s => s | _ => {}
def st (c : Core) : State := { cores := [(0, c)] }
/-- A transport of s1. -/
def t1 : Tr := ⟨always, .s 1⟩
/-- Context 0 of core 0 with s1 = a and operand ports o1 = b, o0 = c of a unit. -/
def abc (u : FUnit) (a b c : Word) : State :=
  st { cx0 := { s := [(1, a)], g := [(2, true)], ports := [(u.id * 4, wordVal c), (u.id * 4 + 1, wordVal b)] } }
/-- The results that an instruction has put in flight in context 0: bypass register, cycles, value. -/
def flown (s : State) : List (Option Nat × Nat × Nat) := (s.cx 0 0).flights.map fun f => (f.byp, f.remain, f.val.toNat)
def alu (i : Instr) (a b c : Word) : List (Option Nat × Nat × Nat) := flown (after (exec i (abc .alu0 a b c)))

/-- Carry out of the sum, borrow of the difference, clamped sums (R293). -/
theorem test_add : alu (.aluAdd .alu0 t1) 0xFFFFFFFFFFFFFFFF 1 0 = [(some 0, 1, 0), (some 1, 1, 1)] := by decide +kernel
theorem test_sub : alu (.aluSub .alu0 t1) 3 5 0 = [(some 0, 1, 0xFFFFFFFFFFFFFFFE), (some 1, 1, 1)] := by decide +kernel
theorem test_addsat : alu (.aluAddsat .alu0 t1) 0x7FFFFFFFFFFFFFFF 1 0 = [(some 0, 1, 0x7FFFFFFFFFFFFFFF), (some 1, 1, 1)] := by
  decide +kernel
theorem test_subsat : alu (.aluSubsat .alu0 t1) 0x8000000000000000 1 0 = [(some 0, 1, 0x8000000000000000), (some 1, 1, 1)] := by
  decide +kernel
/-- Multiplies take three cycles; mulh is of signed, mulhu of unsigned operands (R293). -/
theorem test_multiply : alu (.aluMul .alu0 t1) 0x100000001 0x100000001 0 = [(some 0, 3, 0x200000001)]
    ∧ alu (.aluMulh .alu0 t1) 0xFFFFFFFFFFFFFFFF 2 0 = [(some 0, 3, 0xFFFFFFFFFFFFFFFF)]
    ∧ alu (.aluMulhu .alu0 t1) 0xFFFFFFFFFFFFFFFF 2 0 = [(some 0, 3, 1)] := by decide +kernel
theorem test_logic : alu (.aluAnd .alu0 t1) 12 10 0 = [(some 0, 1, 8)] ∧ alu (.aluOr .alu0 t1) 12 10 0 = [(some 0, 1, 14)]
    ∧ alu (.aluXor .alu0 t1) 12 10 0 = [(some 0, 1, 6)] ∧ alu (.aluAndn .alu0 t1) 12 10 0 = [(some 0, 1, 4)] := by decide +kernel
/-- A shift count is b[5:0]: 65 shifts by 1. -/
theorem test_shifts : alu (.aluShl .alu0 t1) 0x8000000000000001 65 0 = [(some 0, 1, 2)]
    ∧ alu (.aluShr .alu0 t1) 0x8000000000000000 63 0 = [(some 0, 1, 1)]
    ∧ alu (.aluSar .alu0 t1) 0x8000000000000000 63 0 = [(some 0, 1, 0xFFFFFFFFFFFFFFFF)]
    ∧ alu (.aluRol .alu0 t1) 0x8000000000000001 1 0 = [(some 0, 1, 3)] := by decide +kernel
theorem test_minmax : alu (.aluMin .alu0 t1) 0xFFFFFFFFFFFFFFFF 1 0 = [(some 0, 1, 0xFFFFFFFFFFFFFFFF)]
    ∧ alu (.aluMax .alu0 t1) 0xFFFFFFFFFFFFFFFF 1 0 = [(some 0, 1, 1)]
    ∧ alu (.aluMinu .alu0 t1) 0xFFFFFFFFFFFFFFFF 1 0 = [(some 0, 1, 1)]
    ∧ alu (.aluMaxu .alu0 t1) 0xFFFFFFFFFFFFFFFF 1 0 = [(some 0, 1, 0xFFFFFFFFFFFFFFFF)] := by decide +kernel
/-- sel reads g(c[2:0]) xor c[3]; g2 is 1. -/
theorem test_sel : alu (.aluSel .alu0 t1) 7 9 2 = [(some 0, 1, 7)] ∧ alu (.aluSel .alu0 t1) 7 9 10 = [(some 0, 1, 9)] := by decide +kernel
/-- The bit-field values that R294 prints: pos 4, len 8. -/
theorem test_bitfields : alu (.aluBfx .alu0 t1) 0xF0 0x804 0 = [(some 0, 1, 0x0F)]
    ∧ alu (.aluBfxs .alu0 t1) 0xF00 0x804 0 = [(some 0, 1, 0xFFFFFFFFFFFFFFF0)]
    ∧ alu (.aluBfi .alu0 t1) 0xAB 0x804 0xFFFF = [(some 0, 1, 0xFABF)] := by decide +kernel
theorem test_counts : alu (.aluClz .alu0 t1) 0 0 0 = [(some 0, 1, 64)] ∧ alu (.aluCtz .alu0 t1) 0x100 0 0 = [(some 0, 1, 8)]
    ∧ alu (.aluPopc .alu0 t1) 0xFF0F 0 0 = [(some 0, 1, 12)] := by decide +kernel
/-- The constant that R293 builds: s20 := 0x0123_4567_89AB_CDEF. -/
theorem test_limm : alu (.aluLimm .alu0 t1) 0x01234567 0x89ABCDEF 0 = [(some 0, 1, 0x0123456789ABCDEF)] := by decide +kernel
theorem test_compares : alu (.aluCeq .alu0 t1) 5 5 0 = [(some 0, 1, 1)] ∧ alu (.aluCne .alu0 t1) 5 5 0 = [(some 0, 1, 0)]
    ∧ alu (.aluClt .alu0 t1) 0xFFFFFFFFFFFFFFFF 0 0 = [(some 0, 1, 1)] ∧ alu (.aluCle .alu0 t1) 0 0 0 = [(some 0, 1, 1)]
    ∧ alu (.aluCltu .alu0 t1) 0xFFFFFFFFFFFFFFFF 0 0 = [(some 0, 1, 0)] ∧ alu (.aluCleu .alu0 t1) 1 0 0 = [(some 0, 1, 0)]
    ∧ alu (.aluCbit .alu0 t1) 0x10 68 0 = [(some 0, 1, 1)] := by decide +kernel

/-- The key-value arena of R295's example: generator 1, s9 = 70, slot 3. -/
def arenaState : State :=
  st { cx0 := { s := [(1, 70)], a := [(4, 0x20000000000), (5, 1024), (6, 0x1000000), (7, 0x8000000)], ports := [(28, 1), (29, 3)] } }
theorem test_arena : flown (after (exec (.aguArena t1) arenaState)) = [(some 0, 1, 0x20003011800), (some 1, 1, 1)] := by decide +kernel
theorem test_lin : flown (after (exec (.aguLin t1) arenaState)) = [(some 0, 1, 0x20000000000 + 70 * 1024), (some 1, 1, 1)] := by decide +kernel
theorem test_tile : flown (after (exec (.aguTile t1) arenaState)) = [(some 0, 1, 0x20000000000 + 70 * 1024 + 3), (some 1, 1, 1)] := by
  decide +kernel
theorem test_chk : flown (after (exec (.aguChk t1) arenaState)) = [(some 0, 1, 0), (some 1, 1, 2 ^ 64 - 0x20000000000 + 70)] := by
  decide +kernel
/-- step moves a4, ranking as a lend of code 0xB4 (R271). -/
theorem test_step : ((after (exec (.aguStep t1) arenaState)).cx 0 0).flights.map (fun f => (f.byp, f.lend, f.val.toNat))
    = [(some 0, 0xFF, 0x20000000046), (none, 0xB4, 0x20000000046)] := by decide +kernel
theorem test_set : ((after (exec (.aguSet t1) arenaState)).cx 0 0).flights.map (fun f => (f.lend, f.val.toNat))
    = [(0xFF, 70), (0xB4, 70), (0xB5, 3), (0xB6, 0), (0xB7, 0)] := by decide +kernel

/-! ### Single steps: vectors and moments (R301 to R328) -/

/-- Context 0 of core 0 with v1 = a and VU ports o1 = b, o0 = c, o2 = ctl. -/
def vabc (a b c ctl : Nat) : State :=
  st { cx0 := {}, v := [(1, BitVec.ofNat 1024 a)], ports := [(36, natVal c), (37, natVal b), (38, natVal ctl)] }
def tv : Tr := ⟨always, .v 1⟩
def inFlight (s : State) : List (Nat × Nat) :=
  ((s.cx 0 0).flights).map fun f => (f.remain, f.val.toNat)
def vu (i : Instr) (a b c ctl : Nat) : List (Nat × Nat) := inFlight (after (exec i (vabc a b c ctl)))
/-- The list of elements as a vector. -/
def vec (z : Nat) (l : List Nat) : Nat := l.foldr (fun x acc => x + acc * 2 ^ z) 0

/-- mulb of 0x3F81 by itself is 0x3F82, with one rounding (R301). -/
theorem test_mulb : vu (.vuMulb .w256 tv) 0x3F81 0x3F81 0 0 = [(3, 0x3F82)] := by decide +kernel
/-- 1 + 2^-24 rounds to even; fma rounds once. -/
theorem test_add_fp32 : vu (.vuAdd .w256 tv) 0x3F800000 0x33800000 0 0 = [(3, 0x3F800000)]
    ∧ vu (.vuSub .w256 tv) 0x3F800000 0x3F800000 0 0 = [(3, 0)]
    ∧ vu (.vuFma .w256 tv) 0x3F800001 0x3F800001 0xBF800002 0 = [(4, 0x28800000)] := by decide +kernel
/-- The tree of R311's example: 2^24 and three ones sum to 0x4B80_0001. -/
theorem test_rsum : vu (.vuRsum .w256 tv) (vec 32 [0x4B800000, 0x3F800000, 0x3F800000, 0x3F800000]) 0 0 0 = [(10, 0x4B800001)] := by
  decide +kernel
/-- rmax of {-0, +0} is +0 (R311). -/
theorem test_rmax : vu (.vuRmax .w256 tv) (vec 32 (0 :: List.replicate 7 0x80000000)) 0 0 0 = [(5, 0)] := by decide +kernel
theorem test_rcp : vu (.vuRcp .w256 tv) 0x40000000 0 0 0 = [(10, vec 32 (0x3F000000 :: List.replicate 7 0x7F800000))] := by decide +kernel
theorem test_exp2 : vu (.vuExp2 .w256 tv) (vec 32 (List.replicate 8 0x3F800000)) 0 0 0 = [(8, vec 32 (List.replicate 8 0x40000000))] := by
  decide +kernel
/-- A block scale of 2^1, and the scale NaN (R306). -/
theorem test_bscl : vu (.vuBscl .w256 tv) 0x3F800000 128 0 0 = [(3, 0x40000000)]
    ∧ vu (.vuBscl .w256 tv) 0 255 0 0 = [(3, vec 32 (List.replicate 8 0x7FC00000))] := by decide +kernel
/-- 8-bit elements wrap (R307); a compare names 32-bit elements below 64 (R308). -/
theorem test_iadd : vu (.vuIadd .w256 tv) 0xFF 0x01 0 2 = [(3, 0)] ∧ vu (.vuIaddsat .w256 tv) 0x7F 0x01 0 2 = [(3, 0x7F)] := by
  decide +kernel
theorem test_icmplt : vu (.vuIcmplt .w256 tv) 0xFFFFFFFF 0 0 0 = [(3, 1)] := by decide +kernel
/-- A NaN compares false and unordered (R308). -/
theorem test_fcmp : vu (.vuFcmpeq .w256 tv) 0x7FC00000 0x7FC00000 0 0 = [(3, 0xFE)]
    ∧ vu (.vuFcmpun .w256 tv) 0x7FC00000 0 0 0 = [(3, 1)] := by decide +kernel
theorem test_kpop : vu (.vuKpop .w256 tv) 0xFF01 0 0 0 = [(3, 9)] := by decide +kernel
theorem test_lrot : vu (.vuLrot .w256 tv) (vec 32 [1, 2, 3, 4, 5, 6, 7, 8]) 1 0 0 = [(4, vec 32 [8, 1, 2, 3, 4, 5, 6, 7])] := by
  decide +kernel
theorem test_shuf : vu (.vuShuf .w256 tv) (vec 32 [1, 2, 3, 4, 5, 6, 7, 8]) (vec 32 [11, 12, 13, 14, 15, 16, 17, 18]) 0 4
    = [(4, vec 32 [5, 15, 6, 16, 7, 17, 8, 18])] := by decide +kernel

/-- Context 0 of core 0 with m1 = a and MU ports o1 = b, o0 = c, o3 = mode. -/
def mabc (a b c mode : Nat) : State := st { m := [(1, natVal a)], ports := [(40, natVal c), (41, natVal b), (43, natVal mode)] }
def tm : Tr := ⟨always, .m 1⟩
def mu (i : Instr) (a b c mode : Nat) : List (Nat × Nat) := inFlight (after (exec i (mabc a b c mode)))
/-- A pair of mean and variance in lane 0. -/
def pair (m v : Nat) : Nat := m + v * 2 ^ 32
/-- (1, 1) + (1, 1) is (2, 2) under MODE 0, and (2, 4) under MODE 1 (R323). -/
theorem test_madd : mu (.muMadd tm) (pair 0x3F800000 0x3F800000) (pair 0x3F800000 0x3F800000) 0 0 = [(10, pair 0x40000000 0x40000000)]
    ∧ mu (.muMadd tm) (pair 0x3F800000 0x3F800000) (pair 0x3F800000 0x3F800000) 0 1 = [(10, pair 0x40000000 0x40800000)] := by
  decide +kernel
/-- 2 * (1, 1) + 3 is (5, 4) (R325). -/
theorem test_mscale : mu (.muMscale tm) (pair 0x3F800000 0x3F800000) 0x40000000 0x40400000 0 = [(5, pair 0x40A00000 0x40800000)] := by
  decide +kernel
/-- A negative variance raises NEGVAR with its lane (R319). -/
theorem test_negvar : (after (exec (.muMscale tm) (mabc (pair 0 0xBF800000) 0 0 0))).bnd.trap = some { cause := 7, d := [1, 0] } := by
  decide +kernel
theorem test_ldp_stp : mu (.muLdp tm) 0x3F800000 0x40000000 0 0 = [(4, pair 0x3F800000 0x40000000)]
    ∧ mu (.muStp tm) (pair 5 6) 0 0 0 = [(4, 5), (4, 6)] := by decide +kernel

/-! ### Witnesses

Each theorem gives states and operands that meet all the hypotheses of a statement (or of each clause of one) together. -/

/-- An immediate 0 is read as 0 in a state with no bundle at hand, whatever the state. -/
theorem reads0 (s : State) (seq whole : Bool) (h : s.bnd = {}) : Reads s (tr 0) seq whole 0 s := by
  refine ⟨rfl, fun _ => by rw [h], ?_⟩
  have e : wordVal (immValue s.bnd.words s.bnd.slot 0) = 0 := by rw [h]; decide +kernel
  exact congrArg (SrcRes.ok · s) e
/-- s1 is read as it stands. -/
theorem reads1 (s : State) (seq whole : Bool) (h : s.bnd = {}) : Reads s t1 seq whole (wordVal (s.me.getS 1)) s :=
  ⟨rfl, fun _ => by rw [h], rfl⟩

/-- m1 of core 0 is read whole. -/
theorem readsM (s : State) (h : s.bnd = {}) : Reads s tm false true (s.myCore.getM 1) s := by
  refine ⟨rfl, fun e => (by cases e), ?_⟩
  show SrcRes.ok (selM (selCode s.bnd.words s.bnd.slot) (s.myCore.getM 1)) s = _
  rw [h]; rfl

theorem witness_DecodeEncode : ∃ i : Instr, i.wf = true ∧ transportOf i ≠ none := ⟨.quBarx ⟨⟨true, 7⟩, .s 27⟩, by decide, by decide⟩
theorem witness_WordsHaveOneMeaning : (∃ i, decodeSlot 0x00F1101B = .ok i)
    ∧ (0x11 ≤ slotUnit 0x01100000 ∧ slotTop 0x01100000 = false ∧ slotEmpty 0x01100000 = false)
    ∧ (0x11 ≤ slotUnit 0x01F00000 ∧ slotTop 0x01F00000 = false ∧ slotEmpty 0x01F00000 = false) := ⟨⟨_, rfl⟩, by decide, by decide⟩
theorem witness_GuardsDecide : (transportOf (.aluAdd .alu0 ⟨⟨false, 1⟩, .imm 0⟩) = some (⟨⟨false, 1⟩, .imm 0⟩, false) ∧ State.reset.guard ⟨false, 1⟩ = false)
    ∧ (transportOf (.seqJmp (tr 0)) = some (tr 0, true) ∧ ({ bnd := { repSeq := false } } : State).bnd.repSeq = false) := by decide +kernel
theorem witness_MovesComplete : Reads State.reset (tr 0) false true 0 State.reset ∧ Reads State.reset (tr 0) true false 0 State.reset :=
  ⟨reads0 _ _ _ rfl, reads0 _ _ _ rfl⟩
/-- One result with one cycle left, and one with two. -/
def flying (n : Nat) : State := st { cx0 := { flights := [{ unit := 5, byp := some 1, val := 7, remain := n }] } }
theorem witness_ResultLands : ∀ n, n = 1 ∨ n = 2 → ∃ f, ((flying n).cx 0 0).flights = [f] ∧ f.byp = some 1 ∧ f.lend = 0xFF ∧ f.late = false
    ∧ f.fault = none ∧ f.remain = n := fun _ _ => ⟨_, rfl, rfl, rfl, rfl, rfl, rfl⟩
theorem witness_IntegerUnits : (∃ u t l f, aluOne (.aluMulh .alu1 (tr 0)) = some (u, t, l, f) ∧ Reads State.reset t false false 0 State.reset)
    ∧ (∃ u t f, aluField (.aluBfxs .alu1 (tr 0)) = some (u, t, f) ∧ Reads State.reset t false false 0 State.reset)
    ∧ (∃ u t f g, aluTwo (.aluSubsat .alu1 (tr 0)) = some (u, t, f, g) ∧ Reads State.reset t false false 0 State.reset)
    ∧ (∃ t f, aguSum (.aguTile (tr 0)) = some (t, f) ∧ Reads State.reset t false false 0 State.reset) :=
  ⟨⟨_, _, _, _, rfl, reads0 _ _ _ rfl⟩, ⟨_, _, _, rfl, reads0 _ _ _ rfl⟩, ⟨_, _, _, _, rfl, reads0 _ _ _ rfl⟩, ⟨_, _, rfl, reads0 _ _ _ rfl⟩⟩
theorem witness_VuFloatElements : (∃ w t l f op, vuFloatRow (.vuFmah .w256 (tr 0)) = some (w, t, l, f, op) ∧ Reads State.reset t false false 0 State.reset)
    ∧ (∃ w t l f, vuFunRow (.vuTanh .w1024 (tr 0)) = some (w, t, l, f) ∧ Reads State.reset t false false 0 State.reset)
    ∧ Reads State.reset (tr 0) false false 0 State.reset :=
  ⟨⟨_, _, _, _, _, rfl, reads0 _ _ _ rfl⟩, ⟨_, _, _, _, rfl, reads0 _ _ _ rfl⟩, reads0 _ _ _ rfl⟩
theorem witness_VuIntegerAndMasks : (∃ w t l f, vuElemRow (.vuLrot .w256 (tr 0)) = some (w, t, l, f) ∧ Reads State.reset t false false 0 State.reset)
    ∧ (∃ w t b p, vuCmpRow (.vuIcmplt .w1024 (tr 0)) = some (w, t, b, p) ∧ Reads State.reset t false false 0 State.reset)
    ∧ (∃ w t l f, vuWholeRow (.vuIrsum .w512 (tr 0)) = some (w, t, l, f) ∧ Reads State.reset t false false 0 State.reset) :=
  ⟨⟨_, _, _, _, rfl, reads0 _ _ _ rfl⟩, ⟨_, _, _, _, rfl, reads0 _ _ _ rfl⟩, ⟨_, _, _, _, rfl, reads0 _ _ _ rfl⟩⟩
theorem witness_VuRandomDraws : Reads State.reset (tr 0) false false 0 State.reset := reads0 _ _ _ rfl
theorem noNegVar_zero : noNegVar 0 := by
  intro j _
  have : varOf 0 j = 0 := by simp [varOf, elem]
  rw [this]; decide
theorem noNegVar_val : noNegVar (0 : Val).toNat := by
  have : (0 : Val).toNat = 0 := by decide +kernel
  rw [this]; exact noNegVar_zero
theorem noNegVar_port : noNegVar (State.reset.opPort .mu 1).toNat := by
  have : State.reset.opPort .mu 1 = 0 := by decide +kernel
  rw [this]; exact noNegVar_val
theorem witness_MuLanes : (∃ t l f, muPairRow (.muMgelu (tr 0)) = some (t, l, f) ∧ Reads State.reset t false true 0 State.reset ∧ noNegVar (0 : Val).toNat)
    ∧ (∃ t f, muLaneRow (.muMpack (tr 0)) = some (t, f) ∧ Reads State.reset t false true 0 State.reset ∧ noNegVar (0 : Val).toNat)
    ∧ (Reads State.reset (tr 0) false true 0 State.reset ∧ (∀ j, j < 32 → negVar (mvVar (elem 32 (0 : Val).toNat j)) = false)
      ∧ ∀ j, j < 32 → negVar (elem 32 (State.reset.opPort .mu 1).toNat j) = false) :=
  ⟨⟨_, _, _, rfl, reads0 _ _ _ rfl, noNegVar_val⟩, ⟨_, _, rfl, reads0 _ _ _ rfl, noNegVar_val⟩, reads0 _ _ _ rfl, by decide +kernel, by decide +kernel⟩
def badLane : Val := BitVec.ofNat 2048 0xBF800000 <<< 2016
/-- A state whose m1 has a variance of -1 in lane 31. -/
def negative : State := st { m := [(1, badLane)] }
theorem witness_MuBinary : (∃ t l f, muBothRow (.muMmul (tr 0)) = some (t, l, f) ∧ Reads State.reset t false true 0 State.reset
      ∧ noNegVar (0 : Val).toNat ∧ noNegVar (State.reset.opPort .mu 1).toNat)
    ∧ (∃ t seq, transportOf (.muMexp tm) = some (t, seq) ∧ Reads negative t false true (negative.myCore.getM 1) negative
      ∧ ((muChecked negative (negative.myCore.getM 1) (.muMexp tm)).find? fun c => (List.range 32).any fun j => negVar (c.2 j)).map (·.1) = some 0)
    ∧ ((muChecked negative 0 (.muLdp tm)).find? fun c => (List.range 32).any fun j => negVar (c.2 j)).map (·.1) = none :=
  ⟨⟨_, _, _, rfl, reads0 _ _ _ rfl, noNegVar_val, noNegVar_port⟩, ⟨_, _, rfl, readsM _ rfl, by decide +kernel⟩, by decide +kernel⟩

def isIssue (a : Option Act) : Option (Nat × Nat) := match a with | some (.issue k i) => some (k, i) | _ => none
def isInput (a : Option Act) : Option Instr := match a with | some (.input i) => some i | _ => none
def isEvent (a : Option Act) : Bool := match a with | some (.event _) => true | _ => false
theorem issue_of {a : Option Act} {x : Nat × Nat} (h : isIssue a = some x) : a = some (.issue x.1 x.2) := by
  unfold isIssue at h
  split at h
  · cases h; rfl
  · cases h
theorem input_of {a : Option Act} {x : Instr} (h : isInput a = some x) : a = some (.input x) := by
  unfold isInput at h
  split at h
  · cases h; rfl
  · cases h
theorem event_of {a : Option Act} (h : isEvent a = true) : ∃ f, a = some (.event f) := by
  unfold isEvent at h
  split at h
  · exact ⟨_, rfl⟩
  · cases h
def wordsOf (f : FetchRes) : Option (List Slot32) := match f with | .words ws => some ws | _ => none
theorem words_of {f : FetchRes} {ws : List Slot32} (h : wordsOf f = some ws) : f = .words ws := by
  unfold wordsOf at h
  split at h
  · cases h; rfl
  · cases h

/-- The machine with one bundle to issue: the word of an instruction in slot 0, the other slots empty. -/
def placed (w : Nat) : State := State.reset.withFetchWord 128 (w + 0x40000000 * 2 ^ 32 + 0x40000000 * 2 ^ 64 + 0x40000000 * 2 ^ 96)
def onlySlot0 (w : Slot32) : List Slot32 := [w, 0x40000000, 0x40000000, 0x40000000]
/-- What a bundle that issues alone in its group and draws no random vector meets, as one check. -/
def issuesHere (s : State) (k i : Nat) (ws : List Slot32) : Bool :=
  let a := atIssue s k i
  let b := before s k i ws
  isIssue s.pick == some (k, i) && wordsOf a.fetch == some ws && !a.me.raiseNow && !a.me.skip && decide (a.me.acted = none ∧ a.me.repLeft = 0)
    && decide (a.breakpoint ws = none ∧ a.decodeTrap ws none = none) && !allEmpty ws && decide ((b.gangCores b.cur).length ≤ 1)
    && decide (b.popsBelow ws 4 = 0)
theorem issues_of {s : State} {k i : Nat} {ws : List Slot32} (h : issuesHere s k i ws = true) : Issues s k i ws := by
  simp only [issuesHere, Bool.and_eq_true, beq_iff_eq, Bool.not_eq_true', decide_eq_true_eq] at h
  obtain ⟨⟨⟨⟨⟨⟨⟨⟨hp, hf⟩, hr⟩, hs⟩, ha, hl⟩, hb, hd⟩, he⟩, hg⟩, hn⟩ := h
  exact ⟨issue_of hp, hr, words_of hf, hs, ha, hl, hb, hd, he, .inr (.inl hg), .inl hn, by rw [hn]; exact Nat.zero_le _⟩

/-- The machine about to issue `lsu.j0 -> s5`, with the result that it joins still out. -/
def joining : State := { (placed 0x00005510).updCx 0 0 fun c => { c with joins := [(32, [{ id := 1 }])] } with nextId := 2 }
/-- What a step needs that the only slot of a bundle decodes. -/
def onlySlot (ws : List Slot32) (ins : Instr) : Prop := slotOrder ws = [0] ∧ decodeSlot (slotAt ws 0) = .ok ins
/-- 1 -> alu0.add issues alone from its bundle, and goes on; sys.trap raises SWT; a join of a result that is out waits. -/
theorem witness_StepRunsDecodedSlot :
    (Issues (placed 0x00504801) 0 0 (onlySlot0 0x00504801) ∧ onlySlot (onlySlot0 0x00504801) (.aluAdd .alu0 (tr 1))
      ∧ (let b := before (placed 0x00504801) 0 0 (onlySlot0 0x00504801)
         let x := after (exec (.aluAdd .alu0 (tr 1)) (ready (placed 0x00504801) 0 0 (onlySlot0 0x00504801) 0))
         x.bnd.trap = none ∧ x.bnd.pause = .none ∧ x.bnd.waits.all (·.1) = true ∧ b.me.raise = []
         ∧ b.groupStopped b.cur = false ∧ b.overfull (acted (placed 0x00504801) 0 0 (onlySlot0 0x00504801) 0 x) = false
         ∧ SMap.find x.segs b.cur = none ∧ (x.part (x.ptagOf x.cur)).prot = false))
    ∧ (Issues (placed 0x01008801) 0 0 (onlySlot0 0x01008801) ∧ onlySlot (onlySlot0 0x01008801) (.sysTrap (tr 1))
      ∧ (after (exec (.sysTrap (tr 1)) (ready (placed 0x01008801) 0 0 (onlySlot0 0x01008801) 0))).bnd.trap.isSome = true)
    ∧ (Issues joining 0 0 (onlySlot0 0x00005510) ∧ onlySlot (onlySlot0 0x00005510) (.registerFileWrite (.s 5) ⟨always, .byp .lsu true 0⟩)
      ∧ (let b := before joining 0 0 (onlySlot0 0x00005510)
         let x := after (exec (.registerFileWrite (.s 5) ⟨always, .byp .lsu true 0⟩) (ready joining 0 0 (onlySlot0 0x00005510) 0))
         x.bnd.trap = none ∧ x.bnd.pause ≠ .none ∧ b.stillWaits b.cur b.curCx x.bnd.pause = true)) := by
  refine ⟨⟨issues_of ?_, ⟨?_, rfl⟩, ?_⟩, ⟨issues_of ?_, ⟨?_, rfl⟩, ?_⟩, issues_of ?_, ⟨?_, rfl⟩, ?_⟩ <;> decide +kernel

def aLoad : Txn := Txn.withCrc { ty := 1, src := ⟨0, 0, 1⟩, dst := ⟨0, 0, 0⟩, subop := 3, addr := 64 }
theorem witness_StepRunsEvents : State.reset.pick = none
    ∧ (∃ s : State, s.pick = some (.input .frameTick) ∧ s.pkg.trip = false ∧ arrivalOf .frameTick = none)
    ∧ (∃ s : State, s.pick = some (.input (.loadArrive aLoad)) ∧ s.pkg.trip = false ∧ arrivalOf (.loadArrive aLoad) = some aLoad
        ∧ ({ s with free := s.free + 1, inbox := s.inbox.tail } : State).stays s.wire aLoad = false
        ∧ ({ s with free := s.free + 1, inbox := s.inbox.tail } : State).onCircuit aLoad = false ∧ aLoad.ty ≠ tyPush ∧ aLoad.ty ≠ tyPop)
    ∧ (∃ (s : State) (l : List (Nat × Txn)), s.pick = some (.input (.loadArrive aLoad)) ∧ s.pkg.trip = false ∧ arrivalOf (.loadArrive aLoad) = some aLoad
        ∧ ({ s with free := s.free + 1, inbox := s.inbox.tail, wire := l } : State).stays l aLoad = true)
    ∧ (∃ s : State, s.pick = some (.input .frameTick) ∧ s.pkg.trip = true ∧ ofSmc .frameTick = false)
    ∧ (∃ s : State, s.pick = some (.input .smcReadLogs) ∧ s.pkg.trip = true ∧ ofSmc .smcReadLogs = true ∧ arrivalOf .smcReadLogs = none)
    ∧ ∃ (s : State) (f : Happening), s.pick = some (.event f) :=
  ⟨rfl, ⟨{ inbox := [.frameTick] }, rfl, rfl, rfl⟩, ⟨{ inbox := [.loadArrive aLoad] }, rfl, rfl, rfl, by decide +kernel⟩,
   ⟨{ inbox := [.loadArrive aLoad] }, [(0, { aLoad with addr := 128 })], rfl, rfl, rfl, by decide +kernel⟩,
   ⟨{ inbox := [.frameTick], pkg := { trip := true } }, rfl, rfl, rfl⟩, ⟨{ inbox := [.smcReadLogs], pkg := { trip := true } }, rfl, rfl, rfl, rfl⟩,
   ⟨st { cx0 := { run := .running, pause := .join 0 } }, event_of (by decide +kernel)⟩⟩

def looping (lc : BitVec 32) : Cx := { lc := [(2, lc)], loops := [(2, ⟨5, 0, 7, 0, true⟩)], pc := 7 }
theorem witness_NextBundle : (({} : Cx).repLeft ≤ 1 ∧ ({} : Cx).pend = none ∧ ∀ n, n < 4 → ¬ endsHere {} n)
    ∧ (∀ lc, lc = 0 ∨ lc = 1 → (looping lc).repLeft ≤ 1 ∧ (looping lc).pend = none ∧ endsHere (looping lc) 2 ∧ (∀ m, m < 2 → ¬ endsHere (looping lc) m)
        ∧ (looping lc).getLc (finOf 4 2) = lc)
    ∧ 1 < ({ repLeft := 2 } : Cx).repLeft := by
  refine ⟨⟨by decide, rfl, ?_⟩, ?_, by decide⟩
  · intro n _ h; exact absurd h.1 (by simp [Cx.loop, SMap.get])
  · rintro lc (rfl | rfl)
    all_goals
      refine ⟨by decide, rfl, ⟨rfl, rfl, rfl⟩, ?_, rfl⟩
      intro m hm h
      rcases m with _ | _ | m
      · exact absurd h.1 (by decide)
      · exact absurd h.1 (by decide)
      · omega
/-- The effect of a loop-back at the end of a body: the counter falls and the start follows (R282, R285 Table 2). -/
theorem test_loop_back : ((looping 1).sequence {}).pc = 5 ∧ ((looping 1).sequence {}).getLc 2 = 0
    ∧ ((looping 0).sequence {}).pc = 8 ∧ (((looping 0).sequence {}).loop 2).active = false := by decide
/-- A transfer acts after two delay bundles (R280). -/
theorem test_delay : ((({ pc := 10 } : Cx).sequence { xfer := some (100, 0) }).sequence {}).pc = 12
    ∧ (((({ pc := 10 } : Cx).sequence { xfer := some (100, 0) }).sequence {}).sequence {}).pc = 100 := by decide

theorem witness_SeqTransfersAndLoops : (∃ t f c, transferRow (.seqCallr (tr 0)) = some (t, f, c) ∧ Reads State.reset t true false 0 State.reset)
    ∧ (Reads State.reset (tr 0) true false 0 State.reset ∧ (State.reset.myCore.cx0.sysq.all fun e => e.op != 0x15) = true)
    ∧ (let s := abc .seq 1 0 0
       Reads s t1 true false (wordVal (s.me.getS 1)) s ∧ 0 < (valWord (wordVal (s.me.getS 1))).toNat % 2 ^ 32 ∧ s.me.upc = 0 ∧ s.me.repLeft = 0)
    ∧ (let s := (abc .seq 1 0 0).updMe fun c => { c with upc := 1, repLeft := 1 }
       Reads s t1 true false (wordVal (s.me.getS 1)) s ∧ 0 < (valWord (wordVal (s.me.getS 1))).toNat % 2 ^ 32 ∧ s.me.upc ≠ 0 ∧ 0 < s.me.repLeft)
    ∧ (∃ (c : Cx) (b : Bnd), b.mret = true ∧ b.loopW = [] ∧ ((c.sequence b).loop 1).active = true)
    ∧ (∃ (c : Cx) (j : Nat), j < 4 ∧ (c.loop j).active = true ∧ ∀ m, m < j → (c.loop m).active = false) :=
  ⟨⟨_, _, _, rfl, reads0 _ _ _ rfl⟩, ⟨reads0 _ _ _ rfl, by decide⟩, ⟨reads1 _ _ _ rfl, by decide +kernel⟩, ⟨reads1 _ _ _ rfl, by decide +kernel⟩,
   ⟨{ loops := [(1, ⟨5, 0, 7, 0, true⟩)] }, { mret := true }, rfl, rfl, by decide⟩,
   ⟨{ loops := [(3, ⟨5, 0, 7, 0, true⟩)] }, 3, by decide, by decide, by decide⟩⟩
/-- call leaves the PC of the bundle after its two delay bundles in b0 (R281). -/
theorem test_call : flown (after (exec (.seqCall t1) ((abc .seq 10 0 0).updMe fun c => { c with pc := 100 }))) = [(some 0, 1, 103)]
    ∧ (after (exec (.seqCall t1) ((abc .seq 10 0 0).updMe fun c => { c with pc := 100 }))).bnd.xfer = some (110, 0) := by decide +kernel

theorem witness_SeqContextTriggers : (Reads State.reset (tr 0) true false 0 State.reset ∧ State.reset.curCx = 0 ∧ State.reset.cur < 160
      ∧ (State.reset.gangCores State.reset.cur).length ≤ 1 ∧ State.reset.me.noBrk = false)
    ∧ (let s := { st { cx1 := { noBrk := true } } with curCx := 1 }
       Reads s (tr 0) true false 0 s ∧ s.curCx ≠ 0 ∧ s.me.noBrk = true) :=
  ⟨⟨reads0 _ _ _ rfl, by decide +kernel⟩, reads0 _ _ _ rfl, by decide +kernel⟩

def gotten {ε α : Type} (e : Except ε α) : Option α := match e with | .ok l => some l | .error _ => none
theorem ok_of {ε α : Type} {e : Except ε α} {l : α} (h : gotten e = some l) : e = .ok l := by
  cases e with
  | ok x => cases h; rfl
  | error x => cases h

/-- Context 0 of core 0 with s1 = a, LSU ports o0 to o3, and one page of HBM at 2^25 under a pinned translation, writable or not, cached or not. -/
def lsu (a b c d e : Word) (leaf : Nat := 0x2000F) : State :=
  { st { cx0 := { s := [(1, a)], ports := [(32, wordVal c), (33, wordVal b), (34, wordVal d), (35, wordVal e)] } } with
    clusters := [(0, { tlb := [⟨0, 2 ^ 25, 65536, leaf, true⟩] })], owner := [(2, 0x10)] }
def lastWord : Word := 786424
theorem free_lsu (a b c d e : Word) (leaf : Nat) : Free (lsu a b c d e leaf) := ⟨rfl, rfl⟩

/-- The last eight bytes of the own scratchpad, by plain, queued and acquire loads, and the last doubleword of a cached and of an uncached page. -/
theorem witness_Loads :
    (∃ t n al sg, loadRow (.lsuLdd false t1) = some (false, t, n, al, sg)
      ∧ (let s := lsu lastWord 0 0 0 3
         Reads s t false false (wordVal (s.me.getS 1)) s ∧ Own s lastWord.toNat n ∧ lastWord.toNat % al = 0 ∧ Free s
         ∧ s.writePending (spKey (s.logical s.cur) lastWord.toNat) n = false ∧ poisoned (s.core (s.logical s.cur)).spPoison lastWord.toNat n = false))
    ∧ (∃ t n al sg, loadRow (.lsuLdv true (tr 16)) = some (true, t, n, al, sg) ∧ Own (lsu 0 0 0 0 0) 786304 n ∧ 786304 % al = 0)
    ∧ (∃ t n al sg, loadRow (.lsuLdd true t1) = some (true, t, n, al, sg)
      ∧ (lsu (2 ^ 25 + 65528) 0 0 0 0).reach (2 ^ 25 + 65528) n al accLoad = .ok [(.hbm 0x2FFF8 0, n)]
      ∧ (lsu (2 ^ 25 + 65528) 0 0 0 0 0x2004F).reach (2 ^ 25 + 65528) n al accLoad = .ok [(.hbm 0x2FFF8 1, n)]) :=
  ⟨⟨_, _, _, _, rfl, reads1 _ _ _ rfl, by unfold Own; decide +kernel, by decide +kernel, ⟨rfl, rfl⟩, by decide +kernel, by decide +kernel⟩,
   ⟨_, _, _, _, rfl, by unfold Own; decide +kernel, by decide +kernel⟩,
   ⟨_, _, _, _, rfl, ok_of (by decide +kernel), ok_of (by decide +kernel)⟩⟩
/-- A sign-extended byte and a word, little-endian (R355). -/
theorem test_loads : flown (after (exec (.lsuLdbs false t1) ({ lsu 5 0 0 0 2 with cores := [(0, { (lsu 5 0 0 0 2).core 0 with sp := [(5, 0x80)] })] })))
      = [(some 2, 4, 0xFFFFFFFFFFFFFF80)]
    ∧ flown (after (exec (.lsuLdw false t1) ({ lsu 4 0 0 0 2 with cores := [(0, { (lsu 4 0 0 0 2).core 0 with sp := [(5, 0x80), (7, 1)] })] })))
      = [(some 2, 4, 0x01008000)] := by decide +kernel

theorem witness_Stores :
    (∃ t n al nt, storeRow (.lsuStd t1) = some (t, n, al, nt)
      ∧ (let s := lsu 7 lastWord 0 0 0
         Reads s t false false (wordVal (s.me.getS 1)) s ∧ Own s (s.opB .lsu).toNat n ∧ (s.opB .lsu).toNat % al = 0 ∧ Free s))
    ∧ (∃ t n al nt, storeRow (.lsuStvn t1) = some (t, n, al, nt)
      ∧ (lsu 0 (2 ^ 25) 0 0 0).reach ((lsu 0 (2 ^ 25) 0 0 0).opB .lsu).toNat n al accStore = .ok [(.hbm 0x20000 0, n)]) :=
  ⟨⟨_, _, _, _, rfl, reads1 _ _ _ rfl, by unfold Own; decide +kernel, by decide +kernel, ⟨rfl, rfl⟩⟩, ⟨_, _, _, _, rfl, ok_of (by decide +kernel)⟩⟩
/-- A halfword store changes two bytes and keeps its neighbours. -/
theorem test_store : ((after (exec (.lsuSth t1) (lsu 0x12345678 786430 0 0 0))).core 0).sp = [(786430, 0x78), (786431, 0x56)] := by decide +kernel

theorem witness_GatherScatter :
    (let s := lsu 0 786428 0x80000001 0 0
     Free s ∧ LanesOwn s 0 ∧ laneOn s 0 ∧ laneOn s 31 ∧ (∀ j, laneOn s j → poisoned (s.core (s.logical s.cur)).spPoison (laneVa s 0 j) 4 = false)
     ∧ LanesOwn s (s.opPort .lsu 2).toNat) := by
  have h : ∀ j, laneVa (lsu 0 786428 0x80000001 0 0) 0 j = 786428 := fun j => by
    have : 0 / 2 ^ (32 * j) % 2 ^ 32 = 0 := by simp
    simp only [laneVa, this]; decide +kernel
  refine ⟨⟨rfl, rfl⟩, ⟨by decide +kernel, fun j _ => by rw [h]; decide⟩, ⟨by decide, by decide +kernel⟩, ⟨by decide, by decide +kernel⟩,
    fun j _ => by rw [h]; decide +kernel, ?_⟩
  have e : ((lsu 0 786428 0x80000001 0 0).opPort .lsu 2).toNat = 0 := by decide +kernel
  rw [e]
  exact ⟨by decide +kernel, fun j _ => by rw [h]; decide⟩

/-- A drain with a mask of one stream: settled, busy, and with one refused operation; a release; a load in a hole, misaligned and unmapped. -/
def refusedOne : Cx := { ports := [(33, 1)], fenced := [{ status := 2, addr := 64, stream := 0 }] }
def busyOne : State := { st { cx0 := { ports := [(33, 1)] } } with
  reqs := [{ id := 1, core := 0, ctx := 0, unit := 8, op := 0x17, tag := 0, stream := 0, nr := true }] }
/-- The last page below 2^57, without the permission to write it. -/
def topPage : State := { lsu 0 (2 ^ 57 - 64) 0 0 0 with clusters := [(0, { tlb := [⟨0, 2 ^ 57 - 65536, 65536, 0x20003, true⟩] })] }
theorem witness_LsuOrderingAndTraps :
    (let s := lsu 0 0x10000 0 0 0
     (s.opB .lsu).toNat % 65536 = 0)
    ∧ (let s := lsu 0 1 0 0 0
       (s.opB .lsu).toNat % 65536 ≠ 0 ∧ (∀ sc : Scope, s.unsettled s.cur s.curCx sc.code ((s.opB .lsu).toNat % 65536) = false)
       ∧ s.me.fenced.all (fun f => !bitOf ((s.opB .lsu).toNat % 65536) f.stream) = true)
    ∧ ((busyOne.opB .lsu).toNat % 65536 ≠ 0 ∧ busyOne.unsettled busyOne.cur busyOne.curCx 0 ((busyOne.opB .lsu).toNat % 65536) = true)
    ∧ (let s := st { cx0 := refusedOne }
       (s.opB .lsu).toNat % 65536 ≠ 0 ∧ s.unsettled s.cur s.curCx 3 ((s.opB .lsu).toNat % 65536) = false
       ∧ (s.me.fenced.filter fun f => bitOf ((s.opB .lsu).toNat % 65536) f.stream) = [{ status := 2, addr := 64, stream := 0 }])
    ∧ (let s := lsu 0 lastWord 0 0 0
       Reads s t1 false false (wordVal (s.me.getS 1)) s ∧ Own s (s.opB .lsu).toNat 8 ∧ (s.opB .lsu).toNat % 8 = 0 ∧ Free s
       ∧ s.unsettled s.cur s.curCx 5 0xFFFF = false ∧ s.me.fenced.all (fun f => !bitOf 0xFFFF f.stream) = true)
    ∧ (∃ q t n al sg, loadRow (.lsuLdw true t1) = some (q, t, n, al, sg) ∧ (lsu 2 0 0 0 0).acqPending = false ∧ 2 % al ≠ 0
        ∧ 2 ^ 26 % al = 0 ∧ (lsu (2 ^ 26) 0 0 0 0).translateMe (2 ^ 26) accLoad = .miss
        ∧ 786432 % al = 0 ∧ (lsu 786432 0 0 0 0).translateMe 786432 accLoad = .fault 4 (7 + 256 * 4))
    ∧ (∃ t n al nt, storeRow (.lsuStw t1) = some (t, n, al, nt) ∧ (lsu 0 2 0 0 0).acqPending = false
        ∧ 2 ^ 25 % al = 0 ∧ (lsu 0 (2 ^ 25) 0 0 0 0x20003).translateMe (2 ^ 25) accStore = .fault 5 1
        ∧ (lsu 0 786432 0 0 0).translateMe 786432 accStore = .fault 4 (7 + 256 * 4))
    ∧ (∃ t n al nt, storeRow (.lsuStv t1) = some (t, n, al, nt) ∧ (2 ^ 57 - 64) % al = 0 ∧ 65536 < (2 ^ 57 - 64) % 65536 + n
        ∧ topPage.acqPending = false ∧ topPage.translateMe (2 ^ 57 - 64) accStore = .fault 5 1
        ∧ topPage.translateMe (2 ^ 57 - 64 + (65536 - (2 ^ 57 - 64) % 65536)) accStore = .fault 4 (7 + 256 * 3)) :=
  ⟨by decide +kernel, ⟨by decide +kernel, fun sc => by cases sc <;> decide +kernel, by decide +kernel⟩, by decide +kernel, by decide +kernel,
   ⟨reads1 _ _ _ rfl, by unfold Own; decide +kernel, by decide +kernel, ⟨rfl, rfl⟩, by decide +kernel, by decide +kernel⟩,
   ⟨_, _, _, _, _, rfl, by decide +kernel⟩, ⟨_, _, _, _, rfl, by decide +kernel⟩, ⟨_, _, _, _, rfl, by decide +kernel⟩⟩

/-- Context 0 of core 0 with the MX and gather queues of n and m entries, and format-table entry 15 = w. -/
def mx (n m w : Nat) (acc : SMap (BitVec 32) := []) (fifo : List Byte := []) : State :=
  st { cx0 := { s := [(1, 0x3E000000)] }, mxq := List.replicate n { id := 1, op := 0x0D }, gq := List.replicate m { id := 1, op := 5 },
       ft := [(15, BitVec.ofNat 16 w)], acc := acc, fifo := fifo }
theorem witness_MxTriggers :
    (∃ t op, mxRow (.mxScl t1) = some (t, op) ∧ Reads (mx 31 8 0) t false false (wordVal ((mx 31 8 0).me.getS 1)) (mx 31 8 0) ∧ Free (mx 31 8 0)
      ∧ (mx 31 8 0).myCore.mxq.length < 32 ∧ Free (mx 32 0 0) ∧ 32 ≤ (mx 32 0 0).myCore.mxq.length)
    ∧ ((mx 31 7 0).bnd.pause = .none ∧ (mx 31 7 0).myCore.mxq.length < 32 ∧ (mx 31 7 0).myCore.gq.length < 8)
    ∧ (let w := fun n => ((mx 31 0 n).myCore.getFt (finOf 16 (if bitOf (wordVal ((mx 31 0 n).me.getS 1)).toNat 29
          then (wordVal ((mx 31 0 n).me.getS 1)).toNat / 2 ^ 25 % 16 else ((mx 31 0 n).me.getLc 0).toNat % 16))).toNat
       w 0xF77 = 0xF77 ∧ ¬ (8 ≤ w 0xF77 % 16 ∨ 8 ≤ w 0xF77 / 16 % 16 ∨ 2 ^ 12 ≤ w 0xF77)
       ∧ 8 ≤ w 8 % 16 ∧ 8 ≤ w 0x80 / 16 % 16 ∧ 2 ^ 12 ≤ w 0x1000)
    ∧ (let s := mx 0 0 0 [(3, 7)] [1]
       QueuesIdle s ∧ s.myCore.accPoison.any (fun e => e / 32 == 32 * (0x1F7F % 128) + 0x1F7F / 2 ^ 8 % 32) = false
       ∧ (1 : Val).getLsbD 0 = true ∧ (0 : Val).getLsbD 0 = false ∧ s.myCore.fifo ≠ [])
    ∧ ((mx 1 0 0).acqPending = false ∧ (mx 1 0 0).myCore.mxq ≠ [] ∧ (mx 1 0 0).myCore.headFault 11 = none) := by
  refine ⟨⟨_, _, rfl, reads1 _ _ _ rfl, ⟨rfl, rfl⟩, by decide +kernel, ⟨rfl, rfl⟩, by decide +kernel⟩, by decide +kernel, by decide +kernel,
    ⟨⟨rfl, rfl, rfl⟩, by decide +kernel⟩, by decide +kernel⟩
/-- mma enters the queue with its operands; with 32 entries it waits. -/
theorem test_mma : ((after (exec (.mxMma t1) (mx 0 0 0))).core 0).mxq.map (fun e => (e.op, e.a.toNat)) = [(4, 0x3E000000)]
    ∧ (after (exec (.mxMma t1) (mx 32 0 0))).bnd.pause = .full 11 := by decide +kernel

/-- Core 0 with one MX entry, all of its operands at address 0 of its scratchpad through descriptor 0, of FORMAT f and row stride n. -/
def matrix (e : QEntry) (f n : Nat) (sp : List Host.Cell := []) (acc : SMap (BitVec 32) := []) : State :=
  st { mxq := [e], mxd := [(0, some (31 * 2 ^ 64 + 31 * 2 ^ 80 + 2 ^ 112 + n * 2 ^ 128 + f * 2 ^ 192))], sp := sp, acc := acc }
/-- An unscaled product into slot 127 of K steps. -/
def mma (k : Nat) : QEntry := { id := 1, op := 4, a := natVal (127 + (k - 1) * 256), b := 0xFFFC, c := 0xFFFC, sent := true }
def engGot {α : Type} (e : Eng α) : Option α := match e with | .ok a => some a | _ => none
theorem eng_of {α : Type} {e : Eng α} {a : α} (h : engGot e = some a) : e = .ok a := by
  unfold engGot at h
  split at h
  · cases h; rfl
  · cases h
/-- The operands of a product can be read, and A has format f. -/
def readable (s : State) (k : Nat) (e : QEntry) (f : Nat) : Bool :=
  match engGot (s.operandA k e), engGot (s.operandB k e) with
  | some oa, some ob => (engGot (s.groupCodes k oa (mK e.mctl) e.prog)).isSome && (engGot (s.groupCodes k ob (mK e.mctl) e.prog)).isSome
      && oa.fmt == f
  | _, _ => false
theorem readable_of {s : State} {k : Nat} {e : QEntry} {f : Nat} (h : readable s k e f = true) :
    ∃ oa ob ca cb, s.operandA k e = .ok oa ∧ s.operandB k e = .ok ob ∧ s.groupCodes k oa (mK e.mctl) e.prog = .ok ca
      ∧ s.groupCodes k ob (mK e.mctl) e.prog = .ok cb ∧ oa.fmt = f := by
  unfold readable at h
  split at h
  · rename_i oa ob ha hb
    simp only [Bool.and_eq_true, beq_iff_eq, Option.isSome_iff_exists] at h
    obtain ⟨⟨⟨ca, hc⟩, ⟨cb, hd⟩⟩, hf⟩ := h
    exact ⟨oa, ob, ca, cb, eng_of ha, eng_of hb, eng_of hc, eng_of hd, hf⟩
  · cases h
theorem mxHead_of (e : QEntry) (f n : Nat) (sp : List Host.Cell) (acc : SMap (BitVec 32)) (h : e.fault = none) (hid : e.id = 1) :
    MxHead (matrix e f n sp acc) 0 e [] := by
  refine ⟨rfl, rfl, h, ?_, by rw [hid]; rfl⟩
  unfold State.heldBySeg; simp [matrix, st, SMap.find]
/-- Elementary entries at the ends of their fields, a BF16 product of one group and of the last of two, and an INT8 product. -/
theorem witness_MxEntriesPerform :
    (∀ e ∈ [({ id := 1, op := 0x0D, a := 0xFF } : QEntry), { id := 1, op := 0x0F, b := 0x1F7F }, { id := 1, op := 0x0A, a := 0x7F },
        { id := 1, op := 0x0B, d := 31 }, { id := 1, op := 0x0C }], MxHead (matrix e 0 64) 0 e [])
    ∧ (∀ x ∈ [(mma 32, 0), ({ mma 33 with prog := 1 }, 0), (mma 1, 5)], MxHead (matrix x.1 x.2 64) 0 x.1 [] ∧ x.1.op = 4 ∧ x.1.sent = true
      ∧ (∃ oa ob ca cb, (matrix x.1 x.2 64).operandA 0 x.1 = .ok oa ∧ (matrix x.1 x.2 64).operandB 0 x.1 = .ok ob
        ∧ (matrix x.1 x.2 64).groupCodes 0 oa (mK x.1.mctl) x.1.prog = .ok ca ∧ (matrix x.1 x.2 64).groupCodes 0 ob (mK x.1.mctl) x.1.prog = .ok cb
        ∧ oa.fmt = x.2)
      ∧ x.1.asc = false ∧ x.1.bsc = false ∧ mMsk x.1.mctl = false) := by
  constructor
  · intro e he
    simp only [List.mem_cons, List.not_mem_nil, or_false] at he
    rcases he with rfl | rfl | rfl | rfl | rfl <;> exact mxHead_of _ _ _ _ _ rfl rfl
  · intro x hx
    simp only [List.mem_cons, List.not_mem_nil, or_false] at hx
    rcases hx with rfl | rfl | rfl
    · exact ⟨mxHead_of _ _ _ _ _ rfl rfl, rfl, rfl, readable_of (by decide +kernel), by decide +kernel, by decide +kernel, by decide +kernel⟩
    · exact ⟨mxHead_of _ _ _ _ _ rfl rfl, rfl, rfl, readable_of (by decide +kernel), by decide +kernel, by decide +kernel, by decide +kernel⟩
    · exact ⟨mxHead_of _ _ _ _ _ rfl rfl, rfl, rfl, readable_of (by decide +kernel), by decide +kernel, by decide +kernel, by decide +kernel⟩
/-- A group's exact sum is rounded once: 2 + (2^30 * 1 - 2^30 * 1 + 1 * 1) is 3 (R250). -/
theorem test_group_sum : toF32 ((f32 0x40000000).add (exactSum [(f32 0x4E800000).mul (f32 0x3F800000), (f32 0xCE800000).mul (f32 0x3F800000),
    (f32 0x3F800000).mul (f32 0x3F800000)])) = 0x40400000 := by decide +kernel

/-- Core 0 with n entries in its attention queue, with an empty record (e = 0x8000_0000) in its scratchpad at 0. -/
def att (q : List QEntry) : State := st { cx0 := { s := [(1, 64)] }, atq := q, sp := [(3, 0x80)] }
def mergeEntry : QEntry := { id := 1, op := 6, a := 0, b := 786416, c := 16 }
theorem witness_Attention :
    (∃ t op, attRow (.attRing t1) = some (t, op)
      ∧ (att (List.replicate 15 mergeEntry)).acqPending = false ∧ (att (List.replicate 15 mergeEntry)).myCore.atq.length < 16
      ∧ 16 ≤ (att (List.replicate 16 mergeEntry)).myCore.atq.length)
    ∧ (let s := att [mergeEntry]
       ∃ a b s2, s.attBusy 1 = false ∧ s.attRecord 0 (mergeEntry.a.toNat % 2 ^ 64) = .ok a ∧ s.attRecord 0 (mergeEntry.b.toNat % 2 ^ 64) = .ok b
       ∧ s.attWrites 0 1 [(mergeEntry.c.toNat % 2 ^ 64, (mergeRec a b).bytes)] = .ok s2 ∧ s2.entryBusy 1 = false)
    ∧ (att [{ mergeEntry with bound := some 5 }]).attBusy 1 = false := by
  refine ⟨⟨_, _, rfl, by decide +kernel⟩, ?_, by decide +kernel⟩
  have h : ∀ a b, engGot ((att [mergeEntry]).attRecord 0 (mergeEntry.a.toNat % 2 ^ 64)) = some a →
      engGot ((att [mergeEntry]).attRecord 0 (mergeEntry.b.toNat % 2 ^ 64)) = some b →
      ((match engGot ((att [mergeEntry]).attWrites 0 1 [(mergeEntry.c.toNat % 2 ^ 64, (mergeRec a b).bytes)]) with
        | some s2 => !s2.entryBusy 1 | none => false) = true) →
      ∃ a b s2, (att [mergeEntry]).attBusy 1 = false ∧ (att [mergeEntry]).attRecord 0 (mergeEntry.a.toNat % 2 ^ 64) = .ok a
        ∧ (att [mergeEntry]).attRecord 0 (mergeEntry.b.toNat % 2 ^ 64) = .ok b
        ∧ (att [mergeEntry]).attWrites 0 1 [(mergeEntry.c.toNat % 2 ^ 64, (mergeRec a b).bytes)] = .ok s2 ∧ s2.entryBusy 1 = false := by
    intro a b ha hb h
    split at h
    · rename_i s2 hs
      exact ⟨a, b, s2, by decide +kernel, eng_of ha, eng_of hb, eng_of hs, by simpa using h⟩
    · cases h
  exact h { e := -2147483648, d := 0, empty := true } { e := 0, d := 0 } (by decide +kernel) (by decide +kernel) (by decide +kernel)

/-- Records whose exponents differ by 1000, and one that is empty. -/
def recA : PRec := { e := 1000, d := 1, l := 0x3F800000, o := [0x40000000] }
def recB : PRec := { e := 0, d := 1, l := 0x3F800000, o := [0x40000000] }
theorem witness_MergeRule : (recA.d = recB.d ∧ recA.inval = false ∧ recB.inval = false ∧ recA.empty = false ∧ recB.empty = false
      ∧ -1000 ≤ recA.e - max recA.e recB.e ∧ -1000 ≤ recB.e - max recA.e recB.e)
    ∧ (recA.d = (PRec.mkEmpty 1 false).d ∧ (PRec.mkEmpty 1 false).empty = true ∧ (PRec.mkEmpty 1 false).inval = false)
    ∧ (PRec.mkInval 1 false).inval = true := by decide +kernel
/-- Equal exponents: l and o add; exponent 1 over 0: the lower record is halved (R67). -/
theorem test_merge : (mergeRec { recB with e := 1 } recB).l = 0x3FC00000 ∧ (mergeRec { recB with e := 1 } recB).e = 1
    ∧ (mergeRec { recB with e := 1 } recB).o = [0x40400000] ∧ (mergeRec recB recB).l = 0x40000000
    ∧ mergeRec (PRec.mkEmpty 1 false) recB = recB := by decide +kernel

/-- Context 0 of core 0 with s1 = a, ports c, b, d, e of a unit, scratchpad bytes and copy queue. -/
def qst (u : FUnit) (a b c d e : Word) (sp : List Host.Cell := []) (cpq : List QEntry := []) (got : Option Nat := none) : State :=
  let p := [(u.id * 4, wordVal c), (u.id * 4 + 1, wordVal b), (u.id * 4 + 2, wordVal d), (u.id * 4 + 3, wordVal e)]
  st { cx0 := { s := [(1, a)], cpyGot := got, ports := p }, ports := p, sp := sp, cpq := cpq }
/-- A copy of 32 bytes from 0x100 to the end of the scratchpad, with identifier 0xFFFF. -/
def cpyEntry : QEntry := { id := 1, op := 4, a := 786400, b := 0x100, c := 32, e := 0xFFFF }
def noFault : TrapInfo := { cause := 0x0B, d := [0xFFFF, 16, 0x100, 2] }
theorem witness_CopyEngine :
    (∃ t op, copyRow (.ceCkst t1) = some (t, op)
      ∧ (let s := qst .ce 0 0 0 0 0 [] (List.replicate 63 cpyEntry); s.acqPending = false ∧ s.myCore.cpq.length < 64))
    ∧ ((qst .ce 0 0 0 0 0 [] [] (some 16)).me.cpyGot = some 16)
    ∧ (let s := qst .ce 0xFFFF 0xFFFE 0 0 0 [] [cpyEntry]
       s.me.cpyGot = none ∧ (s.myCore.cpq.all fun e => e.cid != (s.opB .ce).toNat % 65536) = true)
    ∧ (let s := qst .ce 0xFFFE 0xFFFF 0 0 0 [] [cpyEntry]
       s.me.cpyGot = none ∧ (s.myCore.cpq.all fun e => e.cid != 0xFFFE) = true ∧ s.latestCpy s.cur ((s.opB .ce).toNat % 65536) = some cpyEntry)
    ∧ (let s := qst .ce (lastWord - 8) 0xFFFF 0 0 0 [] [cpyEntry]
       s.reach (lastWord - 8).toNat 16 16 accAtomic = .ok [(.sp 0 786416, 16)])
    ∧ ((wordVal 16).toNat % 16 = 0
       ∧ (let s := qst .ce 7 0 0 0 0 [] [cpyEntry]
          (wordVal 7).toNat % 16 ≠ 0 ∧ fenceBusy s.myCore 7 = false ∧ fenceFault s.myCore 7 = none)
       ∧ (let s := qst .ce 8 0 0 0 0 [] [cpyEntry]
          fenceBusy s.myCore 8 = true ∧ fenceFault s.myCore 8 = none))
    ∧ (let s := fun b => qst .ce (lastWord - 56) 0 0 0 0 [(786392, b)]
       ∀ b, b ∈ [(1 : Byte), 0x81] → (s b).reach (lastWord - 56).toNat 64 64 accLoad = .ok [(.sp 0 786368, 64)] ∧ (s b).writePending (spKey 0 786368) 64 = false
         ∧ (leNat (((s b).spRead 0 786368 64).drop 24 |>.take 8) % 256 = b.toNat)) := by
  refine ⟨⟨_, _, rfl, by decide +kernel⟩, by decide +kernel, by decide +kernel, by decide +kernel, ok_of (by decide +kernel), by decide +kernel, ?_⟩
  intro s b hb
  simp only [List.mem_cons, List.not_mem_nil, or_false] at hb
  rcases hb with rfl | rfl <;> exact ⟨ok_of (by decide +kernel), by decide +kernel, by decide +kernel⟩
/-- Copies: all delivered, misaligned, with a last unit to move, bound and complete, bound and faulted. -/
theorem witness_CopySteps :
    (let e := { cpyEntry with prog := 32 }
     let s := qst .ce 0 0 0 0 0 [] [e]
     (s.core 0).cpq = [e] ∧ s.entryBusy 1 = false ∧ e.boundPa = none ∧ 0 < e.total ∧ e.misaligned = none ∧ e.total ≤ e.prog)
    ∧ (let e := { cpyEntry with b := 0x101 }
       e.fault = none ∧ 0 < e.total ∧ e.misaligned = some 0x101)
    ∧ (let e := { cpyEntry with prog := 16 }
       let s := qst .ce 0 0 0 0 0 [] [e]
       e.misaligned = none ∧ e.prog < e.total ∧ e.srcAt e.prog + 16 ≤ 768 * 1024 ∧ e.dstAt e.prog + 16 ≤ 768 * 1024
         ∧ poisoned (s.core (s.logical 0)).spPoison (e.srcAt e.prog) 16 = false)
    ∧ (let e := { cpyEntry with prog := 32, boundPa := some 0 }
       e.fault = none ∧ e.total ≤ e.prog ∧ e.sent = false ∧ (qst .ce 0 0 0 0 0 [] [e]).bindOut 0 0 = false)
    ∧ (let e := { cpyEntry with prog := 16, boundPa := some (2 ^ 52 - 16), fault := some noFault }
       e.sent = false ∧ (qst .ce 0 0 0 0 0 [] [e]).bindOut 0 (2 ^ 52 - 16) = false ∧ 2 ^ 52 - 16 + 8 < 2 ^ 52) := by decide +kernel
/-- One unit of 16 bytes moves, and the count (R361). -/
theorem test_copy_unit : let s := qst .ce 0 0 0 0 0 [(0x100, 7), (0x110, 9)] [cpyEntry]
    ((after (exec (.copyEntryDone 0) s)).core 0).sp = [(0x100, 7), (0x110, 9), (786400, 7)]
    ∧ ((after (exec (.copyEntryDone 0) s)).core 0).cpq.map (·.prog) = [16] := by decide +kernel

/-- Core 0 in gang 1 with pipe 4095 of 4 slots of 16 bytes at 0x100, HEAD and TAIL; cb3 holds its handle; o1 = b, o0 = c of the cb unit. -/
def piped (h : BitVec 32) (head tail : BitVec 32) (b c : Word) : State :=
  { st { cx0 := { cb := [(3, h)] }, ports := [(56, wordVal c), (57, wordVal b)], point := some { l := ⟨0, 0, 1⟩, gang := 1 } } with
    clusters := [(0, { pipes := [(4095, { gang := 1, l := ⟨0, 0, 1⟩, slots := 4, size := 1, off := 0x100, prod := 0, cons := 1, head := head, tail := tail })] })] }
def tcb : Tr := ⟨always, .small (.cb 3)⟩
def thePipe : Pipe := { gang := 1, l := ⟨0, 0, 1⟩, slots := 4, size := 1, off := 0x100, prod := 0, cons := 1, head := 0xFFFFFFFE, tail := 1 }
theorem named : ([(0x80000FFF : BitVec 32), 0x80001FFF].all fun h => [(0 : Word), 1, 2, 3, 4].all fun c =>
    decide ((piped h 0xFFFFFFFE 1 5 c).pipeOf (h.setWidth 2048 : Val).toNat = some thePipe)) = true := by decide +kernel
theorem readsCb (h : BitVec 32) (head tail : BitVec 32) (b c : Word) :
    Reads (piped h head tail b c) tcb false false (h.setWidth 2048) (piped h head tail b c) := ⟨rfl, fun e => (by cases e), rfl⟩
theorem namesPipe (h : BitVec 32) (c : Word) (hh : h ∈ [(0x80000FFF : BitVec 32), 0x80001FFF]) (hc : c ∈ [(0 : Word), 1, 2, 3, 4]) :
    (piped h 0xFFFFFFFE 1 5 c).pipeOf ((h.setWidth 2048 : Val).toNat % 2 ^ 32) = some thePipe := by
  have e : (h.setWidth 2048 : Val).toNat % 2 ^ 32 = (h.setWidth 2048 : Val).toNat := by
    rw [BitVec.toNat_setWidth, Nat.mod_eq_of_lt (Nat.lt_of_le_of_lt (Nat.mod_le _ _) h.isLt)]
  rw [e]
  exact of_decide_eq_true (List.all_eq_true.mp (List.all_eq_true.mp named h hh) c hc)
/-- Three of four slots filled, across the wrap of the counters: three or four are asked for as consumer, one or two as producer. -/
theorem witness_CircularBuffers :
    (∀ h ∈ [(0x80000FFF : BitVec 32), 0x80001FFF], ∀ c ∈ [(0 : Word), 1, 2, 3, 4],
      Reads (piped h 0xFFFFFFFE 1 5 c) tcb false false (h.setWidth 2048) (piped h 0xFFFFFFFE 1 5 c)
        ∧ Names (piped h 0xFFFFFFFE 1 5 c) tcb (h.setWidth 2048) ((h.setWidth 2048 : Val).toNat % 2 ^ 32) thePipe)
    ∧ filledOf thePipe = 3
    ∧ (let h := (0x80001FFF : BitVec 32)
       bitOf h.toNat 12 = true ∧ cbN (piped h 0xFFFFFFFE 1 5 3) = 3 ∧ cbN (piped h 0xFFFFFFFE 1 5 4) = 4 ∧ cbN (piped h 0xFFFFFFFE 1 5 0) = 1)
    ∧ (let h := (0x80000FFF : BitVec 32)
       let s := piped h 0xFFFFFFFE 1 5 1
       bitOf h.toNat 12 = false ∧ cbN s = 1 ∧ cbN (piped h 0xFFFFFFFE 1 5 2) = 2
       ∧ s.acqPending = false ∧ s.unsettled s.cur s.curCx 1 0xFFFF = false ∧ s.me.fenced.all (fun f => !bitOf 0xFFFF f.stream) = true)
    ∧ (filledOf thePipe < cbN (piped 0x80001FFF 0xFFFFFFFE 1 5 4) ∧ thePipe.slots - filledOf thePipe < cbN (piped 0x80000FFF 0xFFFFFFFE 1 5 2))
    ∧ (Reads (piped 0 0 0 0 0) t1 false false (wordVal ((piped 0 0 0 0 0).me.getS 1)) (piped 0 0 0 0 0) ∧ (∀ c, t1.src ≠ .small (.cb c))
      ∧ (piped 0x80000FFE 0 0 0 0).pipeOf 0x80000FFE = none) := by
  exact ⟨fun h hh c hc => ⟨readsCb _ _ _ _ _, ⟨_, rfl⟩, rfl, namesPipe h c hh hc⟩, by decide, by decide +kernel, by decide +kernel,
    by decide +kernel, reads1 _ _ _ rfl, fun c h => by (cases h), by decide +kernel⟩
/-- waitf gives the slot of HEAD, waite the slot of TAIL in the consumer's window; padv and cadv move by what there is (R364, R365). -/
theorem test_pipe : flown (after (exec (.cbWaitf tcb) (piped 0x80001FFF 6 9 0 3))) = [(some 0, 2, 0x100 + 2 * 16)]
    ∧ flown (after (exec (.cbWaite tcb) (piped 0x80000FFF 6 9 0 1))) = [(some 0, 2, 0x1100000 + 0x100 + 16)]
    ∧ flown (after (exec (.cbPadv tcb) (piped 0x80000FFF 6 9 2 0))) = [(some 0, 2, 1)] := by decide +kernel

/-- amos on the last words of the scratchpad: 32 and 64 bits, a code that names nothing, and a reserved scope. -/
theorem witness_AtomicsInScratchpad :
    (let s := qst .qu 1 lastWord 0 16 0x50
     Reads s t1 false false (wordVal (s.me.getS 1)) s ∧ Free s ∧ Own s (s.opB .qu).toNat 8 ∧ (s.opB .qu).toNat % 8 = 0
       ∧ poisoned (s.core (s.logical s.cur)).spPoison (s.opB .qu).toNat 8 = false ∧ Released s 5 ∧ (s.opE .qu).toNat / 16 % 8 < 6
       ∧ intAtomic ((s.opD .qu).toNat % 32 % 16) 64 0 1 0 = some 1)
    ∧ (let s := qst .qu 1 (lastWord + 4) 0 0xD 0x60
       Own s (s.opB .qu).toNat 4 ∧ 13 ≤ (s.opD .qu).toNat % 32 % 16 ∧ 6 ≤ (s.opE .qu).toNat / 16 % 8) :=
  ⟨⟨reads1 _ _ _ rfl, ⟨rfl, rfl⟩, by unfold Own; decide +kernel, by decide +kernel, by decide +kernel, ⟨by decide +kernel, by decide +kernel⟩, by decide +kernel, by decide +kernel⟩,
   by unfold Own; decide +kernel, by decide +kernel, by decide +kernel⟩
/-- A signed 32-bit minimum leaves -1 below 1; a compare and swap of unequal words leaves the old one (R41, R372). -/
theorem test_atomics : ((after (exec (.quAmo t1) (qst .qu 0xFFFFFFFF 64 0 1 0 [(64, 1)]))).core 0).sp = [(64, 0xFF), (65, 0xFF), (66, 0xFF), (67, 0xFF)]
    ∧ ((after (exec (.quAmo t1) (qst .qu 5 64 2 11 0 [(64, 1)]))).core 0).sp = [(64, 1)]
    ∧ ((after (exec (.quAmo t1) (qst .qu 5 64 1 27 0 [(64, 1)]))).core 0).sp = [(64, 5)] := by decide +kernel

theorem witness_ObjectTriggers :
    (let s := qst .qu (lastWord - 56) (lastWord - 56) 0 0 15 [(786368, 0xC1)]
     Free s ∧ s.writePending (spKey 0 786368) 24 = false ∧ s.writePending (spKey 0 786368) 8 = false
     ∧ s.reach (s.opB .qu).toNat 64 64 accAtomic = .ok [(.sp 0 786368, 64)]
     ∧ s.reach (lastWord - 56).toNat 64 64 accAtomic = .ok [(.sp 0 786368, 64)]
     ∧ s.reach (lastWord - 56).toNat 64 64 accLoad = .ok [(.sp 0 786368, 64)]
     ∧ s.writePending (spKey 0 786368) 24 = false ∧ s.spOk (s.ptagOf s.cur) 0 = true ∧ poisoned (s.core 0).spPoison 786368 24 = false) :=
  ⟨⟨rfl, rfl⟩, by decide +kernel, by decide +kernel, ok_of (by decide +kernel), ok_of (by decide +kernel), ok_of (by decide +kernel), by decide +kernel⟩
/-- A queue of depth 4 holding 1: qwait of 1 is met, of 2 is not, of 3 free places is. -/
theorem test_qwait : [(1 : Word), 2, 3 + 2 ^ 32, 4 + 2 ^ 32].map (fun c =>
    (after (exec (.quQwait t1) (qst .qu 0 9 c 0 0 [(8, 4), (20, 1)]))).bnd.waits.map fun w => (w.1, w.2.1))
      = [[(true, 9)], [(false, 9)], [(true, 9)], [(false, 9)]] := by decide +kernel

theorem witness_TaskTriggers :
    (let s := qst .qu (lastWord - 56) 0x1230 (1 + 2 ^ 32) (lastWord - 24) 0
     Free s ∧ Own s (lastWord - 56).toNat 64 ∧ (lastWord - 56).toNat % 64 = 0 ∧ Own s (s.opD .qu).toNat 32 ∧ s.writePending (spKey 0 786400) 32 = false
     ∧ poisoned (s.core 0).spPoison 786400 32 = false ∧ s.myCore.point = none ∧ (s.opC .qu).toNat % 2 ^ 32 ≠ 0)
    ∧ (let s := qst .qu (lastWord - 56) 0 0 0 0 [(786384, 1), (786388, 0x10)]
       let w := leNat (s.spRead 0 786384 8)
       poisoned (s.core 0).spPoison 786368 64 = false ∧ s.writePending (spKey 0 786368) 64 = false ∧ w / 2 ^ 36 % 16 = 1 ∧ w % 2 ^ 32 ≠ 0)
    ∧ (let s := qst .qu 0x40 0x1000000 784400 2032 0
       Free s ∧ (s.opD .qu).toNat % 4096 = 2032 ∧ (s.opC .qu).toNat + 2032 = 768 * 1024 ∧ (s.opC .qu).toNat % 16 = 0
       ∧ poisoned (s.core (s.logical s.cur)).spPoison 784400 2032 = false ∧ s.reach (s.opB .qu).toNat 1 1 accStore = .ok [(.sp 0 0, 1)]) :=
  ⟨⟨⟨rfl, rfl⟩, by unfold Own; decide +kernel, by decide +kernel, by unfold Own; decide +kernel, by decide +kernel, by decide +kernel, rfl, by decide +kernel⟩,
   by decide +kernel, ⟨rfl, rfl⟩, by decide +kernel, by decide +kernel, by decide +kernel, by decide +kernel, ok_of (by decide +kernel)⟩
/-- A waiting record with one dependence becomes ready, and the count before 0 is delivered (R374). -/
theorem test_tdec : ((after (exec (.quTdec t1) (qst .qu 0x40 0 0 0 0 [(0x50, 1), (0x54, 0x10)]))).core 0).sp = [(0x54, 0x20)] := by decide +kernel

/-- A barrier at the scratchpad's end: COUNT 2, one arrival, the last phase. -/
def barrier (b : Word) : State := qst .qu (lastWord - 8) b 7 0 0x50
  [(786416, 0xFF), (786417, 0xFF), (786418, 0x2F), (786420, 0x10)]
/-- A barrier with its FAULT bit set and a fault recorded in word 1. -/
def faulted (b : Word) : State := qst .qu (lastWord - 8) b 7 0 0x50 [(786416, 1), (786423, 0x10), (786424, 5)]
theorem witness_BarrierTriggers :
    (∀ b, Free (barrier b) ∧ Own (barrier b) 786416 16)
    ∧ (let s := barrier 65535
       let w0 := leNat (s.spRead (s.logical s.cur) 786416 8)
       (lastWord - 8).toNat = 786416 ∧ (lastWord - 8).toNat % 16 = 0 ∧ (s.opE .qu).toNat / 16 % 8 < 6 ∧ poisoned (s.core 0).spPoison 786416 16 = false
       ∧ s.writePending (spKey 0 786416) 16 = false ∧ (s.opB .qu).toNat % 65536 ≠ 0 ∧ Released s 5
       ∧ w0 / 2 ^ 36 % 2 ^ 16 + 1 = w0 / 2 ^ 20 % 2 ^ 16 ∧ w0 / 2 ^ 52 % 256 = 0 ∧ w0 % 2 ^ 20 ≠ (s.opB .qu).toNat % 2 ^ 20 ∧ BitVec.ofNat 64 w0 ≠ s.opB .qu)
    ∧ ((barrier 65536).opB .qu).toNat % 65536 = 0
    ∧ (let s := barrier 0x10002FFFFF
       let w0 := leNat (s.spRead (s.logical s.cur) 786416 8)
       w0 % 2 ^ 20 = (s.opB .qu).toNat % 2 ^ 20 ∧ w0.testBit 60 = false ∧ BitVec.ofNat 64 w0 = s.opB .qu)
    ∧ (let s := faulted 1
       let w0 := leNat (s.spRead (s.logical s.cur) 786416 8)
       w0 % 2 ^ 20 = (s.opB .qu).toNat % 2 ^ 20 ∧ w0.testBit 60 = true ∧ s.me.barSeen.contains 5 = false) :=
  ⟨fun b => ⟨⟨rfl, rfl⟩, ⟨by show 0 < 160; decide, by decide⟩⟩, by unfold Released; decide +kernel, by decide +kernel, by decide +kernel, by decide +kernel⟩
/-- The last arrival begins the next phase, which wraps to 0 (R377). -/
theorem test_bara : ((after (exec (.quBara t1) (barrier 0))).core 0).sp = [(786418, 0x20)]
    ∧ ((after (exec (.quBari t1) (qst .qu 0x40 3 0 0 0 [(0x40, 5)]))).core 0).sp = [(0x42, 0x30)] := by decide +kernel

/-- A state as context i of core k sees it. -/
def seenBy (k i : Nat) (c : Cx) (q : Core := {}) : State :=
  { cores := [(k, match i with | 0 => { q with cx0 := c } | 1 => { q with cx1 := c } | 2 => { q with cx2 := c } | _ => { q with cx3 := c })],
    cur := k, curCx := i }
/-- The same with the PF's stream in slot 0 of die 0, whose core is privileged. -/
def asPf (i : Nat) (c : Cx) : State := { seenBy (streamKey 16 0) i c with dies := [(0, { streams := [{ part := 16, j := 0, slot := some 0 }] })] }
def sOne (a : Word) : Cx := { s := [(1, a)] }
theorem witness_SysTriggersAtOnce :
    (let s := seenBy 0 0 (sOne 1)
     Reads s t1 false false (wordVal (s.me.getS 1)) s ∧ s.me.sysq = [] ∧ (wordVal (s.me.getS 1)).toNat % 4096 = 1
       ∧ s.curCx = 0 ∧ s.cur < 160 ∧ s.endFault = none ∧ s.myCore.queuesEmpty = true ∧ s.endScope s.cur < 3 ∧ s.endWaits s.cur (s.endScope s.cur) = false
       ∧ s.me.fenced.all (fun f => !bitOf 0xFFFF f.stream) = true)
    ∧ (let s := seenBy 159 3 (sOne 3)
       Reads s t1 false false (wordVal (s.me.getS 1)) s ∧ s.curCx = 3 ∧ (wordVal (s.me.getS 1)).toNat % 4096 ≠ 1)
    ∧ (let s := seenBy 159 2 (sOne 0)
       s.curCx = 2 ∧ s.me.sysq = [] ∧ Released s 3)
    ∧ (let s := seenBy 159 1 (sOne 0)
       s.curCx = 1 ∧ s.me.sysq = [] ∧ Released s 3)
    ∧ (let s := { seenBy 0 0 (sOne 0) { point := some { l := ⟨0, 0, 1⟩ } } with dies := [(0, { launches := [(1, { words := [0, 0, 0, 0, 0, 0x210000] })] })] }
       s.endFault = none ∧ s.myCore.queuesEmpty = true ∧ 3 ≤ s.endScope s.cur ∧ s.endWaits s.cur (s.endScope s.cur) = false
       ∧ s.me.fenced.all (fun f => !bitOf 0xFFFF f.stream) = true ∧ s.remoteDirty (dieOf s.cur) (s.ptagOf s.cur) = [])
    ∧ (let s := seenBy 0 0 (sOne 0) { mxq := [{ id := 1, op := 0x0D }] }
       s.endFault = none ∧ s.myCore.queuesEmpty = false) :=
  ⟨⟨reads1 _ _ _ rfl, rfl, by decide +kernel, rfl, by decide, by decide +kernel, by decide +kernel, by decide +kernel, by decide +kernel, by decide +kernel⟩,
   ⟨reads1 _ _ _ rfl, rfl, by decide +kernel⟩, ⟨rfl, rfl, by decide +kernel, by decide +kernel⟩, ⟨rfl, rfl, by decide +kernel, by decide +kernel⟩,
   by decide +kernel, by decide +kernel⟩
/-- The frame counter's tick, and PERM of a tret outside context 3 (R387, R390). -/
theorem test_frd : flown (after (exec (.sysFrd t1) { seenBy 0 0 (sOne 0) with pkg := { ticks := 77 } })) = [(some 0, 2, 77)]
    ∧ (after (exec (.sysTret t1) (seenBy 0 0 (sOne 0)))).bnd.trap = some { cause := 5, d := [0, 5] } := by decide +kernel

/-- The sys queue holds seven entries; a privileged register from a core and from the PF's stream; addresses aligned and not. -/
def sys7 (a : Word) : Cx := { sOne a with sysq := List.replicate 7 { id := 1, op := 5 } }
theorem witness_SysTriggersEnter :
    (let s := seenBy 0 0 { sOne 1 with sysq := List.replicate 8 { id := 1, op := 5 } }
     Reads s t1 false false (wordVal (s.me.getS 1)) s ∧ 8 ≤ s.me.sysq.length)
    ∧ (let s := seenBy 0 0 (sys7 0x31)
     Reads s t1 false false (wordVal (s.me.getS 1)) s ∧ s.me.sysq.length < 8 ∧ s.acqPending = false
       ∧ (∃ op f, csrRow (.sysCsrw t1) = some (t1, op, f)) ∧ s.privileged s.cur = false ∧ csrPrivileged 0x31 = true ∧ csrPrivileged 0x30 = false
       ∧ s.curCx = 0 ∧ s.cur < 160 ∧ (s.me.getS 1).toNat % 64 ≠ 0)
    ∧ (let s := asPf 1 (sys7 0x1C1)
       s.privileged s.cur = true ∧ s.curCx ≠ 0 ∧ 160 ≤ s.cur ∧ (s.me.getS 1).toNat % 16 = 1)
    ∧ (let s := asPf 0 (sys7 0x80)
       s.privileged s.cur = true ∧ s.curCx = 0 ∧ (s.me.getS 1).toNat % 64 = 0 ∧ Released s 3 ∧ (s.opB .sys).toNat % 8 = 0 ∧ (s.me.getS 1).toNat % 16 ≠ 1) :=
  ⟨⟨reads1 _ _ _ rfl, by decide +kernel⟩, ⟨reads1 _ _ _ rfl, by decide +kernel, by decide +kernel, ⟨_, _, rfl⟩, by decide +kernel, by decide +kernel, by decide +kernel,
    rfl, by decide, by decide +kernel⟩, by decide +kernel, by unfold Released; decide +kernel⟩

def sysEntry (op : Nat) (a b : Word) : QEntry := { id := 1, op := op, a := wordVal a, b := wordVal b }
def sysHeld (e : QEntry) : State := { seenBy 0 0 { sysq := [e, { id := 2, op := 6 }], joins := [(64, [{ id := 1 }])] } with
  parts := [(0, { rngseed := 5 })] }
theorem witness_SysEntriesComplete :
    ∀ e ∈ [sysEntry 5 0 7, sysEntry 6 1 1, sysEntry 7 0x20 255, sysEntry 5 0x21 1, sysEntry 5 0x22 65535, sysEntry 6 0x30 2, sysEntry 5 0x31 (2 ^ 36),
      sysEntry 5 0x32 1, sysEntry 5 0x33 1, sysEntry 5 0x40 100, sysEntry 5 0x40 1000000, sysEntry 5 0x40 99, sysEntry 0x17 0xFF00 9, sysEntry 0x12 3 0],
      SysHead (sysHeld e) 0 0 e [{ id := 2, op := 6 }] ∧ [({ id := 2, op := 6 } : QEntry)].all (fun r => r.id != e.id) = true := by
  intro e he
  simp only [List.mem_cons, List.not_mem_nil, or_false] at he
  rcases he with rfl | rfl | rfl | rfl | rfl | rfl | rfl | rfl | rfl | rfl | rfl | rfl | rfl | rfl <;> exact ⟨⟨rfl, rfl, rfl⟩, rfl⟩
/-- A csrs of RNGSEED sets bits and gives the old value; TICKNS takes 100 and not 99 (R121, R383, R384). -/
theorem test_csr : let x := after (exec (.sysEntryComplete 0 0) (sysHeld (sysEntry 6 0x30 2)))
    (x.part 0).rngseed = 7 ∧ (x.joinsAt 0 0 16 0).map (fun r => (r.done, r.val.toNat)) = [(true, 5)]
    ∧ (after (exec (.sysEntryComplete 0 0) (sysHeld (sysEntry 5 0x40 100)))).pkg.nextTickNs = some 100
    ∧ (after (exec (.sysEntryComplete 0 0) (sysHeld (sysEntry 5 0x40 99)))).pkg.nextTickNs = none := by decide +kernel

/-- Core 9, whose cluster has a handler for PAGE with its data page pinned at 2^25; its context i runs c. -/
def handled (i : Nat) (c : Cx) (c3 : Cx := {}) : State :=
  { seenBy 9 i c { cx3 := c3 } with
    clusters := [(1, { handlers := [(4, ⟨0x4000, 0x4000, 4096, 2 ^ 25, 65536, 0⟩)], tlb := [⟨0, 2 ^ 25, 65536, 0x2000F, true⟩] })],
    owner := [(2, 0x10)] }
def pageTrap : TrapInfo := { cause := 4, slot := 3, d := [0x1234, 1] }
def busyCx : Cx :=
  { run := .running, pc := 2 ^ 48 - 1, upc := 7, s := [(63, 9)], k := [(15, 8)], a := [(0, 6)], g := [(7, true)], vcc := 5, repLeft := 2, repDone := 1,
    rqkey := 3, rqpos := 4, wd := 11 }
theorem witness_TrapEntry :
    (∀ i, i < 3 → (handled i busyCx).handler 9 4 = some ⟨0x4000, 0x4000, 4096, 2 ^ 25, 65536, 0⟩ ∧ ((handled i busyCx).cx 9 3).run = .idle
      ∧ (handled i busyCx).pinnedPa 9 (frameVa 9 ⟨0x4000, 0x4000, 4096, 2 ^ 25, 65536, 0⟩) = some 0x24000 ∧ ((handled i busyCx).core 9).wcb = []
      ∧ SMap.find (handled i busyCx).segs 9 = none)
    ∧ ((handled 0 busyCx busyCx).handler 9 4 = some ⟨0x4000, 0x4000, 4096, 2 ^ 25, 65536, 0⟩ ∧ ((handled 0 busyCx busyCx).cx 9 3).run ≠ .idle)
    ∧ (handled 0 busyCx).handler 9 5 = none := by
  refine ⟨fun i h => ?_, by decide +kernel, by decide +kernel⟩
  have : i = 0 ∨ i = 1 ∨ i = 2 := by omega
  rcases this with rfl | rfl | rfl <;> decide +kernel
/-- Two words of the frame (R186); a frame whose data page is not pinned any more cannot be written, a machine check (R191). -/
theorem test_trap_entry : (({ handled 2 busyCx with clusters := [(1, { handlers := [(4, ⟨0x4000, 0x4000, 4096, 2 ^ 25, 65536, 0⟩)] })] }.takeTrap 9 2 pageTrap).part 0).mchk = true
    ∧ (trapFields busyCx 2 pageTrap ++ busyCx.imageFields).find? (fun f => f.1 == 0) = some (0, 4, 4 + 3 * 256 + 2 * 1024)
    ∧ (trapFields busyCx 2 pageTrap ++ busyCx.imageFields).find? (fun f => f.1 == 8) = some (8, 8, 0x7FFFFFFFFFFFF) := by decide +kernel

/-- Context 3 of core 9 about to return to context i; the frame's RMODE byte and its word of s1 are in HBM. -/
def returning (i : Nat) (rmode : Byte) : State :=
  { handled i { busyCx with run := .trapped } { run := .running, frame := 0x2004000, trapCtx := i, trapCause := 4 } with
    hbm := (if rmode = 0 then [] else [(0x24002, rmode)]) ++ [(0x24108, 0x77)] }
theorem witness_TrapReturn : ∀ i, i < 3 → ∀ m ∈ [(0 : Byte), 1, 2, 3],
    ((returning i m).cx 9 3).trapCtx = i ∧ (returning i m).pinnedPa 9 ((returning i m).cx 9 3).frame = some 0x24000
    ∧ (returning i m).frameWord 9 0x24000 0 4 / 2 ^ 16 % 4 = m.toNat ∧ (∀ j t, j < 3 → ((returning i m).cx 9 j).run ≠ .trapPending t) := by
  intro i h m hm
  have : i = 0 ∨ i = 1 ∨ i = 2 := by omega
  simp only [List.mem_cons, List.not_mem_nil, or_false] at hm
  rcases this with rfl | rfl | rfl <;> rcases hm with rfl | rfl | rfl | rfl <;>
    refine ⟨rfl, by decide +kernel, by decide +kernel, fun j t hj => ?_⟩ <;>
    (have : j = 0 ∨ j = 1 ∨ j = 2 := by omega) <;> rcases this with rfl | rfl | rfl <;> (intro h; cases h)
theorem test_trap_return : let x := (returning 1 1).trapReturn 9
    (x.cx 9 1).run = .running ∧ (x.cx 9 1).skip = true ∧ ((x.cx 9 1).getS 1).toNat = 0x77 ∧ (x.cx 9 3).run = .idle
    ∧ (((returning 1 3).trapReturn 9).part 0).mchk = true := by decide +kernel

/-- A request of core 47 of partition 0, and a machine with it on the wire, partition 0 running on every cluster and owning the page at 0x20000. -/
def req (ty sub addr : Nat) (dst : Ep) (bs : List Byte := []) (priv : Bool := false) : Txn :=
  { ty := ty, priv := priv, src := ⟨0, 1, 7⟩, dst := dst, subop := sub, addr := addr, tag := 9, payload := bs }
def site (u : Txn) (hbm : List Host.Cell := []) (sp : List Host.Cell := []) : State :=
  { cores := [(0, { sp := sp })], parts := [(0, { en := true, state := 1, clmask := 0xFFFFF }), (1, { en := true, state := 1 })],
    owner := [(2, 0x10)], wire := [(0, Txn.withCrc u)], hbm := hbm, filters := [(0, (0x1000, 0x100))] }
/-- What Arrives asks, but for the check, which a request that was given one holds. -/
def meets (s : State) (t : Txn) : Bool :=
  !s.holds t && Txn.admissible t && decide (t.dst.pkg = s.pkg.pkgId) && decide (SMap.find s.crcWait (Txn.triple t) = none)
    && (!s.foreign t && !s.resent t || !s.closed t.ptag) && t.dom.isNone && !t.poison
theorem arrives_of {s : State} {u : Txn} (h : meets s (Txn.withCrc u) = true) : Arrives s (Txn.withCrc u) := by
  unfold meets at h
  simp only [Bool.and_eq_true, Bool.or_eq_true, Bool.not_eq_true', decide_eq_true_eq, Option.isNone_iff_eq_none] at h
  obtain ⟨⟨⟨⟨⟨⟨h1, h2⟩, h3⟩, h4⟩, h5⟩, h6⟩, h7⟩ := h
  exact ⟨h1, h2, h3, h4, Txn.crcOk_withCrc u, h5, .inl h6, .inl h7⟩
theorem undirty_site (u : Txn) (hbm sp : List Host.Cell) (a n : Nat) : Undirty (site u hbm sp) a n := fun d _ x hx => by
  have : ((site u hbm sp).die d).l2 = [] := rfl
  rw [this] at hx; cases hx
def atSp : Ep := ⟨0, 0, 0⟩
def atLlc : Ep := ⟨0, 4, 4⟩
def atL2 : Ep := ⟨0, 1, 41⟩
def atHost : Ep := ⟨0, 12, 32⟩
def atMmio : Ep := ⟨0, 12, 34⟩
theorem atLlc_of (u : Txn) (n a : Nat) (ha : u.addr = a) (hd : u.dst = atLlc) (h1 : bits a 38 36 = 0) (h2 : (site u).ownerOk u.ptag a = true)
    (h3 : (site u).ownerOk u.ptag (a + (n - 1)) = true) : AtLlc (site u) (Txn.withCrc u) n := by
  subst ha
  refine ⟨0, ?_, h1, h2, h3⟩
  show (site u).agentOf { u with crc := _ } = _
  unfold State.agentOf; rw [show ({ u with crc := BitVec.ofNat 32 (crc32c (Txn.checked u)) } : Txn).dst = u.dst from rfl, hd]; rfl
/-- Every target at the end of its range, and every refusal. -/
theorem witness_LoadsAndStoresArrive :
    (∀ u ∈ [req tyLoad 2 786428 atSp, req tyLoad 3 0x2FFF8 atLlc, req tyLoad 11 0x2F800 atL2, req tyLoad 0 (2 ^ 52) atL2, req tyLoad 2 0x10FC atHost,
        req tyLoad 2 0x10FD atHost, req tyLoad 3 0 atMmio [] true, req tyLoad 3 0 atMmio, req tyLoad 3 0x30000 atLlc, req tyLoad 3 0x30000 atL2,
        req tyLoad 2 0 ⟨0, 4, 3⟩, { req tyLoad 2 0 atSp with ptag := 1 }, req tyLoad 2 786429 atSp],
      meets (site u) (Txn.withCrc u) = true ∧ (Txn.withCrc u).ty = tyLoad ∧ (Txn.withCrc u).subop ≤ 11
        ∧ (Txn.withCrc u).payload = [] ∧ (Txn.withCrc u).constituents = [])
    ∧ (∀ u ∈ [req tyStore 0 786428 atSp [1, 2, 3, 4], req tyStore 1 0x2FFF8 atLlc [1, 2, 3, 4, 5, 6, 7, 8], req tyStore 0 0x2FFFF atL2 [1],
        req tyStore 0 (2 ^ 52) atL2 [1], req tyStore 0 0 atHost [1], req tyStore 0 0 atMmio [1] true, req tyStore 0 0 atMmio [1],
        req tyStore 0 0x30000 atLlc [1], req tyStore 0 0x30000 atL2 [1], req tyStore 0 0 ⟨0, 13, 0⟩ [1], { req tyStore 0 0 atSp [1] with ptag := 1 },
        req tyStore 0 786431 atSp [1, 2]],
      meets (site u) (Txn.withCrc u) = true ∧ (Txn.withCrc u).ty = tyStore ∧ (Txn.withCrc u).subop ≤ 1 ∧ (Txn.withCrc u).payload ≠ []) := by decide +kernel
theorem witness_targets :
    (let u := req tyLoad 2 786428 atSp; (site u).agentOf (Txn.withCrc u) = .sp 0 ∧ (site u).ptagOf 0 = 0 ∧ 786428 + 4 ≤ spSize)
    ∧ (let u := req tyLoad 3 0x2FFF8 atLlc; AtLlc (site u) (Txn.withCrc u) 8 ∧ Undirty (site u) 0x2FFF8 8)
    ∧ (let u := req tyLoad 11 0x2F800 atL2; (site u).agentOf (Txn.withCrc u) = .l2 1 ∧ (site u).hbmOk (Txn.withCrc u) 0x2F800 2048 = true)
    ∧ (let u := req tyLoad 2 0x10FC atHost; (site u).agentOf (Txn.withCrc u) = .host ∧ (site u).hostPass 0 0x10FC 4 = true ∧ (site u).hostPass 0 0x10FD 4 = false)
    ∧ (let u := req tyLoad 3 0 atMmio [] true; (site u).agentOf (Txn.withCrc u) = .mmio ∧ (Txn.withCrc u).priv = true)
    ∧ (let u := req tyLoad 3 0x30000 atLlc; (site u).agentOf (Txn.withCrc u) = .llc 0 ∧ (site u).ownerOk 0 0x30000 = false)
    ∧ (let u := req tyLoad 3 0x30000 atL2; (site u).agentOf (Txn.withCrc u) = .l2 1 ∧ (site u).hbmOk (Txn.withCrc u) 0x30000 8 = false)
    ∧ (let u := req tyLoad 0 (2 ^ 52) atL2
       (site u).agentOf (Txn.withCrc u) = .l2 1 ∧ (site u).l2Held 1 (2 ^ 52 + 0) = none ∧ (site u).remoteIn 1 (2 ^ 52) 1 = [] ∧ (site u).backsOn 1 (2 ^ 52) 1 = false)
    ∧ (let u := req tyLoad 2 0 ⟨0, 4, 3⟩; (site u).agentOf (Txn.withCrc u) = .none)
    ∧ (let u := { req tyLoad 2 0 atSp with ptag := 1 }; (site u).agentOf (Txn.withCrc u) = .sp 0 ∧ (site u).ptagOf 0 ≠ 1) := by
  refine ⟨by decide +kernel, ⟨atLlc_of _ _ _ rfl rfl (by decide) (by decide +kernel) (by decide +kernel), undirty_site _ _ _ _ _⟩, ?_⟩
  decide +kernel
/-- A LOAD answers with the bytes; a STORE changes its own (R36, R39). -/
theorem test_load_arrives : let u := req tyLoad 1 4 atSp
    (after (exec (.loadArrive (Txn.withCrc u)) (site u [] [(5, 0x80)]))).wire.map (fun w => (w.2.ty, w.2.status, w.2.payload, w.2.tag)) = [(tyResp, stOk, [0, 0x80], 9)] := by
  decide +kernel
theorem test_store_arrives : let u := req tyStore 0 0x20004 atLlc [7, 0]
    (after (exec (.storeArrive (Txn.withCrc u)) (site u [(0x20003, 1), (0x20005, 1)]))).hbm = [(0x20003, 1), (0x20004, 7)] := by decide +kernel

/-- Additions at a scratchpad and at the LLC, a marked word, a reserved code; two additions on one word that meet at router 1. -/
def addTo (seq : Nat) : Txn := Txn.withCrc { req tyAtomic 0x20 786428 ⟨0, 1, 0⟩ [1, 0, 0, 0] with seq := seq, stream := seq }
def meeting : State := { site (req tyAtomic 0 0 atSp) with wire := [(0, addTo 0), (0, addTo 1)] }
theorem witness_AtomicsArrive :
    (∀ u ∈ [req tyAtomic 0x1A 786424 atSp [1, 0, 0, 0, 0, 0, 0, 0], req tyAtomic 0 0x2FFFC atLlc [1, 0, 0, 0], req tyAtomic 0xD 0 atSp [1, 0, 0, 0]],
      meets (site u) (Txn.withCrc u) = true ∧ (Txn.withCrc u).ty = tyAtomic ∧ (Txn.withCrc u).subop < 64
        ∧ (Txn.withCrc u).payload ≠ [] ∧ (Txn.withCrc u).payload.length ≤ 16)
    ∧ (let u := req tyAtomic 0x1A 786424 atSp [1, 0, 0, 0, 0, 0, 0, 0]
       (site u).agentOf (Txn.withCrc u) = .sp 0 ∧ atomicAll (Txn.withCrc u) 8 5 = some 1
       ∧ poisoned ({ ((site u).core 0) with spPoison := [49151] } : Core).spPoison 786424 8 = true)
    ∧ (let u := req tyAtomic 0 0x2FFFC atLlc [1, 0, 0, 0]
       AtLlc (site u) (Txn.withCrc u) 4 ∧ Undirty (site u) 0x2FFFC 4 ∧ atomicAll (Txn.withCrc u) 4 (2 ^ 32 - 1) = some 0)
    ∧ (meeting.placeOnWire (addTo 1) = some 0 ∧ meeting.earlier 1 (0, addTo 1) none meeting.wire = some (0, addTo 0) ∧ (meeting.router 1).comben = true
       ∧ meeting.onCircuit (addTo 1) = false ∧ meeting.onCircuit (addTo 0) = false ∧ meeting.holds (addTo 1) = false
       ∧ (addTo 0).subop.testBit 5 = true ∧ (meeting.router 1).records (addTo 0) < 16) := by
  refine ⟨by decide +kernel, by decide +kernel, ⟨atLlc_of _ _ _ rfl rfl (by decide) (by decide +kernel) (by decide +kernel), undirty_site _ _ _ _ _, by decide +kernel⟩, ?_⟩
  decide +kernel
theorem test_atomic_arrives : let u := req tyAtomic 0 4 atSp [3, 0, 0, 0]
    let x := after (exec (.atomicArrive none (Txn.withCrc u)) (site u [] [(4, 0xFF)]))
    (x.core 0).sp = [(4, 2), (5, 1)] ∧ x.wire.map (fun w => (w.2.status, w.2.payload)) = [(stOk, [0xFF, 0, 0, 0])] := by decide +kernel

/-- A FIFO of 8-byte elements, capacity 2, one element at place 1, at the scratchpad's end; requests that push and pop it; a bag's at router 12. -/
def fifo (head count : Byte) : List Host.Cell := [(786352, 0xC1), (786360, 2)] ++ (if head = 0 then [] else [(786368, head)])
  ++ (if count = 0 then [] else [(786372, count)]) ++ [(786424, 9)]
def onFifo (ty : Nat) (bs : List Byte) : Txn := { req ty 3 786352 atSp bs with otype := 1 }
def heldPush : Txn := Txn.withCrc { req tyPush 3 0x20000 ⟨2, 4, 4⟩ [5, 0, 0, 0, 0, 0, 0, 0] with otype := 2, oclass := 7, held := true }
def popBag (h : Bool) : Txn := Txn.withCrc { req tyPop 3 0x20000 ⟨2, 4, 4⟩ with otype := 2, oclass := 7, held := h, src := ⟨0, 2, 0⟩ }
def pairing (held : List (Txn × Nat)) : State :=
  { site (req tyLoad 0 0 atSp) with wire := [(0, popBag false)], routers := [(12, { pwinLo := 5 * 2 ^ 56, held := held })] }
theorem witness_ObjectsAndPuthArrive :
    (∀ u ∈ [onFifo tyPush [1, 2, 3, 4, 5, 6, 7, 8], onFifo tyPop []], ∀ c ∈ [(0 : Byte), 1, 2], let s := site u [] (fifo 1 c)
      meets s (Txn.withCrc u) = true ∧ s.agentOf (Txn.withCrc u) = .sp 0 ∧ s.ptagOf 0 = 0 ∧ 786352 + 64 + 2 * 8 = spSize
      ∧ leNat (s.spRead 0 786352 4) = 0xC1 ∧ leNat (s.spRead 0 786360 4) = 2 ∧ leNat (s.spRead 0 786368 4) = 1 ∧ leNat (s.spRead 0 786372 4) = c.toNat
      ∧ poisoned (s.core 0).spPoison 786352 64 = false ∧ (Txn.withCrc u).subop = 3 ∧ Txn.len (Txn.withCrc u) = if (Txn.withCrc u).ty = tyPush then 1 else 0)
    ∧ (let u := onFifo tyPop []
       meets (site u) (Txn.withCrc u) = true ∧ leNat ((site u).spRead 0 786352 4) % 4 = 0)
    ∧ (let s := pairing [(heldPush, 5)]
       s.holds (popBag false) = false ∧ (s.router 12).pairen = true ∧ (s.router 12).window 7 = 5 ∧ 12 ∈ s.routeOf (popBag false)
       ∧ Txn.admissible (popBag false) = true ∧ (s.router 12).held.find? (opposite (popBag false)) = some (heldPush, 5))
    ∧ ((pairing []).router 12).held.find? (opposite (popBag false)) = none
    ∧ (let s := { pairing [] with routers := [(12, { pairen := false })] }
       s.holds (popBag false) = false ∧ 12 ∈ s.routeOf (popBag false) ∧ Txn.admissible (popBag false) = true ∧ (s.router 12).pairen = false)
    ∧ (∀ n, n = 3 ∨ n = 4 → let u := req tyPuth 2 786416 atSp ([1, 2, 3, 4, 5, 6, 7, 8, 1, 2, 3, 4, 5, 6, 7, 8] ++ leBytes 8 0x40)
       let s := { site u with cores := [(0, { acts := List.replicate n ⟨Txn.withCrc u, 0, 0, 0, 0, none⟩ })] }
       meets s (Txn.withCrc u) = true ∧ s.agentOf (Txn.withCrc u) = .sp 0 ∧ s.handlerCore 0 = 0 ∧ s.ptagOf 0 = 0 ∧ (s.core 0).acts.length = n
       ∧ ((Txn.withCrc u).payload.length - 1) / 16 * 16 = 16 ∧ 786416 + 16 = spSize)
    ∧ (let s := fun m => { site (req tyPuth 0 0 atSp) with clusters := [(0, { clhnd := m })] }
       ((s 0x81).cluster (clusterOf 7)).clhnd.toNat.testBit 7 = true ∧ ((s 0x81).cluster (clusterOf 6)).clhnd.toNat.testBit 6 = false
       ∧ ((s 0).cluster (clusterOf 7)).clhnd = 0) := by
  refine ⟨by decide +kernel, by decide +kernel, by decide +kernel, by decide +kernel, by decide +kernel, ?_, by decide +kernel⟩
  intro n h; rcases h with rfl | rfl <;> decide +kernel
/-- A push into the FIFO fills place 0, and the pop gives place 1's element first (R370). -/
theorem test_fifo : let u := onFifo tyPush [3]
    ((after (exec (.pushArrive none (Txn.withCrc u)) (site u [] (fifo 1 1)))).core 0).sp = [(786352, 0xC1), (786360, 2), (786368, 1), (786372, 2), (786416, 3), (786424, 9)]
    ∧ (let u := onFifo tyPop []
       let x := after (exec (.popArrive none (Txn.withCrc u)) (site u [] (fifo 1 1)))
       (x.core 0).sp = [(786352, 0xC1), (786360, 2), (786424, 9)] ∧ x.wire.map (fun w => w.2.payload) = [[9, 0, 0, 0, 0, 0, 0, 0]]) := by decide +kernel

/-- Core 0 waits for a load of eight bytes from the LLC; its response. -/
def asked : Txn := Txn.withCrc { req tyLoad 3 0x2FFF8 atLlc with src := atSp, stream := 15, seq := 65535, tag := 65535 }
def respOf (st : Nat) : Txn := Txn.withCrc (respTo asked st [1, 2, 3, 4, 5, 6, 7, 8] 0)
def badResp : Txn := { respOf stOk with crc := (respOf stOk).crc + 1 }
def loading (resends : Nat) : State :=
  { cores := [(0, { cx0 := { joins := [(32, [{ id := 4 }])] } })], outst := [{ uid := 3, txn := asked, resends := resends }],
    reqs := [{ id := 2, core := 0, ctx := 0, unit := 8, op := 7, tag := 3, stream := 15, key := some 4, size := 8, arg := 8 }], wire := [(0, respOf stOk)] }
theorem returns_of {s : State} {u : Txn} (h : (!s.holds (Txn.withCrc u) && Txn.admissible (Txn.withCrc u) && decide ((Txn.withCrc u).dst.pkg = s.pkg.pkgId)
    && decide ((Txn.withCrc u).dom = none)) = true) :
    Returns s (Txn.withCrc u) := by
  simp only [Bool.and_eq_true, Bool.not_eq_true', decide_eq_true_eq] at h
  exact ⟨h.1.1.1, h.1.1.2, h.1.2, h.2, Txn.crcOk_withCrc u⟩
theorem witness_ResponsesArrive :
    (let s := loading 0
     Returns s (respOf stOk) ∧ (respOf stOk).ty = tyResp ∧ (respOf stOk).constituents = [] ∧ s.outst.find? (fun o => answers o (respOf stOk)) = some { uid := 3, txn := asked, resends := 0 }
       ∧ (respOf stOk).status = stOk ∧ asked.ty = tyLoad ∧ s.joinsAt 0 0 8 0 = [{ id := 4 }])
    ∧ ({ loading 0 with outst := [] } : State).outst.find? (fun o => answers o (respOf stOk)) = none
    ∧ (Txn.crcOk badResp = false ∧ Txn.admissible badResp = true ∧ badResp.ty = tyResp ∧ (loading 0).holds badResp = false ∧ badResp.dst.pkg = 0 ∧ badResp.dom = none)
    ∧ (let s := loading 2
       Returns s (respOf stCrcerr) ∧ (respOf stCrcerr).status = stCrcerr ∧ s.outst = [{ uid := 3, txn := asked, resends := 2 }]
       ∧ answers { uid := 3, txn := asked, resends := 2 } (respOf stCrcerr) = true)
    ∧ (let s := { loading 3 with reqs := [] }
       s.outst = [{ uid := 3, txn := asked, resends := 3 }] ∧ s.reqs = []) :=
  ⟨⟨returns_of (by decide +kernel), by decide +kernel⟩, by decide +kernel, by decide +kernel, ⟨returns_of (by decide +kernel), by decide +kernel⟩, by decide +kernel⟩
theorem test_response : ((after (exec (.respArrive none (respOf stOk)) (loading 0))).joinsAt 0 0 8 0).map (fun q => (q.done, q.val.toNat))
    = [(true, 0x0807060504030201)] := by decide +kernel

/-- SLOTCTL of the last slot with the highest legal and the reserved-free codes, to swap at tick 2^64 - 1. -/
def slotSet (p : Bool) : Txn := { req tySlotctl 3 0 ⟨0, 13, 0⟩ (leBytes 8 255 ++ leBytes 32 (0x3F * 2 ^ 186 + 0x1F) ++ leBytes 8 (2 ^ 64 - 1)) p with ty := tySlotctl }
/-- A bank swap ordered for a tick; port 8 has a failing lane and its spare, port 9 one and the spare used; a frame boundary. -/
def swapping (n : Nat) : State := { routers := [(13, { swapTick := some n })], ports := [(8, { swap := some 7 }), (9, { lane := some 2, swap := some 7 })], pkg := { ticks := 5, swapReady := true } }
theorem witness_RoutersAndPorts :
    (∀ p, meets (site (slotSet p)) (Txn.withCrc (slotSet p)) = true ∧ (Txn.withCrc (slotSet p)).priv = p ∧ (Txn.withCrc (slotSet p)).subop = 3)
    ∧ (0x3F * 2 ^ 186 + 0x1F < 2 ^ 192 ∧ ∀ p, p < 32 → (0x3F * 2 ^ 186 + 0x1F) / 2 ^ (6 * p) % 64 < 0x20 ∨ 0x3E ≤ (0x3F * 2 ^ 186 + 0x1F) / 2 ^ (6 * p) % 64)
    ∧ (let s := swapping
       ((s 5).router 13).swapTick = some 5 ∧ 5 ≤ (s 5).pkg.ticks ∧ ((s 6).router 13).swapTick = some 6 ∧ (s 6).pkg.ticks < 6
         ∧ (s 5).pkg.swapReady = true ∧ ((s 5).port 8).swap = some 7 ∧ ((s 5).port 8).lane = none ∧ ((s 5).port 9).swap ≠ none ∧ ((s 5).port 9).lane ≠ none
         ∧ State.reset.pkg.swapReady = false) := by
  refine ⟨fun p => by cases p <;> decide +kernel, by decide +kernel, by decide +kernel⟩
theorem test_bank_swap : ((after (exec (.slotBankSwap 13) { State.reset with routers := [(13, { swapTick := some 5 })], pkg := { ticks := 5 } })).router 13).actBank = true := by
  decide +kernel

/-- Page tables of partition 0 at 0x20000: 2^25 is the page at 0x30000, the next page the last one of core 0's scratchpad. -/
def tables : List Host.Cell :=
  [(0x20000, 1), (0x20001, 0x10), (0x20002, 2), (0x21000, 1), (0x21001, 0x20), (0x21002, 2), (0x22000, 1), (0x22001, 0x30), (0x22002, 2),
   (0x23080, 1), (0x23081, 0x40), (0x23082, 2), (0x24000, 0xF), (0x24002, 3), (0x24008, 0xF), (0x2400A, 0xB), (0x2400E, 0x10)]
/-- An image of two stripes of 64 positions with generation 7: the first is held here and has a buddy here where b is 1; node 0 is merge unit 31. -/
def pmtImage (b : Nat) : List Byte :=
  leBytes 8 (7 + 2 * 2 ^ 32 + 8 * 2 ^ 41) ++ leBytes 8 (1 * 2 ^ 8 + 2 ^ 32) ++ leBytes 8 0 ++ leBytes 8 5 ++ List.replicate 32 0 ++ leBytes 2 (31 * 2 ^ 9)
    ++ List.replicate 510 0 ++ leBytes 8 (64 * 2 ^ 32) ++ leBytes 8 0 ++ leBytes 8 (b * 2 ^ 27) ++ leBytes 8 0
    ++ leBytes 8 (64 + 128 * 2 ^ 32) ++ leBytes 8 64 ++ leBytes 8 1 ++ leBytes 8 0
def first (b : Nat) : Stripe := { first := 0, last := 64, base := 0, hslot := 0, bslot := 0, hpkg := 0, hmd := 0, bpkg := 0, bmd := 0, bstate := b, lost := false }
def mapped (u : Txn) (b : Nat) (bufs : List NodeBuf := []) : State :=
  { site u tables with
    parts := [(0, { en := true, state := 1, clmask := 0xFFFFF, root := 0x20 })], owner := [(2, 0x10), (3, 0x10)],
    arenas := [(0, BitVec.ofNat 256 (2 ^ 25 + 2 ^ 63 + 2 ^ 64 + 2 ^ 88))], merges := [(799, bufs)],
    pmts := [((4 * 64) * 2 ^ 32 + 5, { image := pmtImage b, committed := some (pmtImage b) }), (768 * 2 ^ 32 + 5, { image := pmtImage b }), (799 * 2 ^ 32 + 5, { image := pmtImage b })] }
def nma : Ep := ⟨0, 4, 0⟩
def attn (sub : Nat) (dst : Ep) (bs : List Byte) : Txn := { req tyAttreq sub 0 dst bs with gen := 7 }
def lastPos (n : Nat) : List Byte := leBytes 4 5 ++ leBytes 4 0 ++ leBytes 4 63 ++ leBytes 4 0 ++ List.replicate n 1
/-- Two appends and a mirror of the stripe's last position. -/
theorem witness_Appends :
    (∀ b, b = 0 ∨ b = 1 → let u := attn 2 nma (lastPos 32)
      let s := mapped u b
      let t := Txn.withCrc u
      meets s t = true ∧ isNma t.dst = true ∧ t.ty = tyAttreq ∧ t.subop = 2
      ∧ s.replica t.dst (leNat (t.payload.take 4)) = some { image := pmtImage b, committed := some (pmtImage b) } ∧ t.ptag = pmtPtag (pmtImage b)
      ∧ t.gen = pmtGen (pmtImage b) ∧ s.appendWaits t false = false ∧ s.appendPlace t (pmtImage b) false = some (2 ^ 25 + 63 * 1024, first b)
      ∧ (first b).bstate = b)
    ∧ (let u := attn 3 nma (lastPos 1024)
       let s := mapped u 1
       let t := Txn.withCrc u
       meets s t = true ∧ t.subop = 3 ∧ s.appendWaits t true = false ∧ s.appendPlace t (pmtImage 1) true = some (2 ^ 25 + 63 * 1024, first 1))
    ∧ (let s := mapped (attn 2 nma []) 0
       s.nmaLeaf 0 0 (2 ^ 25 + 63 * 1024) = some (0, 0x3000F) ∧ s.ownPage 0 0 0 0x3000F = true) := by
  refine ⟨fun b h => ?_, by decide +kernel, by decide +kernel⟩
  rcases h with rfl | rfl <;> decide +kernel
/-- RINGBLK to an owned and to a foreign page, PMTSET, PMTREAD, and the commit notice at the coordinator. -/
theorem witness_Maps :
    (∀ a, a = 0x3FC00 ∨ a = 0x40000 → let u := { attn 6 nma (lastPos 1024) with addr := a }
      let s := mapped u 0
      let t := Txn.withCrc u
      meets s t = true ∧ 4 ≤ t.dst.die ∧ t.dst.die < 12 ∧ t.dst.ep < 5 ∧ Txn.len t = 65 ∧ (s.replica t.dst (leNat (t.payload.take 4))).isSome = true
      ∧ s.ownerOk t.ptag t.addr = decide (a = 0x3FC00))
    ∧ (let u := attn 5 nma (leBytes 8 5 ++ leBytes 8 0x1000)
       let t := Txn.withCrc u
       meets (mapped u 0) t = true ∧ isNma t.dst = true ∧ Txn.len t = 1 ∧ imageAt t ≠ 0)
    ∧ (let u := attn 4 nma (leBytes 8 5 ++ leBytes 8 0x1000)
       let t := Txn.withCrc u
       meets (mapped u 0) t = true ∧ Txn.len t = 1
       ∧ (mapped u 0).replica t.dst (leNat (t.payload.take 4)) = some { image := pmtImage 0, committed := some (pmtImage 0) })
    ∧ (let u := attn 5 ⟨0, 12, 0⟩ (leBytes 8 (5 + 7 * 2 ^ 32) ++ leBytes 8 0)
       let t := Txn.withCrc u
       meets (mapped u 0) t = true ∧ isMerge t.dst = true ∧ Txn.len t = 1 ∧ imageAt t = 0 ∧ (mapped u 0).isCoord t.dst (pmtImage 0) = true
       ∧ t.src.pkg = pmtCoord (pmtImage 0) ∧ leNat ((t.payload.drop 4).take 4) = pmtGen (pmtImage 0)
       ∧ (mapped u 0).replica t.dst (leNat (t.payload.take 4)) = some { image := pmtImage 0 }) := by
  refine ⟨fun a h => ?_, by decide +kernel, by decide +kernel, by decide +kernel⟩
  rcases h with rfl | rfl <;> decide +kernel

/-- A query of the stripe's last position; a partial of node 0 that is the first, that meets the other, that is stale; one for a requester. -/
def ask (gen seqid : Nat) : Txn :=
  { attn 1 nma (leBytes 4 seqid ++ leBytes 4 0 ++ leBytes 4 63 ++ leBytes 4 64 ++ leBytes 4 0x3F800000 ++ leBytes 4 39 ++ List.replicate 24 0) with gen := gen }
def child (gen : Nat) (side : Bool) : Txn :=
  { req tyPartial 0 (39 + 5 * 2 ^ 20) ⟨0, 12, 31⟩ (PRec.mkEmpty 8 false |> fun r => { r with side := side }.bytes) with gen := gen }
theorem witness_QueriesAndPartialsArrive :
    (let u := ask 7 5
     let s := mapped u 0
     let t := Txn.withCrc u
     meets s t = true ∧ isNma t.dst = true ∧ s.nmaHeld t = false ∧ t.subop = 1 ∧ t.gen = pmtGen (pmtImage 0) ∧ s.queryBad t (pmtImage 0) = false
     ∧ s.replica t.dst (leNat (t.payload.take 4)) = some { image := pmtImage 0, committed := some (pmtImage 0) }
     ∧ s.heldStripes t.dst (pmtImage 0) = [(first 0, 0)] ∧ s.pagePa 0 0 (2 ^ 25) = some 0x30000
     ∧ (s.pagePositions (pmtImage 0) 0 0 63 64 0x30000).all (fun p => !p.keyBad && !p.valBad) = true)
    ∧ (let u := attn 1 nma (leBytes 4 5 ++ leBytes 4 255 ++ leBytes 4 63 ++ leBytes 4 64 ++ List.replicate 32 0)
       let s := mapped u 0
       let t := Txn.withCrc u
       meets s t = true ∧ s.nmaHeld t = false ∧ t.gen = pmtGen (pmtImage 0) ∧ s.queryBad t (pmtImage 0) = true
       ∧ s.heldStripes t.dst (pmtImage 0) = [(first 0, 0)] ∧ (first 0).lost = false)
    ∧ (let u := ask 8 5; meets (mapped u 0) (Txn.withCrc u) = true ∧ (Txn.withCrc u).gen ≠ pmtGen (pmtImage 0))
    ∧ (let u := ask 7 6; meets (mapped u 0) (Txn.withCrc u) = true ∧ (mapped u 0).replica nma 6 = none)
    ∧ (∀ g, g = 7 ∨ g = 8 → let u := child g true
       let s := mapped u 0
       let t := Txn.withCrc u
       meets s t = true ∧ t.ty = tyPartial ∧ isMerge t.dst = true ∧ recordLen t = true ∧ s.mergeFull t = false ∧ t.addr / 2 ^ 20 % 2 ^ 32 = 5 ∧ (t.gen = pmtGen (pmtImage 0) ↔ g = 7)
       ∧ s.replica t.dst 5 = some { image := pmtImage 0 } ∧ t.subop + 1 < pmtN (pmtImage 0) ∧ pmtNode (pmtImage 0) 0 = t.dst
       ∧ childDead (pmtImage 0) 0 true = false ∧ childDead (pmtImage 0) 0 false = false ∧ (s.mergeBufs t.dst).find? (sameNode (bufOf t)) = none)
    ∧ (let o := bufOf (child 7 false)
       let u := child 7 true
       ((mapped u 0 [o]).mergeBufs ⟨0, 12, 31⟩).find? (sameNode (bufOf (Txn.withCrc u))) = some o ∧ o.side ≠ (bufOf (Txn.withCrc u)).side
       ∧ (mapped u 0 [o]).mergeFull (Txn.withCrc u) = false)
    ∧ (let u := { child 7 true with subop := 0xFF, dst := ⟨0, 0, 39⟩ }
       meets (mapped u 0) (Txn.withCrc u) = true ∧ coreOfEp (Txn.withCrc u).dst = some 39) := by
  refine ⟨by decide +kernel, by decide +kernel, by decide +kernel, by decide +kernel, fun g h => ?_, by decide +kernel, by decide +kernel⟩
  rcases h with rfl | rfl <;> decide +kernel
theorem noDirty_mapped (u : Txn) (b : Nat) : NoDirty (mapped u b) := fun _ _ => rfl

/-- Context i of core 9 of partition 0, on the cluster of core 9, with the tables of `tables`. -/
def ctx (i : Nat) (c : Cx) (q : Core := {}) : State :=
  { seenBy 9 i c q with parts := [(0, { en := true, state := 1, clmask := 0xFFFFF, root := 0x20, wdlim := 10 })], owner := [(2, 0x10), (3, 0x10)], hbm := tables,
                        pkg := { svc := 2 } }
def failed {ε α : Type} (e : Except ε α) : Option ε := match e with | .ok _ => none | .error x => some x
theorem err_of {ε α : Type} {e : Except ε α} {l : ε} (h : failed e = some l) : e = .error l := by
  cases e with
  | ok x => cases h
  | error x => cases h; rfl
def rdvCore : Core := { cx0 := { run := .running, pause := .rdv, vcc := 3 }, point := some { l := ⟨0, 0, 1⟩, gang := 2 } }
def aGroup : State := { cores := [(0, rdvCore), (7, { rdvCore with cx0 := { rdvCore.cx0 with vcc := 9 } })] }
/-- Late data with and without a cycle left, joins, walks, drains, vectors, a group of two at its rendezvous. -/
theorem witness_Waits :
    (∀ n, n = 0 ∨ n = 1 → let f : Flight := { unit := 8, byp := some 3, val := 5, remain := n, late := true }
      let s := ctx 3 { flights := [f], pause := if n = 0 then .late else .none }
      (s.cx 9 3).flights = [f] ∧ (s.cx 9 3).pause = (if f.remain = 0 then .late else .none))
    ∧ (let s := ctx 0 { pause := .join 33, joins := [(33, [{ id := 1, done := true }])] }
       (s.cx 9 0).pause = .join 33 ∧ ∀ q ∈ s.joinsAt 9 0 (33 / 4) (33 % 4), q.done = true)
    ∧ (let s := ctx 3 { pause := .xlate (2 ^ 25 + 65535) accLoad 0 }
       (s.cx 9 3).pause = .xlate (2 ^ 25 + 65535) accLoad 0 ∧ s.walk (s.ptagOf 9) (2 ^ 25 + 65535) = .ok (0, 0x24000, 0x3000F)
       ∧ s.walk (s.ptagOf 9) (2 ^ 25 + 131072) = .error (0, 1))
    ∧ (let s := ctx 0 { pause := .drain 2 0x8000 }
       (s.cx 9 0).pause = .drain 2 0x8000 ∧ s.unsettled 9 0 2 0x8000 = false
       ∧ { s with reqs := [{ id := 1, core := 9, ctx := 0, unit := 8, op := 0x17, tag := 0, stream := 15, nr := true }] }.unsettled 9 0 2 0x8000 = true)
    ∧ (∀ n, n = 1 ∨ n = 2 → let s := ctx 3 { pause := .rnd n }; (s.cx 9 3).pause = .rnd n)
    ∧ ((aGroup.core 0).point.isSome = true ∧ aGroup.gangCores 0 = [0, 7] ∧ ∀ q ∈ aGroup.gangCores 0, (aGroup.cx q 0).pause = .rdv ∧ (aGroup.cx q 0).run = .running) := by
  refine ⟨fun n h => ?_, by decide +kernel, ⟨rfl, ok_of (by decide +kernel), err_of (by decide +kernel)⟩, by decide +kernel, fun n h => ?_, by decide +kernel⟩
  · rcases h with rfl | rfl <;> decide +kernel
  · rcases h with rfl | rfl <;> rfl
def segOf (n : Nat) : Seg := { ctx := 0, entry := {}, v := [], m := [], ft := [], ct := [], ports := [], byp := [], joins := [], bundles := n }
theorem witness_Bounds :
    (∀ n, n = 9 ∨ n = 10 → let s := ctx 3 { run := .running, wd := n }
      (s.cx 9 3).run = .running ∧ (s.cx 9 3).pause = .none ∧ (s.part (s.ptagOf 9)).wdlim = 10 ∧ (s.cx 9 3).wd = n)
    ∧ ((ctx 0 { pause := .limit { cause := 9 } }).cx 9 0).pause = .limit { cause := 9 }
    ∧ SMap.find ({ ctx 0 {} with segs := [(9, segOf 512)] }).segs 9 = some (segOf 512)
    ∧ ({ ctx 0 {} with bnd := { live := true } } : State).bnd.live = true := by
  refine ⟨fun n h => ?_, rfl, rfl, rfl⟩
  rcases h with rfl | rfl <;> decide +kernel
theorem test_watchdog : ((after (exec (.watchdogExpire 9 0) (ctx 0 { run := .running, wd := 10 }))).cx 9 0).run = .parked { cause := 0x0C, d := [10, 10] } := by
  decide +kernel

/-- Activations of every hint, with context 0 idle or at a suspension point; a monitored word that was written, times out, is polled. -/
def act (h : Nat) : Activation := { txn := req tyPuth h 0 ⟨0, 0, 9⟩, handler := 0x4000, addr := 0x100, len := 16, hint := h }
def monitor (t : Tgt) (w p : Bool) (l : Option Nat) : Monitor := { core := 9, ctx := 1, id := 4, tgt := t, limit := l, scope := 5, woken := w, polling := p }
def monitored (m : Monitor) : State :=
  { ctx 1 { joins := [(60, [{ id := 4 }]), (61, [{ id := 4 }])] } with dies := [(0, { monitors := [m] })], pkg := { ticks := 5 } }
theorem witness_ActivationsAndMonitors :
    (∀ h, h < 3 → let s := ctx 0 { run := .running, pause := .handlers } { acts := [act h] }
      s.actMayStart 9 = true ∧ (s.core 9).acts.find? (fun a => a.running.isNone) = some (act h))
    ∧ (let s := ctx 1 { run := .running } { acts := [act 0] }
       s.actMayStart 9 = true ∧ (s.core 9).cx1.run ≠ .idle)
    ∧ (∀ m ∈ [monitor (.sp 9 786424) true false none, monitor (.sp 9 786424) false false (some 5), monitor (.sp 9 786424) false true (some 6)],
        (monitored m).monitorOf 9 1 = some m ∧ Expects (monitored m) 9 1 m.id { id := 4 } { id := 4 }
        ∧ poisoned ((monitored m).core 9).spPoison 786424 8 = false)
    ∧ (let m := monitor (.remote 255 (2 ^ 52 - 8) 0) false true none
       (monitored m).monitorOf 9 1 = some m ∧ Expects (monitored m) 9 1 m.id { id := 4 } { id := 4 } ∧ (monitored m).polling 9 1 0x42 = false) := by
  refine ⟨fun h hh => ?_, by decide +kernel, ?_, ?_⟩
  · have : h = 0 ∨ h = 1 ∨ h = 2 := by omega
    rcases this with rfl | rfl | rfl <;> decide +kernel
  · intro m hm
    simp only [List.mem_cons, List.not_mem_nil, or_false] at hm
    rcases hm with rfl | rfl | rfl <;> exact ⟨by decide +kernel, ⟨by decide, rfl, rfl, rfl, rfl⟩, by decide +kernel⟩
  · exact ⟨by decide +kernel, ⟨by decide, rfl, rfl, rfl, rfl⟩, by decide +kernel⟩
theorem test_activation : let x := after (exec (.handlerActivationStart 9) (ctx 0 { run := .running, pause := .handlers } { acts := [act 2] }))
    (x.cx 9 2).run = .running ∧ (x.cx 9 2).pc = 0x400 ∧ (x.cx 9 2).argv 0 = 0x100 ∧ (x.cx 9 2).argv 2 = 0x107 := by decide +kernel

theorem witness_ErrorsHandled :
    (let s := ctx 0 { run := .running }
     (s.part (s.ptagOf 9)).prot = false ∧ SMap.find s.segs 9 = none ∧ (s.cx 9 0).run = .running ∧ (s.core 9).corrected < 16 ∧ (s.die 0).l2 = [])
    ∧ (let s := { ctx 0 {} with dies := [(0, { l2 := [(0x2007F, { val := 7, ptag := 0 })] })] }
       ∃ x ∈ (s.die 0).l2, x.1 / 128 = 0x20000 / 128)
    ∧ (∀ r : Bool, let s := { ctx 0 {} with parts := [(0, { en := true, state := 1, clmask := 0xFFFFF, prot := true })], segs := [(8, { segOf 0 with retry := r })] }
       s.logical 9 = 8 ∧ (s.part (s.ptagOf 8)).prot = true ∧ SMap.find s.segs (s.logical 9) = some { segOf 0 with retry := r })
    ∧ (let s := { ctx 0 {} with parts := [(0, { en := true, state := 1, clmask := 0xFFFFF, prot := true })] }
       (s.part (s.ptagOf (s.logical 9))).prot = true ∧ SMap.find s.segs (s.logical 9) = none ∧ (s.core (s.logical 9)).sig = false) := by
  refine ⟨by decide +kernel, ⟨_, .head _, by decide⟩, fun r => by cases r <;> decide +kernel, by decide +kernel⟩
/-- A double error in a scratchpad marks its unit of 16 bytes (R210). -/
theorem test_soft_error : ((after (exec (.softError { site := .scratchpad 9 17, single := false }) (ctx 0 {}))).core 9).spPoison = [1] := by decide +kernel

/-- A checkpoint with one chunk to copy, and one whose commit record is answered. -/
def ckpt (done : Bool) : Ckpt :=
  { id := 1, ckdVa := 2 ^ 25, ptag := 0, die := 0, gen := 1, nrep := 1, ridx := 0, bpkg := 1, region := 0, nchunk := 1, chunks := [512],
    copied := if done then [512] else [], committing := done }
theorem witness_CheckpointsCopy :
    (let s := { ctx 0 {} with ckpts := [ckpt false] }
     s.ckpts[0]? = some (ckpt false) ∧ s.nextChunk (ckpt false) = some 512 ∧ s.chunkPa 0 512 = some 0x30000 ∧ NoDirty s)
    ∧ (let s := { ctx 0 {} with ckpts := [ckpt true] }
       s.ckpts[0]? = some (ckpt true) ∧ s.nextChunk (ckpt true) = none ∧ NoDirty s ∧ s.xlWalk 0 (2 ^ 25 + 24) accStore = .ok (.hbm 0x30018 0) 0x3000F 65536 ∧ s.ownerOk 0 0x30018 = true) :=
  ⟨⟨rfl, by decide +kernel, by decide +kernel, fun _ _ => rfl⟩, ⟨rfl, by decide +kernel, fun _ _ => rfl, by decide +kernel, by decide +kernel⟩⟩

/-- The tables with a page of 2 MiB at 2^26, whose pages partition 0 owns. -/
def tables2 : List Host.Cell := tables.take 12 ++ [(0x23100, 0xF), (0x23102, 0x20)] ++ tables.drop 12
def pagesOwned : SMap Byte := [(2, 0x10), (3, 0x10)] ++ (List.range 32).map fun n => (32 + n, 0x10)
/-- The last 64 bytes of the second page are those of core 0's scratchpad. -/
def endVa : Nat := 2 ^ 25 + 131008
/-- A launch of one point on cluster 1 that has been released, with its tokens, PCLASS, TIMED and HASDL bits, EST and ticks. -/
def launchOf (tokens pclass flags est tick : Nat) : Launch :=
  { words := [BitVec.ofNat 64 (0x100 + 2 ^ 48 + 2 ^ 50 + tokens * 2 ^ 52 + pclass * 2 ^ 56 + flags * 2 ^ 61), 0, 0, 0, 0,
              BitVec.ofNat 64 (0xFFFF + 2 * 2 ^ 16 + est * 2 ^ 36), BitVec.ofNat 64 tick, BitVec.ofNat 64 tick, BitVec.ofNat 64 (endVa / 64), 0, 1, 2, 3, 4,
              BitVec.ofNat 64 (1 + 2 ^ 16), BitVec.ofNat 64 (2 ^ 26 / 64)], released := true }
/-- A machine in full service with launches 1 and 2 of partition 0, its cores and the queue of cluster 1. -/
def sched (ls : SMap Launch) (cores : SMap Core) (ready : List Ready := []) (hold : Option Hold := none) : State :=
  { cores := cores, parts := [(0, { en := true, state := 1, clmask := 0xFFFFF, root := 0x20, frzn := 1, frzbase := 2 ^ 26 })], owner := pagesOwned, hbm := tables2,
    pkg := { svc := 2, ticks := 100 }, dies := [(0, { launches := ls })], clusters := [(1, { ready := ready, hold := hold })] }
def key1 : LKey := ⟨0, 0, 1⟩
def key2 : LKey := ⟨0, 0, 2⟩
theorem witness_LaunchesAndFrameCounter :
    (∀ n, n = 100 ∨ n = 101 → let x := launchOf 0 0 3 0 n
      let s := sched [(1, x)] []
      s.anyLaunch key1 = some x ∧ s.launch key1 = some x ∧ x.timed = true ∧ x.release = n ∧ x.hasdl = true ∧ x.dlDone = false ∧ x.deadline = n
      ∧ s.deadlinesApply 0 = false ∧ { s with parts := [(0, { en := true, state := 1, dlen := true })] }.deadlinesApply 0 = true)
    ∧ (let x := launchOf 15 0 0 0 0
       (sched [(1, x)] []).fireable key1 = some (x, 0, 0, [1]) ∧ x.nkern = 1 ∧ ((sched [(1, x)] []).cluster 1).ready.length < 256)
    ∧ (sched [] []).fireable key1 = none
    ∧ (let x := { launchOf 15 0 0 0 0 with done := 1, counts := [(0, 1)] }
       (sched [(1, x)] []).launch key1 = some x ∧ (sched [(1, x)] []).mayRetire key1 = true ∧ x.bad = none ∧ x.compaddr = endVa)
    ∧ (let x := { launchOf 15 0 0 0 0 with done := 1, counts := [(0, 1)] }
       let s := sched [(1, x)] []
       s.anyLaunch key1 = some x ∧ s.ckpts = [] ∧ (s.die 0).pending = [] ∧ ((s.die 0).launches.all fun y => y.2.pred.isNone) = true ∧ s.spOk 0 0 = true)
    ∧ (let s := sched [(1, launchOf 0 0 3 0 100)] []
       s.deadlines.pkg.stoppers = [] ∧ { s with parts := [(0, { en := true, state := 1, dlen := true })] }.deadlines.pkg.stoppers ≠ [])
    ∧ ((sched [] []).pkg.stoppers = [] ∧ ∀ r : Bool, ({ pkg := { stoppers := [⟨key1, 5, 0, r⟩] } } : State).pkg.stoppers ≠ []) := by
  refine ⟨fun n h => ?_, by decide +kernel, by decide +kernel, by decide +kernel, by decide +kernel, by decide +kernel, by decide +kernel⟩
  rcases h with rfl | rfl <;> decide +kernel
/-- 64 bytes of one page lie in a scratchpad if the page's leaf says so. -/
theorem toSp_of {s : State} {va e leaf off : Nat} (hp : va % 65536 + 64 ≤ 65536) (h : (s.walk 0 va).toOption = some (0, e, leaf))
    (hl : ((List.range 64).all fun j => decide (s.applyLeaf (va + j) accStore leaf 65536 = .ok (.sp 0 (off + j)) leaf 65536)) = true) :
    ToSp s 0 va 64 0 off := by
  refine ⟨hp, fun j hj => ⟨leaf, 65536, ?_⟩⟩
  have p : (va + j) / 65536 = va / 65536 := by omega
  have w : s.walk 0 (va + j) = .ok (0, e, leaf) := by
    rw [State.walk_page s 0 p]
    cases g : s.walk 0 va with
    | error x => rw [g] at h; cases h
    | ok x => rw [g] at h; injection h with h; rw [h]
  unfold State.xlWalk
  rw [w]
  exact of_decide_eq_true (List.all_eq_true.mp hl j (List.mem_range.mpr hj))
theorem toSp_done : ToSp (sched [(1, { launchOf 15 0 0 0 0 with done := 1, counts := [(0, 1)] })] []) 0 endVa 64 0 786368 :=
  toSp_of (e := 0x24008) (leaf := 0x100000000B000F) (by decide) (by decide +kernel) (by decide +kernel)
/-- A point that fires takes frame 0 (R102, R106). -/
theorem test_point_fire : ((after (exec (.pointFire key1) (sched [(1, launchOf 15 0 0 0 0)] []))).launch key1).map (fun l => (l.fired, l.frames)) = some ([0], [(0, 0)]) := by
  decide +kernel

def entryOfQueue (cls since : Nat) : Ready := { cr := { pc := 0x100, lid := 1, prio := 4 * cls, aff := 1 }, cls := cls, since := since }
theorem witness_CoresTakeWork :
    (∀ c, c < 4 → let s := sched [(1, launchOf (4 * c) 0 0 0 0)] [] [entryOfQueue 0 0, entryOfQueue c 1]
      let r := entryOfQueue c (if c = 0 then 0 else 1)
      s.coreFree 9 = true ∧ (s.cluster (clusterOf 9)).ready.find? (fun y => y.cls == r.cls) = some r ∧ (∀ y ∈ (s.cluster (clusterOf 9)).ready, y.cls ≤ r.cls) ∧ r.cls ≤ 3
      ∧ s.runs r.cr.ptag = true ∧ r.cr.gang = 0 ∧ (s.cluster (clusterOf 9)).hold = none ∧ (s.cluster (clusterOf 9)).overflow = [] ∧ r.cr.flags < 3)
    ∧ (sched [] [(9, { cx0 := { run := .running } })]).coreFree 9 = false
    ∧ (∀ n, n = 3 ∨ n = 4 → ((sched [] [] [] (some ⟨2, key1, [8], n⟩)).cluster 1).hold = some ⟨2, key1, [8], n⟩) := by
  refine ⟨fun c h => ?_, by decide +kernel, fun n _ => rfl⟩
  have : c = 0 ∨ c = 1 ∨ c = 2 ∨ c = 3 := by omega
  rcases this with rfl | rfl | rfl | rfl <;> decide +kernel
/-- After AGEQ = 100 ticks an entry of class 0 is in class 1; one of class 3 stays, and one of 99 ticks (R104). -/
theorem test_aging : ((after (exec (.readyQueueAging 1) (sched [] [] [entryOfQueue 0 0, entryOfQueue 3 0, entryOfQueue 1 1]))).cluster 1).ready.map (fun r => (r.cls, r.since))
    = [(3, 0), (1, 1), (1, 100)] := by decide +kernel

/-- Every core of cluster 1 runs a point of launch 2. -/
def crowd (q : Core) : SMap Core := (List.range 8).map fun j => (8 + j, { q with cx0 := { run := .running }, point := some { l := key2 } })
/-- A saved launch whose record at 2^26 lists one CR, and whose VALID bit is set or not. -/
def listed : Cr := { pc := 0x100, lid := 1, prio := 15, aff := 1, state := 4 }
def savedLaunch : Launch := { launchOf 15 0 0 0 0 with saved := true, crs := [listed] }
def record (valid : Bool) : List Host.Cell :=
  SMap.setRun 0 (SMap.setRun 0 tables2 0x200848 (listed.toWords.flatMap (leBytes 8))) 0x200000 (leBytes 8 (1 + 2 ^ 32 + (if valid then 2 ^ 48 else 0)))
def backed (valid : Bool) : State := { sched [(1, savedLaunch)] [] with hbm := record valid }
theorem witness_Preemption :
    (∀ p, p < 3 → let n := launchOf 15 0 0 0 0
      let v := launchOf 14 p 0 0xFFFFFF 0
      let s := sched [(1, n), (2, v)] (crowd {})
      s.preemptDue key1 = true ∧ s.saveDue key1 = false ∧ s.launch key1 = some n ∧ s.victim n.clset = some (key2, v) ∧ s.launch key2 = some v
      ∧ s.preemptAction n v 0 = (if p = 0 then 1 else p + 1))
    ∧ (let n := launchOf 15 0 0 0 0
       let v := launchOf 14 2 0 100 0
       (sched [(1, n), (2, v)] (crowd {})).preemptAction n v 0 = 1 ∧ v.remaining = some 100)
    ∧ (sched [(1, { launchOf 15 0 0 0 0 with preempting := true })] []).saveDue key1 = true
    ∧ (let s := sched [] [(9, { suspReq := true, point := some { l := key2 } })]
       (s.core 9).suspReq = true ∧ (s.core 9).point.isSome = true ∧ (s.cx 9 0).pause ≠ .suspending)
    ∧ ((backed true).takeBackDue key1 = true ∧ (backed true).launch key1 = some savedLaunch ∧ ((backed true).die 0).pending = []
       ∧ (backed true).recordOk key1 savedLaunch = true ∧ (backed false).recordOk key1 savedLaunch = false ∧ (backed false).takeBackDue key1 = true
       ∧ (match ((backed true).readFrontier key1 savedLaunch).crs with
          | [c] => c.wait == 0 && !c.reserved && c.aff == 1
          | _ => false) = true) := by
  refine ⟨fun p h => ?_, by decide +kernel, by decide +kernel, by decide +kernel, by decide +kernel⟩
  have : p = 0 ∨ p = 1 ∨ p = 2 := by omega
  rcases this with rfl | rfl | rfl <;> decide +kernel

/-- Core 9 with the point of launch 1: at its suspension point, to be frozen, and to be restored from the image at 2^26. -/
def pointed (c : Cx) (q : Core := {}) (l : Launch := launchOf 15 1 0 0 0) : State :=
  sched [(1, l)] [(9, { q with cx0 := c, point := some { l := key1, frame := endVa } })]
/-- A launch whose work area lies so that its list of CRs is in the scratchpad. -/
def nearLaunch : Launch := { launchOf 15 1 0 0 0 with words := (launchOf 15 1 0 0 0).words.set 15 (BitVec.ofNat 64 ((2 ^ 25 + 65536) / 64)) }
def frozenCr : Cr := { pc := 2 ^ 26 / 65536, flags := 8, lid := 1, image := 2 ^ 26, home := some 9, frame := endVa, state := 4 }
def frozen : State := sched [(1, launchOf 15 1 0 0 0)] [(9, { restore := some frozenCr })]
theorem witness_SuspendAndRestore :
    (let s := pointed { run := .running, pause := .suspending, pc := 0x123 } {} nearLaunch
     let list := nearLaunch.area + 2112 + 8 * nearLaunch.nrow + 64 * nearLaunch.crs.length
     Alone s 9 ∧ s.suspendDue 9 = true ∧ s.suspFault 9 = none ∧ s.launch key1 = some nearLaunch ∧ nearLaunch.preempting = false
     ∧ s.ckpts = [] ∧ s.spOk 0 0 = true ∧ ToSp s 0 endVa 64 0 786368 ∧ ToSp s 0 list 64 0 723016 ∧ 723016 + 64 ≤ 786368
     ∧ (s.cluster (clusterOf 9)).ready.length < 256)
    ∧ (let l := { launchOf 15 1 0 0 0 with preempting := true }
       let s := pointed { run := .running, pc := 0x123 } { freezeReq := true } l
       Alone s 9 ∧ s.freezeDue 9 = true ∧ SMap.find s.segs 9 = none ∧ s.heldFault 9 = false ∧ s.freezeSlot 0 = some (0, 2 ^ 26)
       ∧ s.sysWritable 0 (2 ^ 26) 0x160000 = true ∧ s.launch key1 = some l ∧ l.preempting = true)
    ∧ (∃ img, frozen.restoreGroup 9 = some [(9, frozenCr, img)])
    ∧ ∃ ma leaf size, frozen.translateNow 9 0 (2 ^ 26) accLoad = .ok (.hbm 0x200000 ma) leaf size := by
  refine ⟨⟨by unfold Alone; decide +kernel, by decide +kernel, by decide +kernel, by decide +kernel, rfl, rfl, by decide +kernel,
      toSp_of (e := 0x24008) (leaf := 0x100000000B000F) (by decide) (by decide +kernel) (by decide +kernel),
      toSp_of (e := 0x24008) (leaf := 0x100000000B000F) (by decide +kernel) (by decide +kernel) (by decide +kernel), by decide, by decide +kernel⟩,
    ⟨by unfold Alone; decide +kernel, by decide +kernel, by decide +kernel, by decide +kernel, by decide +kernel, by decide +kernel, by decide +kernel, by decide +kernel⟩, ?_,
    ⟨0, 0x20000F, 2 ^ 21, by decide +kernel⟩⟩
  obtain ⟨img, h⟩ := Option.isSome_iff_exists.mp (by decide +kernel : (frozen.sysRead (dieOf 9) frozenCr.ptag frozenCr.image 0x160000).isSome = true)
  refine ⟨img, ?_⟩
  have hm : frozen.cores = [(9, { restore := some frozenCr })] := rfl
  have hr : (frozen.core 9).restore = some frozenCr := rfl
  simp [State.restoreGroup, hm, hr, h]

/-- Partition 0 with one slot, and a stream of die 0 whose SCB at 2^25 has BASE 0x100, SIZE 0x1000 and HEAD 0x10. -/
def strmOf (slot : Option Nat) : Strm := { part := 0, j := 0, scb := 2 ^ 25, slot := slot, size := 0x1000 }
def streaming (ss : List Strm) (tail : Byte) : State :=
  { parts := [(0, { en := true, state := 1, clmask := 0xFFFFF, root := 0x20, nslots := 1 })], owner := pagesOwned, pkg := { svc := 2 },
    hbm := tables2 ++ [(0x30001, 1), (0x30009, 0x10)] ++ (if tail = 0 then [] else [(0x30010, tail)]) ++ [(0x30018, 0x10)], dies := [(0, { streams := ss })] }
theorem witness_StreamsRun :
    ((1 : Word).getLsbD 0 = true ∧ (streaming [] 0x20).strm 0 0 = none ∧ (0 : Word).getLsbD 0 = false ∧ (streaming [strmOf none] 0x20).strm 0 0 = some (strmOf none))
    ∧ (let s := streaming [strmOf none] 0x20
       s.nextWaiting 0 0 = some (strmOf none) ∧ s.freeSlot 0 0 = some 0 ∧ s.headOf (strmOf none) = some 0x10 ∧ s.tailOf (strmOf none) = some 0x20
       ∧ s.sysWord 0 0 (2 ^ 25) = some 0x100 ∧ s.sysWord 0 0 (2 ^ 25 + 8) = some 0x1000)
    ∧ (let t := { strmOf none with stopped := true }; (streaming [t] 0x20).strm 0 0 = some t)
    ∧ (∀ b ∈ [(0x20 : Byte), 0x21, 0, 0xF0], let t := { strmOf (some 0) with loaded := true, parked := true, head := 0x10, size := 0x40 }
       (streaming [t] b).strm 0 0 = some t ∧ (streaming [t] b).tailOf t = some b.toNat)
    ∧ (let t := { strmOf (some 0) with loaded := true, head := 0x10 }
       let u := { strmOf none with j := 4 }
       (streaming [t, u] 0x20).strm 0 0 = some t ∧ (streaming [t, u] 0x20).streamQuiet t.key = true ∧ (streaming [t, u] 0x20).crowded t = true
       ∧ (streaming [t] 0x20).crowded t = false
       ∧ ({ streaming [t, u] 0x20 with cores := [(t.key, { cx0 := { hold := some 5 } })] } : State).streamQuiet t.key = false) := by decide +kernel
/-- The stream starts at BASE + HEAD (R84, R113). -/
theorem test_stream_map : ((after (exec (.streamMap 0 0) (streaming [strmOf none] 0x20))).cx (streamKey 0 0) 0).pc = 0x11
    ∧ ((after (exec (.streamMap 0 0) (streaming [strmOf none] 0x20))).cx (streamKey 0 0) 0).run = .running := by decide +kernel

/-- Partition 1 in a state, enabled or not, with clusters 19 and 18; partition 0 holds cluster 0. -/
def parted (n : Nat) (en : Bool) : State :=
  { parts := [(0, { en := true, state := 1, clmask := 1 }), (1, { en := en, state := n, clmask := 0xC0000, fenced := n == 2, resetKeepEn := en, hbmgb := 0 })],
    pkg := { svc := 2, numVfs := 2 }, owner := [(0, 0x10)] }
theorem noClash_of {s : State} {p : Nat} {w : Word}
    (h : ((List.range 16).all fun q => q == p || !(s.part q).en || decide ((s.part q).clmask &&& descMask w = 0)) = true) : NoClash s p w := fun q hq hne hen => by
  have := List.all_eq_true.mp h q (List.mem_range.mpr hq)
  simp only [Bool.or_eq_true, beq_iff_eq, Bool.not_eq_true', decide_eq_true_eq] at this
  rcases this with (rfl | h1) | h2
  · exact absurd rfl hne
  · rw [hen] at h1; cases h1
  · exact h2
theorem witness_Partitions :
    (∀ n, n = 0 ∨ n = 1 ∨ n = 3 → ((parted n true).part 1).state ≠ 2 ∧ ((parted n true).part 1).en = true)
    ∧ ((parted 2 true).part 1).state = 2 ∧ (∀ o ∈ (parted 2 true).outst, o.txn.ptag ≠ 1) ∧ (∀ c ∈ (parted 2 true).ckpts, c.ptag ≠ 1)
    ∧ (parted 2 true).llc = [] ∧ (∀ d, d < 4 → ((parted 2 true).die d).pending = [])
    ∧ (∃ o ∈ ({ parted 2 true with outst := [{ uid := 1, txn := { asked with ptag := 1 } }] } : State).outst, o.txn.ptag = 1) ∧ ((parted 3 true).part 1).state = 3
    ∧ (((parted 0 false).part 1).en = false ∧ ((parted 0 false).part 1).state ≠ 2 ∧ NoClash (parted 0 false) 1 0xFFFFE ∧ ¬ NoClash (parted 0 false) 1 0xFFFFF)
    ∧ (let s := parted 1 true
       SMap.get 0 s.owner 0 = 0x10 ∧ (0x11 : Byte).getLsbD 4 = true ∧ (0x01 : Byte).getLsbD 4 = false ∧ SMap.get 0 s.owner 0 ≠ (0x11 : Byte) &&& 0x1F
       ∧ (s.part 1).hbmgb * 16384 ≤ (s.owner.filter fun (x : Nat × Byte) => x.2.toNat % 32 == 17).length) := by
  refine ⟨fun n h => ?_, by decide +kernel, by decide +kernel, fun c h => (by cases h), rfl, fun d _ => rfl, ⟨_, .head _, rfl⟩, by decide +kernel,
    ⟨by decide +kernel, by decide +kernel, noClash_of (by decide +kernel),
    fun h => absurd (h 0 (by decide) (by decide) rfl) (by decide +kernel)⟩, by decide +kernel⟩
  rcases h with rfl | rfl | rfl <;> decide +kernel
theorem test_enable : let x := after (exec (.partitionEnable 1 0x0040000400000002 0x5000) (parted 0 false))
    (x.part 1).en = true ∧ (x.part 1).clmask = 2 ∧ (x.part 1).hbmgb = 4 ∧ (x.part 1).nslots = 64 ∧ (x.part 1).root = 5
    ∧ ((after (exec (.partitionEnable 1 1 0) (parted 0 false))).part 1).err = true := by decide +kernel

theorem witness_ResetsAndStages :
    (State.reset.pkg.trip = false ∧ State.reset.pkg.svc = 0)
    ∧ ({ pkg := { trip := true } } : State).pkg.trip = true
    ∧ (∀ n, n < 4 → ({ pkg := { svc := n } } : State).pkg.svc = n) ∧ ({ pkg := { svc := 1 } } : State).pkg.vfEnable = false := by
  refine ⟨by decide +kernel, by decide +kernel, fun n _ => rfl, by decide +kernel⟩
theorem test_service : (after (exec .reducedServiceReached State.reset)).pkg.svc = 1
    ∧ (after (exec (.configurationRequest (.setNumVfs 16)) { pkg := { svc := 1 } })).pkg.numVfs = 16
    ∧ (after (exec .linkLoss State.reset)).pkg.linkUp = false := by decide +kernel

theorem witness_RegisterWrites :
    ((4 : Word).getLsbD 2 = true ∧ (4 : Word).getLsbD 3 = false ∧ (4 : Word).getLsbD 4 = false)
    ∧ ((8 : Word).getLsbD 2 = false ∧ (8 : Word).getLsbD 3 = true ∧ (8 : Word).getLsbD 4 = false)
    ∧ ((16 : Word).getLsbD 2 = false ∧ (16 : Word).getLsbD 3 = false ∧ (16 : Word).getLsbD 4 = true)
    ∧ (State.reset.part 15).msixPend = 0 := by decide +kernel
/-- FSC's DEGRADED bit is cleared by writing 1, and reserved bits of a window are dropped (R32, R33). -/
theorem test_register_writes : ((after (exec (.registerWrite (.fsc 3) 0x10) { routers := [(3, { degraded := true })] })).router 3).degraded = false
    ∧ ((after (exec (.registerWrite (.pwinLo 3) 0xFF) {})).router 3).pwinLo = 0x3F := by decide +kernel

theorem witness_ServiceActions :
    (let s : State := { pkg := { spareCores := [(41, 0)], swapReady := true, swapPending := [(42, 1000), (43, 1001)] } }
     sparesTaken s 42 < 2 ∧ s.pkg.swapReady = true ∧ (42, 1000) ∈ s.pkg.swapPending ∧ s.swappable 42 = true
     ∧ (43, 1001) ∈ s.pkg.swapPending ∧ 2 ≤ sparesTaken s 44 + (s.pkg.swapPending.filter fun (x : Nat × Nat) => x.1 / 40 == 44 / 40).length
     ∧ sparesTaken s 84 + (s.pkg.swapPending.filter fun (x : Nat × Nat) => x.1 / 40 == 84 / 40).length < 2)
    ∧ ((ctx 3 { run := .trapped }).swappable 9 = false ∧ State.reset.pkg.swapReady = false)
    ∧ (let s : State := { pkg := { swapPending := [(42, 1000)] } }
       ∀ n, (42, n) ∈ s.pkg.swapPending → n ≤ 1000)
    ∧ (∀ c ∈ [(9 : Nat), 0x0C], (ctx 3 { run := .parked { cause := c } }).cx 9 3 = { run := .parked { cause := c } } ∧ c ≠ 0x0A ∧ c ≠ 0x0B)
    ∧ ((ctx 3 { run := .halted }).cx 9 3).run = .halted := by
  refine ⟨by decide +kernel, by decide +kernel, fun n h => ?_, ?_, rfl⟩
  · simp only [List.mem_singleton, Prod.mk.injEq] at h
    omega
  · intro c hc
    simp only [List.mem_cons, List.not_mem_nil, or_false] at hc
    rcases hc with rfl | rfl <;> exact ⟨rfl, by decide, by decide⟩
theorem test_throttle : ((after (exec (.thermalThrottle 2) { pkg := { heat := [(2, 950)] } })).die 2).mhz = 900
    ∧ (after (exec (.smcPowerCap 1399) State.reset)).pkg.capWatts = 2800 := by decide +kernel

/-- BAR2 of partition 0 at 2^25: its first page is HBM, the second a scratchpad, the third unmapped. -/
def barred (en : Bool) : State :=
  { parts := [(0, { en := en, state := if en then 1 else 0, clmask := 0xFFFFF, root := 0x20, bar2 := BitVec.ofNat 64 (2 ^ 25) })], owner := pagesOwned, hbm := tables,
    pkg := { svc := 2 } }
theorem witness_HostAccesses :
    (let s := barred true
     HostFree s ∧ s.fnServes 0 = true ∧ 131072 + 8 ≤ 2 ^ (s.part 0).bar2Lg ∧ (s.part 0).en = true ∧ s.closed 0 = false ∧ s.ckpts = []
     ∧ (s.part 0).bar2.toNat = 2 ^ 25
     ∧ s.bar2Targets 0 (2 ^ 25 + 131064) 8 accStore = some [(2 ^ 25 + 131064, 8, .sp 0 786424)] ∧ s.bar2Targets 0 (2 ^ 25 + 65528) 8 accStore = some [(2 ^ 25 + 65528, 8, .hbm 0x3FFF8 0)]
     ∧ s.bar2Targets 0 (2 ^ 25 + 131064) 8 accLoad = some [(2 ^ 25 + 131064, 8, .sp 0 786424)] ∧ poisoned (s.core 0).spPoison 786424 8 = false
     ∧ s.bar2Targets 0 (2 ^ 25 + 65528) 8 accLoad = some [(2 ^ 25 + 65528, 8, .hbm 0x3FFF8 0)] ∧ poisoned s.hbmPoison 0x3FFF8 8 = false
     ∧ s.bar2Targets 0 (2 ^ 25 + 131072) 8 accLoad = none)
    ∧ NoDirty (barred true)
    ∧ (HostFree (barred false) ∧ (barred false).fnServes 0 = true ∧ ((barred false).part 0).en = false)
    ∧ ((barred true).part 0).bar2Lg = 30
    ∧ ({ barred true with hostq := [{ part := 0, off := 0, write := none, len := 8 }] }).hostq ≠ [] := by
  refine ⟨⟨⟨rfl, rfl⟩, by decide +kernel⟩, fun _ _ => rfl, ⟨⟨rfl, rfl⟩, rfl, rfl⟩, rfl, List.cons_ne_nil _ _⟩
theorem test_bar2 : ((after (exec (.bar2Access { part := 0, off := 131064, write := some [0, 7], len := 0 }) (barred true))).core 0).sp = [(786425, 7)] := by decide +kernel

theorem witness_MemoryStaysCanonical : State.reset.memOk = true ∧ after (step State.reset) = State.reset
    ∧ (let s := barred true; s.memOk = true) := by decide +kernel
theorem witness_RegisterWriteLands : ∃ e f : Nat, e < 256 ∧ f < 256 ∧ f ≠ e := ⟨255, 0, by decide, by decide, by decide⟩

/-! ### The assembler and the container (chapter 11) -/

/-- A kernel with a line of chapter 20's first kernel: its bundle as Table 3 prints it, and an empty one (R225, R258). -/
theorem test_cras_source : (crasSource ".section .text
  alu0.b0 -> alu1.o1 || 2 -> alu1.cltu => g1   // B3: g1 := (2 <u CODE)
  .space 16").map Cras.text = some [0x4000000000624802006014A08FFA1FF0, emptyBundle] := by decide +kernel
/-- The vectors of R234's template: NDEP 3, and word 4 as the rule gives it. -/
theorem test_cras_deps : ((({ launches := [List.replicate 16 0] } : Cras).deps [] (argsOf "(1,0), (0,1), (1,1)".toList)).map fun c =>
    c.launches.map fun l => (l.getD 0 0, l.getD 4 0)) = some [(3 * 2 ^ 58, 0x0000000840100001)] := by decide +kernel
/-- R219, R221, R223, R224, R225: a reserved name, the guard (!g0), a scope that is missing, two triggers to one unit, an odd `.word`. -/
theorem test_cras_refuses : ((["alu0: 1 -> s1", "(!g0) 1 -> s1", "1 -> lsu.drain", "1 -> seq.jmp || 2 -> seq.jmp", ".word 1", "8589934592 -> s1"].map
    fun l => (crasSource (".section .text\n" ++ l)).isNone) = List.replicate 6 true) := by decide +kernel
/-- R220: C precedence, exact integers, division toward zero; FP32 rounding of a decimal literal. -/
theorem test_cras_values : exprVal [] "-7 / 2 + (1 << 4 | 3) * 2".toList = some (.abs 35) ∧ exprVal [] "f32(0.1)".toList = some (.abs 0x3DCCCCCD) := by
  decide +kernel
/-- A container of one bundle, and what the loader does with it at 0x400_0000: an executable leaf that is not writable (R226 to R228); a
changed byte is refused. -/
def oneBundle : List Byte := withFileCrc (layOut [{ ty := 1, bytes := leBytes 16 emptyBundle }])
theorem test_load : (match State.reset.loadContainer 2 [] [⟨0, 0x4000000, 0x20000, some 0x1000⟩] oneBundle with
    | some s => decide (leNat (s.hbmRead 0x1000 8) = 0x2000B) && decide (leNat (s.hbmRead 0x20000 16) = emptyBundle)
    | none => false) = true ∧ sectsOf (oneBundle.set 100 1) = none := by decide +kernel
/-- The MPC48 relocation of R231 keeps the bits that it does not name. -/
theorem test_relocate : ((relocate (fun _ => 0x4000000) [⟨1, 0, 32⟩] [⟨3, 8, 0, 4, leBytes 8 0xD49000000000001⟩] (3 * 2 ^ 40 + 2 * 2 ^ 48) (16 * 2 ^ 32)).map
    fun l => rd (partOf l 8) 0 8) = some 0xD49000000400003 := by decide +kernel

end Sys2Proof.Tests
end

section
/-! SUPPORT. What the functions of the integer units give in the arithmetic of R293's table and R294's pseudocode, what a
transport that acts makes of its trigger, and the statement about alu0, alu1 and agu. -/

namespace Sys2Proof.Machine

open Sys2Proof.Claims

/-! ### Products, shifts and rotation (R293) -/

theorem mul_eq_ofNat (a b : Word) : a * b = BitVec.ofNat 64 (a.toNat * b.toNat) :=
  BitVec.eq_of_toNat_eq (by rw [BitVec.toNat_mul, BitVec.toNat_ofNat])

/-- The unsigned product's high word is a division of numbers. -/
theorem mulHigh_natCast (m n : Nat) : mulHigh m n = BitVec.ofNat 64 (m * n / 2 ^ 64) := by
  rw [← BitVec.ofInt_natCast]
  rfl

theorem shiftLeft_eq_ofNat (a : Word) (n : Nat) : a <<< n = BitVec.ofNat 64 (a.toNat * 2 ^ n) :=
  BitVec.eq_of_toNat_eq (by rw [BitVec.toNat_shiftLeft, BitVec.toNat_ofNat, Nat.shiftLeft_eq])

theorem ushiftRight_eq_ofNat (a : Word) (n : Nat) : a >>> n = BitVec.ofNat 64 (a.toNat / 2 ^ n) := by
  have hlt : a.toNat / 2 ^ n < 2 ^ 64 := Nat.lt_of_le_of_lt (Nat.div_le_self ..) a.isLt
  apply BitVec.eq_of_toNat_eq
  rw [BitVec.toNat_ushiftRight, BitVec.toNat_ofNat, Nat.mod_eq_of_lt hlt, Nat.shiftRight_eq_div_pow]

/-- A power of two, read as an integer. -/
theorem natCast_two_pow (n : Nat) : ((2 ^ n : Nat) : Int) = 2 ^ n := Int.natCast_pow 2 n

theorem sshiftRight_eq_ofInt (a : Word) (n : Nat) : a.sshiftRight n = BitVec.ofInt 64 (a.toInt / 2 ^ n) := by
  rw [BitVec.sshiftRight, Int.shiftRight_eq_div_pow, natCast_two_pow]

/-- The bits that leave at the top come in below those that stay, so the two parts add. -/
theorem rotateLeft_eq_ofNat (a : Word) {n : Nat} (hn : n < 64) :
    a.rotateLeft n = BitVec.ofNat 64 (a.toNat * 2 ^ n % 2 ^ 64 + a.toNat / 2 ^ (64 - n)) := by
  have hpow : 2 ^ 64 = 2 ^ n * 2 ^ (64 - n) := by rw [← Nat.pow_add]; congr 1; omega
  have hhigh : a.toNat * 2 ^ n % 2 ^ 64 = 2 ^ n * (a.toNat % 2 ^ (64 - n)) := by
    rw [hpow, Nat.mul_comm a.toNat, Nat.mul_mod_mul_left]
  have hlow : a.toNat / 2 ^ (64 - n) < 2 ^ n := Nat.div_lt_of_lt_mul (by rw [Nat.mul_comm, ← hpow]; exact a.isLt)
  have hor : (a.rotateLeft n).toNat = a.toNat * 2 ^ n % 2 ^ 64 + a.toNat / 2 ^ (64 - n) := by
    rw [BitVec.toNat_rotateLeft, Nat.mod_eq_of_lt hn, Nat.shiftLeft_eq, Nat.shiftRight_eq_div_pow, hhigh,
      Nat.two_pow_add_eq_or_of_lt hlow]
  rw [← hor, BitVec.ofNat_toNat, BitVec.setWidth_eq]

/-- The low half that limm keeps of b. -/
theorem ofNat_mod_two_pow_32 (b : Word) : BitVec.ofNat 64 (b.toNat % 2 ^ 32) = b &&& 0xFFFFFFFF := by
  apply BitVec.eq_of_toNat_eq
  rw [BitVec.toNat_and, BitVec.toNat_ofNat, Nat.mod_eq_of_lt (by omega)]
  exact (Nat.and_two_pow_sub_one_eq_mod b.toNat 32).symm

/-! ### Sums, minima and clamping (R293) -/

theorem add_eq_ofNat (a b : Word) : a + b = BitVec.ofNat 64 (a.toNat + b.toNat) :=
  BitVec.eq_of_toNat_eq (by rw [BitVec.toNat_add, BitVec.toNat_ofNat])

theorem sub_eq_ofInt (a b : Word) : a - b = BitVec.ofInt 64 (a.toNat - b.toNat) := by
  apply BitVec.eq_of_toNat_eq
  rw [BitVec.toNat_sub, BitVec.toNat_ofInt]
  omega

theorem cmpLt_min (a b : Word) : (if cmpLt b a then b else a) = BitVec.ofInt 64 (min a.toInt b.toInt) := by
  have hmin : min a.toInt b.toInt = if b.toInt < a.toInt then b.toInt else a.toInt := by split <;> omega
  rw [hmin, apply_ite (BitVec.ofInt 64), BitVec.ofInt_toInt, BitVec.ofInt_toInt]
  simp only [cmpLt, decide_eq_true_eq]

theorem cmpLt_max (a b : Word) : (if cmpLt a b then b else a) = BitVec.ofInt 64 (max a.toInt b.toInt) := by
  have hmax : max a.toInt b.toInt = if a.toInt < b.toInt then b.toInt else a.toInt := by split <;> omega
  rw [hmax, apply_ite (BitVec.ofInt 64), BitVec.ofInt_toInt, BitVec.ofInt_toInt]
  simp only [cmpLt, decide_eq_true_eq]

theorem cmpLtu_min (a b : Word) : (if cmpLtu b a then b else a) = BitVec.ofNat 64 (min a.toNat b.toNat) := by
  have hmin : min a.toNat b.toNat = if b.toNat < a.toNat then b.toNat else a.toNat := by split <;> omega
  rw [hmin, apply_ite (BitVec.ofNat 64)]
  simp only [cmpLtu, decide_eq_true_eq, BitVec.ofNat_toNat, BitVec.setWidth_eq]

theorem cmpLtu_max (a b : Word) : (if cmpLtu a b then b else a) = BitVec.ofNat 64 (max a.toNat b.toNat) := by
  have hmax : max a.toNat b.toNat = if a.toNat < b.toNat then b.toNat else a.toNat := by split <;> omega
  rw [hmax, apply_ite (BitVec.ofNat 64)]
  simp only [cmpLtu, decide_eq_true_eq, BitVec.ofNat_toNat, BitVec.setWidth_eq]

theorem clamp64_eq_max_min (x : Int) : clamp64 x = max (-(2 ^ 63)) (min (2 ^ 63 - 1) x) := by
  unfold clamp64
  split
  · omega
  · split <;> omega

/-- The clamped flag says that the value lies outside the signed range. -/
theorem clamped_eq_outside (x : Int) : clamped x = (decide (x < -(2 ^ 63)) || decide (2 ^ 63 ≤ x)) := by
  rw [clamped, clamp64_eq_max_min, ← Bool.decide_or, decide_eq_decide]
  omega

/-- A flag's word, where the flag decides a proposition. -/
theorem flagWord_decide (p : Prop) [Decidable p] : flagWord (decide p) = if p then 1 else 0 := by
  rw [flagWord]
  simp only [decide_eq_true_eq]

theorem flagWord_cmpNe (a b : Word) : flagWord (cmpNe a b) = if a ≠ b then 1 else 0 := by
  rw [cmpNe, ← decide_not, flagWord_decide]

/-! ### Bit fields (R294) -/

theorem bfField_unsigned (a : Word) (pos len : Nat) : bfField false a pos len = BitVec.ofNat 64 (a.toNat / 2 ^ pos % 2 ^ len) := by
  have hw : (a.setWidth 128).toNat = a.toNat := BitVec.toNat_setWidth_of_le (by decide)
  show BitVec.ofNat 64 ((a.setWidth 128).toNat / 2 ^ pos % 2 ^ len) = _
  rw [hw]

/-- A field that lies below bit `w` is the same in the residue modulo 2^w. -/
theorem field_emod_two_pow (n : Int) {pos len w : Nat} (h : pos + len ≤ w) :
    n % 2 ^ w / 2 ^ pos % 2 ^ len = n / 2 ^ pos % 2 ^ len := by
  have hw : (2 : Int) ^ w = 2 ^ pos * (2 ^ len * 2 ^ (w - (pos + len))) := by
    rw [← Int.pow_add, ← Int.pow_add]; congr 1; omega
  have hn : n % 2 ^ w = n + 2 ^ pos * (2 ^ len * (2 ^ (w - (pos + len)) * -(n / 2 ^ w))) := by
    rw [Int.emod_def]
    generalize n / 2 ^ w = q
    rw [hw, Int.mul_neg, Int.mul_neg, Int.mul_neg, Int.sub_eq_add_neg, Int.mul_assoc, Int.mul_assoc]
  have hpos : (2 : Int) ^ pos ≠ 0 := Int.ne_of_gt (Int.pow_pos (by decide))
  rw [hn, Int.add_mul_ediv_left _ _ hpos, Int.add_mul_emod_self_left]

/-- The field that bfxs starts from is that of the signed number. -/
theorem bfField_signed_toNat (a : Word) {pos len : Nat} (hpos : pos < 64) (hlen : len ≤ 64) :
    ((bfField true a pos len).toNat : Int) = a.toInt / 2 ^ pos % 2 ^ len := by
  have hx : ((a.signExtend 128).toNat : Int) = a.toInt % 2 ^ 128 := by
    rw [BitVec.signExtend, BitVec.toNat_ofInt]
    omega
  have hlt : (a.signExtend 128).toNat / 2 ^ pos % 2 ^ len < 2 ^ 64 :=
    Nat.lt_of_lt_of_le (Nat.mod_lt _ (Nat.two_pow_pos len)) (Nat.pow_le_pow_right (by decide) hlen)
  have hf : (bfField true a pos len).toNat = (a.signExtend 128).toNat / 2 ^ pos % 2 ^ len :=
    (BitVec.toNat_ofNat ..).trans (Nat.mod_eq_of_lt hlt)
  rw [hf, Int.natCast_emod, Int.natCast_ediv, natCast_two_pow, natCast_two_pow, hx, field_emod_two_pow _ (by omega)]

/-- A residue modulo 2h taken to the range from -h: it is the residue itself below h, and 2h less from h on. -/
theorem emod_centred (n : Int) {f h : Int} (hf : f = n % (2 * h)) (hh : 0 < h) :
    (n + h) % (2 * h) - h = if h ≤ f then f - 2 * h else f := by
  have hlo : 0 ≤ f := hf ▸ Int.emod_nonneg n (by omega)
  have hhi : f < 2 * h := hf ▸ Int.emod_lt_of_pos n (by omega)
  rw [← Int.emod_add_emod, ← hf]
  split
  · rw [← Int.sub_emod_right, Int.emod_eq_of_lt (by omega) (by omega)]
    omega
  · rw [Int.emod_eq_of_lt (by omega) (by omega)]
    omega

/-- A field that counts as negative, in 64 bits. -/
theorem ofNat_two_pow_64_sub {k : Nat} (f : Nat) (hk : k ≤ 2 ^ 64) : BitVec.ofNat 64 (2 ^ 64 - k + f) = BitVec.ofInt 64 (f - k) := by
  apply BitVec.eq_of_toNat_eq
  rw [BitVec.toNat_ofNat, BitVec.toNat_ofInt]
  omega

theorem bfSigned_eq_ofInt (a : Word) {pos len : Nat} (hpos : pos < 64) (hlen : len ≤ 64) :
    bfSigned a pos len
      = if len = 0 then 0 else BitVec.ofInt 64 ((a.toInt / 2 ^ pos + 2 ^ (len - 1)) % 2 ^ len - 2 ^ (len - 1)) := by
  have hfield := bfField_signed_toNat a hpos hlen
  simp only [bfSigned]
  generalize (bfField true a pos len).toNat = f at hfield ⊢
  cases len with
  | zero =>
    rw [Int.pow_zero, Int.emod_one] at hfield
    have hzero : f = 0 := Int.ofNat_eq_zero.mp hfield
    subst hzero
    rfl
  | succ m =>
    have hpow : (2 : Int) ^ (m + 1) = 2 * 2 ^ m := by rw [Int.pow_succ, Int.mul_comm]
    have hcentred := emod_centred (a.toInt / 2 ^ pos) (f := f) (h := 2 ^ m) (by rw [hfield, hpow]) (Int.pow_pos (by decide))
    rw [← hpow] at hcentred
    have htop : 2 ^ (m + 1) ≤ 2 ^ 64 := Nat.pow_le_pow_right (by decide) hlen
    have hcast : (2 : Int) ^ m ≤ f ↔ 2 ^ m ≤ f := by rw [← natCast_two_pow, Int.ofNat_le]
    rw [if_neg m.succ_ne_zero, Nat.add_sub_cancel, hcentred]
    by_cases h : 2 ^ m ≤ f
    · rw [if_pos ⟨m.succ_ne_zero, h⟩, if_pos (hcast.mpr h), ofNat_two_pow_64_sub f htop, natCast_two_pow]
    · rw [if_neg fun hc => h hc.2, if_neg fun hc => h (hcast.mp hc), BitVec.ofInt_natCast]

theorem bfInsert_eq (a c : Word) (pos len : Nat) :
    bfInsert a c pos len = (c &&& ~~~ BitVec.ofNat 64 ((2 ^ len - 1) * 2 ^ pos))
      ||| (BitVec.ofNat 64 (a.toNat * 2 ^ pos) &&& BitVec.ofNat 64 ((2 ^ len - 1) * 2 ^ pos)) := by
  rw [← shiftLeft_eq_ofNat]
  rfl

/-! ### Counts (R293) -/

theorem leadingZeros_eq (a : Word) : 64 - bitLen a.toNat = if a = 0 then 64 else 63 - Nat.log2 a.toNat := by
  by_cases h : a = 0
  · subst h; rfl
  · have hn : a.toNat ≠ 0 := fun e => h (BitVec.eq_of_toNat_eq e)
    rw [if_neg h, bitLen, if_neg hn]
    omega

/-- The search from bit 64 - n up finds the first set bit there. -/
theorem trailing_eq_findIdx (a : Word) {n : Nat} (h0 : n ≠ 0) (hn : n ≤ 64) :
    trailing a n = 64 - n + (List.range' (64 - n) n).findIdx fun i => a.getLsbD i := by
  induction n with
  | zero => exact absurd rfl h0
  | succ m ih =>
    have hstart : 64 - (m + 1) = 63 - m := by omega
    rw [trailing, List.range'_succ, List.findIdx_cons, hstart]
    cases hbit : a.getLsbD (63 - m) with
    | true => rw [if_pos rfl, cond_true, Nat.add_zero]
    | false =>
      by_cases hm : m = 0
      · subst hm; rfl
      · have hnext : 63 - m + 1 = 64 - m := by omega
        rw [hnext, if_neg Bool.false_ne_true, if_neg hm, ih hm (by omega), cond_false]
        omega

/-- Trailing zeros are the place of the first set bit, 64 if there is none. -/
theorem trailing_64_eq_findIdx (a : Word) : trailing a 64 = (List.range 64).findIdx fun i => a.getLsbD i := by
  rw [trailing_eq_findIdx a (by decide) (Nat.le_refl 64), Nat.sub_self, Nat.zero_add, List.range_eq_range']

theorem popCount_eq_length_filter (x n : Nat) : popCount x n = ((List.range n).filter fun i => x.testBit i).length := by
  induction n generalizing x with
  | zero => rfl
  | succ n ih =>
    rw [popCount, ih, List.range_succ_eq_map, List.filter_cons, List.filter_map, Nat.testBit_zero]
    have hshift : (fun i => x.testBit i) ∘ Nat.succ = fun i => (x / 2).testBit i := funext fun i => Nat.testBit_succ x i
    rw [hshift]
    rcases Nat.mod_two_eq_zero_or_one x with h | h
    · rw [h, Nat.zero_add, if_neg (by decide), List.length_map]
    · rw [h, if_pos (by decide), List.length_cons, List.length_map, Nat.add_comm]

/-! ### A trigger that acts (R123, R265) -/

/-- A transport whose source is read has its effect on the value. -/
theorem State.acting_of_reads {s s' : State} {t : Tr} {seq whole : Bool} {v : Val} (h : Reads s t seq whole v s')
    (f : Val → State → State) : s.acting t seq whole f = .next (f v s') := by
  obtain ⟨hguard, hseq, hread⟩ := h
  have hacts : s.acts t seq = true := by
    rw [State.acts, hguard, Bool.true_and, Bool.or_eq_true, Bool.not_eq_true']
    exact (Bool.eq_false_or_eq_true seq).symm.imp_right hseq
  rw [State.acting, if_pos hacts, hread]

section Triggers
variable {i : Instr} {u : AluSel} {t : Tr} {s s' : State} {v : Val}

/-- The one-result rows of alu are `State.aluOp` on a function with the values of R293's table. -/
theorem exec_eq_aluOp_of_aluOne {lat : Nat} {f : Word → Word → Word → (Fin 8 → Bool) → Word}
    (hi : aluOne i = some (u, t, lat, f)) :
    ∃ F, (∀ x, exec i x = x.aluOp u t lat F) ∧ ∀ a b c x, F a b c x = f a b c x.me.getG := by
  unfold aluOne at hi
  split at hi <;> cases hi
  · exact ⟨_, fun _ => (rfl : _ = execAluMul ..), fun a b _ _ => mul_eq_ofNat a b⟩
  · exact ⟨_, fun _ => (rfl : _ = execAluMulh ..), fun _ _ _ _ => rfl⟩
  · exact ⟨_, fun _ => (rfl : _ = execAluMulhu ..), fun a b _ _ => mulHigh_natCast a.toNat b.toNat⟩
  · exact ⟨_, fun _ => (rfl : _ = execAluAnd ..), fun _ _ _ _ => rfl⟩
  · exact ⟨_, fun _ => (rfl : _ = execAluOr ..), fun _ _ _ _ => rfl⟩
  · exact ⟨_, fun _ => (rfl : _ = execAluXor ..), fun _ _ _ _ => rfl⟩
  · exact ⟨_, fun _ => (rfl : _ = execAluAndn ..), fun _ _ _ _ => rfl⟩
  · exact ⟨_, fun _ => (rfl : _ = execAluShl ..), fun a b _ _ => shiftLeft_eq_ofNat a (b.toNat % 64)⟩
  · exact ⟨_, fun _ => (rfl : _ = execAluShr ..), fun a b _ _ => ushiftRight_eq_ofNat a (b.toNat % 64)⟩
  · exact ⟨_, fun _ => (rfl : _ = execAluSar ..), fun a b _ _ => sshiftRight_eq_ofInt a (b.toNat % 64)⟩
  · exact ⟨_, fun _ => (rfl : _ = execAluRol ..), fun a b _ _ => rotateLeft_eq_ofNat a (Nat.mod_lt b.toNat (by decide))⟩
  · exact ⟨_, fun _ => (rfl : _ = execAluMin ..), fun a b _ _ => cmpLt_min a b⟩
  · exact ⟨_, fun _ => (rfl : _ = execAluMax ..), fun a b _ _ => cmpLt_max a b⟩
  · exact ⟨_, fun _ => (rfl : _ = execAluMinu ..), fun a b _ _ => cmpLtu_min a b⟩
  · exact ⟨_, fun _ => (rfl : _ = execAluMaxu ..), fun a b _ _ => cmpLtu_max a b⟩
  · exact ⟨_, fun _ => (rfl : _ = execAluSel ..), fun _ _ _ _ => rfl⟩
  · exact ⟨_, fun _ => (rfl : _ = execAluLimm ..), fun a b _ _ => congrArg (a <<< 32 ||| ·) (ofNat_mod_two_pow_32 b)⟩
  · exact ⟨_, fun _ => (rfl : _ = execAluCeq ..), fun a b _ _ => flagWord_decide (a = b)⟩
  · exact ⟨_, fun _ => (rfl : _ = execAluCne ..), fun a b _ _ => flagWord_cmpNe a b⟩
  · exact ⟨_, fun _ => (rfl : _ = execAluClt ..), fun a b _ _ => flagWord_decide (a.toInt < b.toInt)⟩
  · exact ⟨_, fun _ => (rfl : _ = execAluCle ..), fun a b _ _ => flagWord_decide (a.toInt ≤ b.toInt)⟩
  · exact ⟨_, fun _ => (rfl : _ = execAluCltu ..), fun a b _ _ => flagWord_decide (a.toNat < b.toNat)⟩
  · exact ⟨_, fun _ => (rfl : _ = execAluCleu ..), fun a b _ _ => flagWord_decide (a.toNat ≤ b.toNat)⟩
  · exact ⟨_, fun _ => (rfl : _ = execAluCbit ..), fun _ _ _ _ => rfl⟩

/-- The bit-field and counting rows are `State.aluOp` at latency 1 on a function with the values of R294, pos and len taken
from b. -/
theorem exec_eq_aluOp_of_aluField {f : Word → Nat → Nat → Word → Word} (hi : aluField i = some (u, t, f)) :
    ∃ F, (∀ x, exec i x = x.aluOp u t 1 F) ∧ ∀ a b c x, F a b c x = f a (bfPos b) (bfLen b) c := by
  unfold aluField at hi
  split at hi <;> cases hi
  · exact ⟨_, fun _ => (rfl : _ = execAluBfx ..), fun a b _ _ => bfField_unsigned a (bfPos b) (bfLen b)⟩
  · exact ⟨_, fun _ => (rfl : _ = execAluBfxs ..),
      fun a b _ _ => bfSigned_eq_ofInt a (Nat.mod_lt b.toNat (by decide)) (Nat.min_le_right ..)⟩
  · exact ⟨_, fun _ => (rfl : _ = execAluBfi ..), fun a b c _ => bfInsert_eq a c (bfPos b) (bfLen b)⟩
  · exact ⟨_, fun _ => (rfl : _ = execAluClz ..), fun a _ _ _ => congrArg (BitVec.ofNat 64) (leadingZeros_eq a)⟩
  · exact ⟨_, fun _ => (rfl : _ = execAluCtz ..), fun a _ _ _ => congrArg (BitVec.ofNat 64) (trailing_64_eq_findIdx a)⟩
  · exact ⟨_, fun _ => (rfl : _ = execAluPopc ..),
      fun a _ _ _ => congrArg (BitVec.ofNat 64) (popCount_eq_length_filter a.toNat 64)⟩

/-- The rows with a flag are `State.aluOp2` on functions with the values and flags of R293's table. -/
theorem exec_eq_aluOp2_of_aluTwo {f : Word → Word → Word} {g : Word → Word → Bool} (hi : aluTwo i = some (u, t, f, g)) :
    ∃ F G, (∀ x, exec i x = x.aluOp2 u t F G) ∧ (∀ a b, F a b = f a b) ∧ ∀ a b, G a b = g a b := by
  have hclamp (n : Int) := congrArg (BitVec.ofInt 64) (clamp64_eq_max_min n)
  unfold aluTwo at hi
  split at hi <;> cases hi
  · exact ⟨_, _, fun _ => (rfl : _ = execAluAdd ..), add_eq_ofNat, fun _ _ => rfl⟩
  · exact ⟨_, _, fun _ => (rfl : _ = execAluSub ..), sub_eq_ofInt, fun _ _ => rfl⟩
  · exact ⟨_, _, fun _ => (rfl : _ = execAluAddsat ..), fun _ _ => hclamp _, fun _ _ => clamped_eq_outside _⟩
  · exact ⟨_, _, fun _ => (rfl : _ = execAluSubsat ..), fun _ _ => hclamp _, fun _ _ => clamped_eq_outside _⟩

/-- A one-result row puts its value in flight for b0. -/
theorem exec_aluOne {lat : Nat} {f : Word → Word → Word → (Fin 8 → Bool) → Word} (hi : aluOne i = some (u, t, lat, f))
    (h : Reads s t false false v s') :
    exec i s = .next (s'.result u.unit 0 lat (wordVal (f (valWord v) (s'.opB u.unit) (s'.opC u.unit) s'.me.getG))) := by
  obtain ⟨F, hexec, hF⟩ := exec_eq_aluOp_of_aluOne hi
  rw [hexec, State.aluOp, State.acting_of_reads h, hF]

/-- A bit-field or counting row puts its value in flight for b0. -/
theorem exec_aluField {f : Word → Nat → Nat → Word → Word} (hi : aluField i = some (u, t, f)) (h : Reads s t false false v s') :
    exec i s = .next (s'.result u.unit 0 1
      (wordVal (f (valWord v) (bfPos (s'.opB u.unit)) (bfLen (s'.opB u.unit)) (s'.opC u.unit)))) := by
  obtain ⟨F, hexec, hF⟩ := exec_eq_aluOp_of_aluField hi
  rw [hexec, State.aluOp, State.acting_of_reads h, hF]

/-- A row with a flag puts its value in flight for b0 and the flag for b1. -/
theorem exec_aluTwo {f : Word → Word → Word} {g : Word → Word → Bool} (hi : aluTwo i = some (u, t, f, g))
    (h : Reads s t false false v s') :
    exec i s = .next ((s'.result u.unit 0 1 (wordVal (f (valWord v) (s'.opB u.unit)))).result1 u.unit 1 1
      (boolVal (g (valWord v) (s'.opB u.unit)))) := by
  obtain ⟨F, G, hexec, hF, hG⟩ := exec_eq_aluOp2_of_aluTwo hi
  rw [hexec, State.aluOp2, State.acting_of_reads h, hF, hG]

/-! ### The address unit (R295) -/

/-- An address row puts the address in flight for b0 and whether it is in bounds for b1. -/
theorem exec_aguSum {f : Word → Word → Word → Word → Word → Word} (hi : aguSum i = some (t, f)) (h : Reads s t false false v s') :
    exec i s = .next
      (let x := f (valWord v) (s'.opB .agu) (genReg s' 0) (genReg s' 1) (genReg s' 2)
       (s'.result .agu 0 1 (wordVal x)).result1 .agu 1 1 (boolVal (inb (genReg s' 0) (genReg s' 3) x))) := by
  unfold aguSum at hi
  split at hi <;> cases hi
  · exact (rfl : _ = execAguLin ..).trans (State.acting_of_reads h _)
  · exact (rfl : _ = execAguTile ..).trans (State.acting_of_reads h _)
  · exact (rfl : _ = execAguArena ..).trans (State.acting_of_reads h _)

end Triggers

/-- Settles O8: each trigger is `State.acting` on its row's function (`exec_aluOne`, `exec_aluField`, `exec_aluTwo`, `exec_aguSum`);
set, step and chk write what their definitions say. -/
theorem integerUnits : Obligations.IntegerUnits := by
  refine ⟨⟨?_, ?_, ?_⟩, ?_, ?_⟩
  · exact fun _ _ _ _ _ _ _ _ hi h => exec_aluOne hi h
  · exact fun _ _ _ _ _ _ _ hi h => exec_aluField hi h
  · exact fun _ _ _ _ _ _ _ _ hi h => exec_aluTwo hi h
  · exact fun _ _ _ _ _ _ hi h => exec_aguSum hi h
  · exact fun _ _ _ _ h => ⟨State.acting_of_reads h _, State.acting_of_reads h _, State.acting_of_reads h _⟩

end Sys2Proof.Machine
end

section
/-! SUPPORT. Elements of a vector (R236): what reading an element of a packed vector, of a mask and of a wider element gives. The
operands and triggers of the vector unit, as the statements about it name them. -/

namespace Sys2Proof.Machine

open Sys2Proof.Claims

/-! ### Packed elements (R236) -/

theorem elem_lt (b x i : Nat) : elem b x i < 2 ^ b := Nat.mod_lt _ (Nat.two_pow_pos b)

theorem pack_lt (b : Nat) (l : List Nat) : pack b l < 2 ^ (b * l.length) := by
  induction l with
  | nil => exact Nat.one_pos
  | cons x t ih =>
    have hx : x % 2 ^ b < 2 ^ b := Nat.mod_lt x (Nat.two_pow_pos b)
    calc pack b (x :: t) < 2 ^ b * (pack b t + 1) := by rw [pack, Nat.mul_succ]; omega
      _ ≤ 2 ^ b * 2 ^ (b * t.length) := Nat.mul_le_mul_left _ ih
      _ = 2 ^ (b * (x :: t).length) := by rw [← Nat.pow_add, List.length_cons, Nat.mul_succ, Nat.add_comm]

theorem elem_pack (b : Nat) (l : List Nat) {j : Nat} (h : j < l.length) : elem b (pack b l) j = l[j] % 2 ^ b := by
  induction l generalizing j with
  | nil => exact absurd h (Nat.not_lt_zero j)
  | cons x t ih =>
    have hlow : x % 2 ^ b / 2 ^ b = 0 := Nat.div_eq_of_lt (Nat.mod_lt x (Nat.two_pow_pos b))
    cases j with
    | zero => rw [elem, pack, Nat.mul_zero, Nat.pow_zero, Nat.div_one, Nat.add_mul_mod_self_left, Nat.mod_mod, List.getElem_cons_zero]
    | succ j =>
      rw [List.getElem_cons_succ, ← ih (Nat.lt_of_succ_lt_succ h), elem, elem, pack, Nat.mul_succ, Nat.add_comm (b * j), Nat.pow_add,
        ← Nat.div_div_eq_div_mul, Nat.add_mul_div_left _ _ (Nat.two_pow_pos b), hlow, Nat.zero_add]

/-- A small element of a wide element is an element of the whole vector. -/
theorem elem_elem (b n x q : Nat) {i : Nat} (h : i < n) : elem b (elem (b * n) x q) i = elem b x (n * q + i) := by
  obtain ⟨r, rfl⟩ := Nat.exists_eq_add_of_lt h
  have hwide : b * (i + r + 1) = b * i + (b + b * r) := by rw [Nat.mul_succ, Nat.mul_add]; omega
  have hplace : b * ((i + r + 1) * q + i) = b * (i + r + 1) * q + b * i := by rw [Nat.mul_add, Nat.mul_assoc]
  rw [elem, elem, elem, hplace, Nat.pow_add, ← Nat.div_div_eq_div_mul]
  generalize x / 2 ^ (b * (i + r + 1) * q) = y
  rw [hwide, Nat.pow_add 2 (b * i), Nat.mod_mul_right_div_self, Nat.pow_add, Nat.mod_mod_of_dvd _ (Nat.dvd_mul_right ..)]

/-- The bits above the width of a result are 0 (R296). -/
theorem mapElems_lt (w b : Nat) (f : Nat → Nat) : mapElems w b f < 2 ^ w := by
  refine Nat.lt_of_lt_of_le (pack_lt b _) (Nat.pow_le_pow_right Nat.two_pos ?_)
  rw [List.length_map, List.length_range]
  exact Nat.mul_div_le w b

theorem elem_mapElems (f : Nat → Nat) {w b j : Nat} (h : j < w / b) : elem b (mapElems w b f) j = f j % 2 ^ b := by
  rw [mapElems, elem_pack b _ (by rwa [List.length_map, List.length_range]), List.getElem_map, List.getElem_range]

/-- Each element is cut to its width. -/
theorem mapElems_congr {w b : Nat} {f g : Nat → Nat} (h : ∀ j, f j % 2 ^ b = g j % 2 ^ b) :
    mapElems w b f = mapElems w b g := by
  have hpack (l : List Nat) : pack b (l.map f) = pack b (l.map g) := by
    induction l with
    | nil => rfl
    | cons x l ih => rw [List.map_cons, List.map_cons, pack, pack, h, ih]
  exact hpack _

theorem bitOf_eq_testBit (x i : Nat) : bitOf x i = x.testBit i := by
  rw [bitOf, Nat.testBit_eq_decide_div_mod_eq, Bool.eq_iff_iff, beq_iff_eq, decide_eq_true_iff]

theorem testBit_eq_elem_one (x i : Nat) : x.testBit i = decide (elem 1 x i = 1) := by
  rw [Nat.testBit_eq_decide_div_mod_eq, elem, Nat.one_mul, Nat.pow_one]

/-- A compare's mask holds the outcome for each of the first 64 elements and no other bit (R308). -/
theorem testBit_maskOf (n : Nat) (p : Nat → Bool) (j : Nat) : (maskOf n p).testBit j = (decide (j < min n 64) && p j) := by
  have hlen : ((List.range (min n 64)).map fun i => if p i then 1 else 0).length = min n 64 := by
    rw [List.length_map, List.length_range]
  by_cases h : j < min n 64
  · rw [testBit_eq_elem_one, maskOf, elem_pack 1 _ (by rwa [hlen]), List.getElem_map, List.getElem_range, decide_eq_true h,
      Bool.true_and]
    cases p j <;> rfl
  · have hbound : maskOf n p < 2 ^ j := Nat.lt_of_lt_of_le (pack_lt 1 _) (Nat.pow_le_pow_right Nat.two_pos (by omega))
    rw [Nat.testBit_lt_two_pow hbound, decide_eq_false h, Bool.false_and]

/-! ### Operands and triggers of the vector unit (R296 to R298) -/

/-- The low bits of an operand port. For a width that is a variable: at 1,024 the power would be a numeral too large to unify. -/
theorem State.opPort_setWidth_toNat (s : State) (u : FUnit) (p n : Nat) :
    ((s.opPort u p).setWidth n).toNat = (s.opPort u p).toNat % 2 ^ n := BitVec.toNat_setWidth n _

@[simp] theorem State.vuB_eq (s : State) : s.vuB = Claims.vuOp s 1 := s.opPort_setWidth_toNat .vu 1 1024
@[simp] theorem State.vuC_eq (s : State) : s.vuC = Claims.vuOp s 0 := s.opPort_setWidth_toNat .vu 0 1024
@[simp] theorem State.vuEsz_eq (s : State) : s.vuEsz = eszBits (vuCtlOf s) := rfl

/-- A trigger of the VU puts its function's value in flight for b(k). -/
theorem State.vuOp_of_reads {s s' : State} {t : Tr} {v : Val} (h : Reads s t false false v s') (w : VWidth) (lat : Nat)
    (f : Nat → State → Nat) : s.vuOp w t lat f = .next (s'.result .vu s'.bnd.vuk lat (natVal (f (vuA v) s'))) :=
  State.acting_of_reads h _

/-! ### Floating-point elements (R301, R302, R306) -/

section Triggers
variable {i : Instr} {w : VWidth} {t : Tr} {lat : Nat}

theorem exec_eq_vuFloat_of_vuFloatRow {f : Fmt} {op : XR → XR → XR → XR} (hi : vuFloatRow i = some (w, t, lat, f, op)) (s : State) :
    exec i s = s.vuFloat w t lat f op := by
  unfold vuFloatRow at hi
  split at hi <;> cases hi <;> rfl

theorem exec_eq_vuFun_of_vuFunRow {f : CrFun} (hi : vuFunRow i = some (w, t, lat, f)) (s : State) :
    exec i s = s.vuFun w t lat f := by
  unfold vuFunRow at hi
  split at hi <;> cases hi <;> rfl

end Triggers

/-- An FP32 code, once more cut to 32 bits, of a value times a block scale (R306). -/
theorem toF32_scaled_mod (x : XR) (e : Nat) :
    toF32 (scaled x e) % 2 ^ 32 = if e = 0xFF then 0x7FC00000 else toF32 (x.scale ((e : Int) - 127)) % 2 ^ 32 := by
  rw [scaled]
  split <;> rfl

/-- Settles O9: each trigger is `mapElems` of its row's function (`exec_eq_vuFloat_of_vuFloatRow`, `exec_eq_vuFun_of_vuFunRow`),
whose elements `elem_mapElems` gives. -/
theorem vuFloatElements : Obligations.VuFloatElements := by
  refine ⟨?_, ?_, ?_⟩
  · intro i w t lat f op s s' v hi h
    rw [exec_eq_vuFloat_of_vuFloatRow hi, State.vuFloat, State.vuOp_of_reads h]
    refine ⟨_, rfl, mapElems_lt .., fun j hj => ?_⟩
    rw [elem_mapElems _ hj, State.vuB_eq, State.vuC_eq]
  · intro i w t lat f s s' v hi h
    rw [exec_eq_vuFun_of_vuFunRow hi, State.vuFun, State.vuOp_of_reads h]
    exact ⟨_, rfl, mapElems_lt .., fun j hj => elem_mapElems _ hj⟩
  · intro w t s s' v h
    refine ⟨_, (rfl : _ = execVuBscl ..).trans (State.vuOp_of_reads h w 3 _), mapElems_lt .., fun j hj => ?_⟩
    rw [elem_mapElems _ hj, State.vuB_eq, toF32_scaled_mod]

end Sys2Proof.Machine
end

section
/-! SUPPORT. What the integer, select, permute, compare and mask functions of the vector unit give in the arithmetic of R307 to R311,
and the statement about them. -/

namespace Sys2Proof.Machine

open Sys2Proof.Claims

/-! ### Elements as signed numbers (R307) -/

theorem ofSint_eq (z : Nat) (x : Int) : ofSint z x = (x % 2 ^ z).toNat := by
  rw [ofSint, natCast_two_pow]

/-- An element is the code of its signed value. -/
theorem ofSint_sint_elem (z x i : Nat) : ofSint z (sint z (elem z x i)) = elem z x i := by
  have hlt := elem_lt z x i
  rw [ofSint, sint, Nat.mod_eq_of_lt hlt]
  split
  · rw [Int.emod_eq_of_lt (by omega) (by omega), Int.toNat_natCast]
  · rw [Int.sub_emod_right, Int.emod_eq_of_lt (by omega) (by omega), Int.toNat_natCast]

/-- Modulo 2^z, adding what is missing from 2^z subtracts. -/
theorem add_two_pow_sub_mod {z b : Nat} (a : Nat) (hb : b < 2 ^ z) :
    (a + (2 ^ z - b)) % 2 ^ z = (((a : Int) - b) % 2 ^ z).toNat % 2 ^ z := by
  have hcast : ((a + (2 ^ z - b) : Nat) : Int) = (a : Int) - b + (2 ^ z : Nat) := by omega
  rw [← natCast_two_pow, ← Int.add_emod_right, ← hcast, ← Int.natCast_emod, Int.toNat_natCast, Nat.mod_mod]

theorem ofSint_div_two_pow (z : Nat) (x : Int) (n : Nat) : ofSint z (x / (2 ^ n : Nat)) = ((x >>> n) % 2 ^ z).toNat := by
  rw [ofSint_eq, Int.shiftRight_eq_div_pow]

theorem signed_min_elem (z a b i : Nat) :
    (if sint z (elem z b i) < sint z (elem z a i) then elem z b i else elem z a i)
      = (min (sint z (elem z a i)) (sint z (elem z b i)) % 2 ^ z).toNat := by
  have hmin (m n : Int) : min m n = if n < m then n else m := by split <;> omega
  rw [← ofSint_eq, hmin, apply_ite (ofSint z), ofSint_sint_elem, ofSint_sint_elem]

theorem signed_max_elem (z a b i : Nat) :
    (if sint z (elem z a i) < sint z (elem z b i) then elem z b i else elem z a i)
      = (max (sint z (elem z a i)) (sint z (elem z b i)) % 2 ^ z).toNat := by
  have hmax (m n : Int) : max m n = if m < n then n else m := by split <;> omega
  rw [← ofSint_eq, hmax, apply_ite (ofSint z), ofSint_sint_elem, ofSint_sint_elem]

theorem clampTo_eq (z : Nat) (x : Int) : clampTo z x = (max (-2 ^ (z - 1)) (min (2 ^ (z - 1) - 1) x) % 2 ^ z).toNat := by
  rw [clampTo, ofSint_eq, natCast_two_pow]

/-! ### Rows of the vector unit -/

section Triggers
variable {i : Instr} {w : VWidth} {t : Tr} {lat : Nat}

/-- The element-wise rows but lrot have the elements of R307's, R309's and R310's tables. -/
theorem exec_eq_mapElems_of_vuElemRow {f : Nat → Nat → (Nat → Nat) → (Nat → Nat) → Nat → Nat → Nat → Nat}
    (hi : vuElemRow i = some (w, t, lat, f)) (hrot : i ≠ .vuLrot w t) (s : State) :
    exec i s = s.vuOp w t lat fun a x => mapElems w.bits x.vuEsz fun j =>
      f x.vuEsz (w.bits / x.vuEsz) (elem x.vuEsz a) (elem x.vuEsz x.vuB) x.vuC x.vuCtl j := by
  unfold vuElemRow at hi
  split at hi <;> cases hi
  · exact (rfl : _ = execVuIadd ..)
  · change execVuIsub w t s = _
    rw [execVuIsub, State.vuInt]
    exact congrArg (s.vuOp w t 3) (funext fun a => funext fun x => mapElems_congr fun j => add_two_pow_sub_mod _ (elem_lt ..))
  · exact (rfl : _ = execVuImul ..)
  · exact (rfl : _ = execVuIand ..)
  · exact (rfl : _ = execVuIor ..)
  · exact (rfl : _ = execVuIxor ..)
  · change execVuIshl w t s = _
    simp only [execVuIshl, State.vuInt, Nat.shiftLeft_eq]
  · change execVuIshr w t s = _
    simp only [execVuIshr, State.vuInt, Nat.shiftRight_eq_div_pow]
  · change execVuIsar w t s = _
    simp only [execVuIsar, State.vuInt, ofSint_div_two_pow]
  · change execVuImin w t s = _
    simp only [execVuImin, State.vuInt, signed_min_elem]
  · change execVuImax w t s = _
    simp only [execVuImax, State.vuInt, signed_max_elem]
  · change execVuIaddsat w t s = _
    simp only [execVuIaddsat, State.vuInt, clampTo_eq]
  · change execVuKsel w t s = _
    simp only [execVuKsel, bitOf_eq_testBit]
  · exact (rfl : _ = execVuPerm ..)
  · exact (rfl : _ = execVuBcast ..)
  · change execVuShuf w t s = _
    simp only [execVuShuf, shufElem, Nat.add_comm] <;> rfl
  · exact absurd rfl hrot

/-- A compare is the mask of its row's outcomes over the elements of its size. -/
theorem exec_eq_maskOf_of_vuCmpRow {byEsz : Bool} {p : Nat → Nat → Nat → Bool} (hi : vuCmpRow i = some (w, t, byEsz, p))
    (s : State) :
    exec i s = s.vuOp w t 3 fun a x =>
      maskOf (w.bits / if byEsz then x.vuEsz else 32) fun j =>
        p (if byEsz then x.vuEsz else 32) (elem (if byEsz then x.vuEsz else 32) a j)
          (elem (if byEsz then x.vuEsz else 32) x.vuB j) := by
  unfold vuCmpRow at hi
  split at hi <;> cases hi <;> rfl

theorem filter_bitOf_mod (a n : Nat) :
    ((List.range n).filter fun i => bitOf (a % 2 ^ n) i) = (List.range n).filter fun i => a.testBit i := by
  refine List.filter_congr fun i hi => ?_
  rw [bitOf_eq_testBit, Nat.testBit_mod_two_pow, decide_eq_true (List.mem_range.mp hi), Bool.true_and]

/-- The rows with one result have the value of R303 to R305, R309 and R311. -/
theorem exec_eq_vuOp_of_vuWholeRow {f : State → Nat → Nat → Nat} (hi : vuWholeRow i = some (w, t, lat, f)) (s : State) :
    exec i s = s.vuOp w t lat fun a x => f x a x.vuB := by
  unfold vuWholeRow at hi
  split at hi <;> cases hi
  · exact (rfl : _ = execVuCvt ..)
  · exact (rfl : _ = execVuBq ..)
  · exact (rfl : _ = execVuIc8d ..)
  · exact (rfl : _ = execVuKand ..)
  · exact (rfl : _ = execVuKor ..)
  · exact (rfl : _ = execVuKxor ..)
  · exact (rfl : _ = execVuKnot ..)
  · change execVuKpop w t s = _
    simp only [execVuKpop, filter_bitOf_mod]
  · exact (rfl : _ = execVuRsum ..)
  · exact (rfl : _ = execVuRmax ..)
  · exact (rfl : _ = execVuRmin ..)
  · change execVuIrsum w t s = _
    simp only [execVuIrsum, ofSint_eq, State.vuEsz_eq]

end Triggers

/-- Settles O10: the element-wise triggers are `mapElems` of their row's function (`exec_eq_mapElems_of_vuElemRow`; lrot, which reads b
as one number, by itself), the compares `maskOf` of their row's outcomes, the other rows one function of the operands. -/
theorem vuIntegerAndMasks : Obligations.VuIntegerAndMasks := by
  refine ⟨?_, ?_, ?_⟩
  · intro i w t lat f s s' v hi h z n
    by_cases hrot : i = .vuLrot w t
    · subst hrot
      cases hi
      refine ⟨_, (rfl : _ = execVuLrot ..).trans (State.vuOp_of_reads h w 4 _), mapElems_lt .., fun j hj => ?_⟩
      rw [if_pos rfl]
      refine (elem_mapElems _ hj).trans ?_
      rw [State.vuB_eq]
      rfl
    · refine ⟨_, (exec_eq_mapElems_of_vuElemRow hi hrot s).trans (State.vuOp_of_reads h w lat _), mapElems_lt .., fun j hj => ?_⟩
      rw [if_neg hrot, ← State.vuB_eq, ← State.vuC_eq]
      exact elem_mapElems _ hj
  · intro i w t byEsz p s s' v hi h z
    refine ⟨_, (exec_eq_maskOf_of_vuCmpRow hi s).trans (State.vuOp_of_reads h w 3 _), fun j => ?_⟩
    rw [testBit_maskOf, State.vuB_eq, State.vuEsz_eq]
  · intro i w t lat f s s' v hi h
    rw [exec_eq_vuOp_of_vuWholeRow hi, State.vuOp_of_reads h, State.vuB_eq]

end Sys2Proof.Machine
end

section
/-! SUPPORT. The random queue of a context (R140): the vectors from its position on, what taking some of them leaves, and the statement
about runif and rnorm. -/

namespace Sys2Proof.SMap

variable {α : Type}

theorem below_eq_filter (i : Nat) (m : SMap α) : below i m = m.filter fun x => x.1 < i := by
  induction m with
  | nil => rfl
  | cons x m ih => simp only [below, List.filter_cons, ih, decide_eq_true_eq]

theorem above_eq_filter (i : Nat) (m : SMap α) : above i m = m.filter fun x => i ≤ x.1 := by
  induction m with
  | nil => rfl
  | cons x m ih => simp only [above, List.filter_cons, ih, decide_eq_true_eq]

theorem below_append (i : Nat) (m l : SMap α) : below i (m ++ l) = below i m ++ below i l := by
  rw [below_eq_filter, below_eq_filter, below_eq_filter, List.filter_append]

theorem above_append (i : Nat) (m l : SMap α) : above i (m ++ l) = above i m ++ above i l := by
  rw [above_eq_filter, above_eq_filter, above_eq_filter, List.filter_append]

theorem below_below (i : Nat) (m : SMap α) : below i (below i m) = below i m := by
  rw [below_eq_filter i (below i m)]
  exact List.filter_eq_self.mpr fun _ hx => decide_eq_true (mem_below hx)

theorem above_above (i : Nat) (m : SMap α) : above i (above i m) = above i m := by
  rw [above_eq_filter i (above i m)]
  exact List.filter_eq_self.mpr fun _ hx => decide_eq_true (mem_above hx)

/-- No key is below one and above it. -/
theorem below_above_succ (i : Nat) (m : SMap α) : below i (above (i + 1) m) = [] := by
  rw [below_eq_filter]
  refine List.filter_eq_nil_iff.mpr fun x hx hlt => ?_
  have hle := mem_above hx
  have hlt := of_decide_eq_true hlt
  omega

theorem above_succ_below (i : Nat) (m : SMap α) : above (i + 1) (below i m) = [] := by
  rw [above_eq_filter]
  refine List.filter_eq_nil_iff.mpr fun x hx hle => ?_
  have hlt := mem_below hx
  have hle := of_decide_eq_true hle
  omega

/-- Of two values put at one key the later one stays. -/
theorem put_put (m : SMap α) (i : Nat) (v w : α) : put (put m i v) i w = put m i w := by
  have hlow : below i (put m i v) = below i m := by
    rw [put, below_append, below_below, below, if_neg (Nat.lt_irrefl i), below_above_succ, List.append_nil]
  have hhigh : above (i + 1) (put m i v) = above (i + 1) m := by
    rw [put, above_append, above_succ_below, above, if_neg (Nat.not_succ_le_self i), above_above, List.nil_append]
  rw [put, hlow, hhigh, put]

end Sys2Proof.SMap

namespace Sys2Proof.Machine

open Sys2Proof.Claims

/-! ### One context updated twice -/

theorem Core.setCx_setCx (c : Core) (i : Nat) (x y : Cx) : (c.setCx i x).setCx i y = c.setCx i y := by
  rcases i with _ | _ | _ | i <;> rfl

theorem State.setCore_setCore (s : State) (k : Nat) (c d : Core) : (s.setCore k c).setCore k d = s.setCore k d := by
  simp only [State.setCore, SMap.put_put]

theorem State.updMe_updMe (s : State) (f g : Cx → Cx) : (s.updMe f).updMe g = s.updMe fun c => g (f c) := by
  have hcx : ((s.updMe f).cx s.cur s.curCx) = f (s.cx s.cur s.curCx) := s.cx_updCx_self s.cur s.curCx f
  change (s.updMe f).setCx s.cur s.curCx (g ((s.updMe f).cx s.cur s.curCx)) = _
  rw [hcx]
  simp only [State.updMe, State.updCx, State.setCx, State.updCore, State.core_setCore, if_true, State.setCore_setCore,
    Core.setCx_setCx]

/-! ### Vectors of the random queue (R139, R140) -/

/-- The vector `n` places after the random position, as a number. -/
def State.drawAt (s : State) (n : Nat) : Nat := (rndVec s.me.rqkey (s.me.rqpos + BitVec.ofNat 64 n)).toNat

/-- The state whose random position is `n` vectors further on. -/
def State.skipDraws (s : State) (n : Nat) : State := s.updMe fun c => { c with rqpos := c.rqpos + BitVec.ofNat 64 n }

theorem State.pop_fst_toNat (s : State) : s.pop.1.toNat = s.drawAt 0 := by
  rw [State.drawAt, BitVec.add_zero]
  rfl

theorem State.pop_snd (s : State) : s.pop.2 = s.skipDraws 1 := rfl

theorem State.drawAt_skipDraws (s : State) (m n : Nat) : (s.skipDraws m).drawAt n = s.drawAt (m + n) := by
  rw [State.drawAt, State.skipDraws, State.me_updMe, State.drawAt, BitVec.ofNat_add, BitVec.add_assoc]

theorem State.skipDraws_skipDraws (s : State) (m n : Nat) : (s.skipDraws m).skipDraws n = s.skipDraws (m + n) := by
  simp only [State.skipDraws, State.updMe_updMe, BitVec.ofNat_add, BitVec.add_assoc]

theorem rndWord_lt (k n : Word) (j : Nat) : rndWord k n j < 2 ^ 32 :=
  Nat.xor_lt_two_pow (Nat.div_lt_of_lt_mul (BitVec.isLt _)) (Nat.mod_lt _ (Nat.two_pow_pos 32))

/-- Words of 32 bits added at their places stay below the next place. -/
theorem foldl_words_lt {f : Nat → Nat} (hf : ∀ j, f j < 2 ^ 32) {n w : Nat} (hw : w = 32 * n) :
    (List.range n).foldl (fun v j => v + f j * 2 ^ (32 * j)) 0 < 2 ^ w := by
  subst hw
  induction n with
  | zero => exact Nat.one_pos
  | succ n ih =>
    rw [List.range_succ, List.foldl_append, List.foldl_cons, List.foldl_nil]
    calc _ < 2 ^ (32 * n) + f n * 2 ^ (32 * n) := Nat.add_lt_add_right ih _
      _ = (f n + 1) * 2 ^ (32 * n) := by rw [Nat.add_comm, ← Nat.succ_mul]
      _ ≤ 2 ^ 32 * 2 ^ (32 * n) := Nat.mul_le_mul_right _ (hf n)
      _ = 2 ^ (32 * (n + 1)) := by rw [← Nat.pow_add, Nat.mul_succ, Nat.add_comm]

theorem natVal_toNat_le (n : Nat) : (natVal n).toNat ≤ n := Nat.mod_le n _

/-- A random vector is a vector of 1,024 bits. -/
theorem State.drawAt_lt (s : State) (n : Nat) : s.drawAt n < 2 ^ 1024 :=
  Nat.lt_of_le_of_lt (natVal_toNat_le _) (foldl_words_lt (rndWord_lt _ _) (n := 32) (w := 1024) rfl)

theorem pack_three {b c x y z : Nat} (hc : c = b + b) (hx : x < 2 ^ b) (hy : y < 2 ^ b) (hz : z < 2 ^ b) :
    pack b [x, y, z] = x + y * 2 ^ b + z * 2 ^ c := by
  rw [hc, pack, pack, pack, pack, Nat.mod_eq_of_lt hx, Nat.mod_eq_of_lt hy, Nat.mod_eq_of_lt hz, Nat.pow_add,
    Nat.mul_zero, Nat.add_zero, Nat.mul_add, ← Nat.add_assoc, ← Nat.mul_assoc, Nat.mul_comm y, Nat.mul_comm z]

/-- Three pops give the next three vectors, packed, and move the position on by three. -/
theorem State.pop3_eq (s : State) : s.pop3 = (pack 1024 ((List.range 3).map s.drawAt), s.skipDraws 3) := by
  have hfirst : s.pop.1.toNat = s.drawAt 0 := s.pop_fst_toNat
  have hsecond : (s.skipDraws 1).pop.1.toNat = s.drawAt 1 := (State.pop_fst_toNat _).trans (s.drawAt_skipDraws 1 0)
  have hthird : (s.skipDraws 2).pop.1.toNat = s.drawAt 2 := (State.pop_fst_toNat _).trans (s.drawAt_skipDraws 2 0)
  have htwo : (s.skipDraws 1).skipDraws 1 = s.skipDraws 2 := s.skipDraws_skipDraws 1 1
  have hthree : (s.skipDraws 2).skipDraws 1 = s.skipDraws 3 := s.skipDraws_skipDraws 2 1
  have hpack := pack_three (b := 1024) (c := 2048) rfl (s.drawAt_lt 0) (s.drawAt_lt 1) (s.drawAt_lt 2)
  have hlist : (List.range 3).map s.drawAt = [s.drawAt 0, s.drawAt 1, s.drawAt 2] := rfl
  simp only [State.pop3, State.pop_snd, htwo, hthree, hfirst, hsecond, hthird, hlist, hpack]

/-- Byte `m` of the three packed vectors is byte `m % 4` of a word of vector `m / 128` (R314). -/
theorem State.elem_pop3 (s : State) {m : Nat} (hm : m < 384) :
    elem 8 s.pop3.1 m = elem 32 (s.drawAt (m / 128)) (m % 128 / 4) / 2 ^ (8 * (m % 4)) % 256 := by
  have hlen : m / 128 < ((List.range 3).map s.drawAt).length := by
    rw [List.length_map, List.length_range]; omega
  have hvec : elem 1024 s.pop3.1 (m / 128) = s.drawAt (m / 128) := by
    rw [State.pop3_eq, elem_pack 1024 _ hlen, List.getElem_map, List.getElem_range, Nat.mod_eq_of_lt (s.drawAt_lt _)]
  calc elem 8 s.pop3.1 m = elem 8 (elem (8 * 128) s.pop3.1 (m / 128)) (m % 128) := by
        rw [elem_elem 8 128 _ _ (Nat.mod_lt m (by decide)), Nat.div_add_mod]
    _ = elem 8 (elem (8 * 4) (s.drawAt (m / 128)) (m % 128 / 4)) (m % 128 % 4) := by
        rw [elem_elem 8 4 _ _ (Nat.mod_lt _ (by decide)), Nat.div_add_mod, ← hvec]
    _ = elem 32 (s.drawAt (m / 128)) (m % 128 / 4) / 2 ^ (8 * (m % 4)) % 256 := by
        rw [Nat.mod_mod_of_dvd m (by decide : 4 ∣ 128)]; rfl

/-! ### The draws (R313, R314) -/

theorem drawZ_eq (bytes j : Nat) :
    drawZ bytes j
      = let sum := ((List.range 12).map fun k => elem 8 bytes (12 * j + k)).sum
        .fin (decide (sum < 1530)) (if sum < 1530 then 1530 - sum else sum - 1530) (-8) := by
  have habs (n : Nat) : Int.natAbs ((n : Int) - 1530) = if n < 1530 then 1530 - n else n - 1530 := by split <;> omega
  simp only [drawZ, habs]

section Triggers
variable {w : VWidth} {t : Tr} {s s' : State} {v : Val}

theorem bits_div_32_le (w : VWidth) : w.bits / 32 ≤ 32 := by
  cases w <;> decide

/-- runif takes one vector; each element is its word's upper 24 bits as a fraction. -/
theorem exec_vuRunif (h : Reads s t false false v s') :
    ∃ x : Nat, exec (.vuRunif w t) s = .next ((s'.skipDraws 1).result .vu s'.bnd.vuk 3 (natVal x)) ∧ x < 2 ^ w.bits
      ∧ ∀ j, j < w.bits / 32 → elem 32 x j = toF32 (.fin false (elem 32 (s'.drawAt 0) j / 2 ^ 8) (-24)) % 2 ^ 32 := by
  refine ⟨_, (rfl : _ = execVuRunif ..).trans (State.acting_of_reads h _), mapElems_lt .., fun j hj => ?_⟩
  refine (elem_mapElems _ hj).trans ?_
  exact congrArg (fun d => toF32 (.fin false (elem 32 d j / 2 ^ 8) (-24)) % 2 ^ 32) s'.pop_fst_toNat

/-- rnorm takes three vectors; each element is the sum of twelve of their bytes, less 1,530, over 256. -/
theorem exec_vuRnorm (h : Reads s t false false v s') :
    ∃ x : Nat, exec (.vuRnorm w t) s = .next ((s'.skipDraws 3).result .vu s'.bnd.vuk 6 (natVal x)) ∧ x < 2 ^ w.bits
      ∧ ∀ j, j < w.bits / 32 → elem 32 x j = toF32 (drawZ s'.pop3.1 j) % 2 ^ 32 := by
  refine ⟨mapElems w.bits 32 fun j => toF32 (drawZ s'.pop3.1 j), ?_, mapElems_lt .., fun j hj => elem_mapElems _ hj⟩
  have hskip : s'.pop3.2 = s'.skipDraws 3 := congrArg Prod.snd s'.pop3_eq
  rw [← hskip]
  exact (rfl : _ = execVuRnorm ..).trans (State.acting_of_reads h _)

end Triggers

/-- Settles O11: runif and rnorm take the next vectors of the queue (`exec_vuRunif`, `exec_vuRnorm`); a byte of three packed vectors
is a byte of one of them (`State.elem_pop3`). -/
theorem vuRandomDraws : Obligations.VuRandomDraws := by
  intro w t s s' v h word byte moved
  refine ⟨exec_vuRunif h, ?_⟩
  obtain ⟨x, hexec, hlt, helem⟩ := exec_vuRnorm (w := w) h
  refine ⟨x, hexec, hlt, fun j hj => ?_⟩
  have hbytes : ((List.range 12).map fun k => elem 8 s'.pop3.1 (12 * j + k)) = (List.range 12).map fun k => byte (12 * j + k) := by
    refine List.map_congr_left fun k hk => s'.elem_pop3 ?_
    have hlane := bits_div_32_le w
    have hk := List.mem_range.mp hk
    omega
  rw [helem j hj, drawZ_eq, hbytes]

end Sys2Proof.Machine
end
